-- ==== Sys2Proof/Word.lean ====
section
/-!
DEFINITION. Word.lean: the word types of the PH8 and the names of its parts (spec 01_engines R9, R10, R17).
-/
namespace Sys2Proof

/-- A 64-bit general register, address or bundle (R39, R63). -/
abbrev Word := BitVec 64
/-- One byte of memory. -/
abbrev Byte := BitVec 8
/-- One 32-bit vector lane or slot word (R39, R192). -/
abbrev Lane := BitVec 32

/-- A die of a package (R9). -/
structure DieRef where
  pkg : Nat
  die : Nat
deriving DecidableEq, Repr

/-- A tile of a die; `tile = row × 12 + column` (R10). -/
structure TileRef where
  pkg : Nat
  die : Nat
  tile : Nat
deriving DecidableEq, Repr

/-- A quad of a tile, cores `4·quad` to `4·quad + 3` (R9). -/
structure QuadRef where
  pkg : Nat
  die : Nat
  tile : Nat
  quad : Nat
deriving DecidableEq, Repr

/-- A core of a tile (R9). -/
structure CoreRef where
  pkg : Nat
  die : Nat
  tile : Nat
  core : Nat
deriving DecidableEq, Repr

/-- A thread slot of a core: the position of COORDR (R68). -/
structure Pos where
  pkg : Nat
  die : Nat
  tile : Nat
  core : Nat
  slot : Nat
deriving DecidableEq, Repr

/-- A crew: the threads of one launch in one slot number of one tile (R16, R17). Its ID names the place, which crews of other
launches have in turn. -/
structure CrewRef where
  pkg : Nat
  die : Nat
  tile : Nat
  slot : Nat
  launch : Nat
deriving DecidableEq, Repr

/-- A join slot of a die, and the use of it that a generation names (R291). -/
structure JoinRef where
  pkg : Nat
  die : Nat
  slot : Nat
  gen : Nat
deriving DecidableEq, Repr

/-- A Span or link port of a package (R9, R350). -/
structure PortRef where
  pkg : Nat
  port : Nat
deriving DecidableEq, Repr

/-- A task queue of a die (R385). -/
structure TaskQueueRef where
  pkg : Nat
  die : Nat
  queue : Nat
deriving DecidableEq, Repr

/-- A partition of a package (R16, R392). -/
structure PartRef where
  pkg : Nat
  part : Nat
deriving DecidableEq, Repr

namespace TileRef
def dieRef (t : TileRef) : DieRef := ⟨t.pkg, t.die⟩
/-- Row of the tile in the 24×24 package grid (R10). -/
def row (t : TileRef) : Nat := 12 * (t.die / 2) + t.tile / 12
/-- Column of the tile in the 24×24 package grid (R10). -/
def col (t : TileRef) : Nat := 12 * (t.die % 2) + t.tile % 12
end TileRef

namespace Pos
def tileRef (p : Pos) : TileRef := ⟨p.pkg, p.die, p.tile⟩
def coreRef (p : Pos) : CoreRef := ⟨p.pkg, p.die, p.tile, p.core⟩
def quadRef (p : Pos) : QuadRef := ⟨p.pkg, p.die, p.tile, p.core / 4⟩
def dieRef (p : Pos) : DieRef := ⟨p.pkg, p.die⟩
def crewRef (p : Pos) (launch : Nat) : CrewRef := ⟨p.pkg, p.die, p.tile, p.slot, launch⟩
/-- The position word of COORDR (R68). -/
def word (p : Pos) : Word :=
  BitVec.ofNat 64 (p.pkg % 1024 * 4194304 + p.die % 4 * 1048576 + p.tile % 256 * 4096 + p.core % 8 * 16 + p.slot % 16)
end Pos

namespace CoreRef
def tileRef (c : CoreRef) : TileRef := ⟨c.pkg, c.die, c.tile⟩
def quadRef (c : CoreRef) : QuadRef := ⟨c.pkg, c.die, c.tile, c.core / 4⟩
def pos (c : CoreRef) (slot : Nat) : Pos := ⟨c.pkg, c.die, c.tile, c.core, slot⟩
end CoreRef

namespace CrewRef
def tileRef (c : CrewRef) : TileRef := ⟨c.pkg, c.die, c.tile⟩
/-- The 16-bit crew ID (R17). -/
def id16 (c : CrewRef) : Nat := c.die % 4 * 4096 + c.tile % 256 * 16 + c.slot % 16
/-- The 26-bit global crew ID (R17). -/
def id26 (c : CrewRef) : Nat := c.pkg % 1024 * 65536 + c.id16
end CrewRef

/-- Bits `h` down to `l` of a natural number (R35). -/
def bits (x h l : Nat) : Nat := x / 2 ^ l % 2 ^ (h + 1 - l)

/-- Bit `i` of a natural number (R35). -/
def bitAt (x i : Nat) : Bool := x / 2 ^ i % 2 == 1

/-- 1 for true, 0 for false (R35). -/
def b2n (b : Bool) : Nat := if b then 1 else 0

end Sys2Proof
end

