-- ==== Sys2Proof/Config.lean ====
section
/-!
DEFINITION. Config.lean: the values the spec leaves open (no body: nothing can evaluate them), and what one implementation fixes.
-/
namespace Sys2Proof.Config
open Sys2Proof

/-- What EVAL holds after the `n`-th BRK fault (R118 names no value; log 21). -/
opaque brkEval : Nat → Word

/-- What PART writes where R87 would divide by a count of 0, from the COORD value, the extent and the control word (log 69). -/
opaque partOfNone : Nat → Nat → Nat → Word

/-- Which FP32 value within the accuracy bound a vector special function returns for an input: a fixed function of the function
number and the input bits (R233; log 7). -/
opaque sfuPick : Nat → Lane → Nat

/-- Reference-time nanoseconds that pass before the `n`-th timed observation (R118 TIME; log 8). -/
opaque elapsedNs : Nat → Nat

/-- Tile cycles that pass before the `n`-th reading of CYC beyond those the issue rule accounts for (R118 CYC; log 8). -/
opaque elapsedCycles : Nat → Nat

/-- Which of the free entries of its tile's queue the `n`-th queued copy job takes (R248, R252; log 23). -/
opaque copyEntry : Nat → Nat

/-- Whether the `n`-th choice of a copy job whose source and destination overlap is the old value: for a source word it has already
written, for a destination byte (R254; log 9). -/
opaque copyOverlapOld : Nat → Bool

/-- The leaf whose partial result is combined next in the `n`-th combining step of a collective round (R363; log 10). -/
opaque combinePick : Nat → Nat

/-- The parent port of the `n`-th router loaded for a tree (R360, R378; log 49). -/
opaque parentPort : Nat → Nat

/-- What the `n`-th broadcast gives whose first leaf has left the group (R363; log 10). -/
opaque bcastGone : Nat → Word

/-- Whether the `n`-th fetch of a bundle that memory has changed since it was cached still reads the old one (R139; log 11). -/
opaque fetchOld : Nat → Bool

/-- The `n`-th byte of an SPDM nonce or signature (R412; log 19). -/
opaque spdmByte : Nat → Byte

/-- Length and bytes of the certificate chain in slot 0 of a package (R412; log 19). -/
opaque chainLength : Nat → Nat
opaque chainByte : Nat → Nat → Byte

/-- The bytes of a measured image or section of a package: index 1 to 5, and the values that a section holds (R412; log 19). -/
opaque measuredBytes : Nat → Nat → List Nat → List Byte

/-- The bytes of the SHA-512 digest of a message (R412; log 19). -/
opaque sha512 : List Byte → Nat → Byte

/-- The margin measured for an operating point of a tile at the `n`-th re-plan: the new share cost (R325, R410; log 20). -/
opaque marginCost : Nat → TileRef → Nat → Nat

/-- Whether the `n`-th re-plan finds the point's margin below its guard (R410; log 20). -/
opaque marginBelowGuard : Nat → TileRef → Nat → Bool

/-- Whether the `n`-th re-plan finds a unit of a core below its guard at P0: core and extension bit (R410; log 20). -/
opaque unitBelowGuard : Nat → CoreRef → Nat → Bool

end Sys2Proof.Config
end

