-- ==== Sys2Proof/Syntax.lean ====
section
/-!
DEFINITION. Syntax.lean: the ONE inductive of everything that happens on a PH8: one constructor per row of
spec/opcode_table.json. The first 252 are the encoded instructions (03_encoding R45 to R49), their arguments the operand fields
from the low bit up, each at its field's width. The others are the steps of engines and of the outside (95), which have no
bits: the object each acts on, and what the outside supplies with it, is State's field `obj`. The constructors with operands
come first (the compiled code of a constructor with fields needs a small tag).
-/
namespace Sys2Proof

inductive Instr where
  /-- ADD (R74). 64-bit add of ga and gb into gd, modulo 2^64. -/
  | add (d a b : BitVec 6)
  /-- SUB (R74). 64-bit subtract gb from ga into gd. -/
  | sub (d a b : BitVec 6)
  /-- MUL (R74). 64-bit multiply, low half into gd. -/
  | mul (d a b : BitVec 6)
  /-- MULH (R74). High half of the signed 128-bit product. -/
  | mulh (d a b : BitVec 6)
  /-- MULHU (R74). High half of the unsigned 128-bit product. -/
  | mulhu (d a b : BitVec 6)
  /-- DIV (R74). Signed division truncated toward zero, with fixed results for zero divisor and overflow. -/
  | div (d a b : BitVec 6)
  /-- DIVU (R74). Unsigned division; a zero divisor gives all ones. -/
  | divu (d a b : BitVec 6)
  /-- REM (R74). Signed remainder matching DIV. -/
  | rem (d a b : BitVec 6)
  /-- REMU (R74). Unsigned remainder; a zero divisor gives the dividend. -/
  | remu (d a b : BitVec 6)
  /-- AND (R74). Bitwise AND. -/
  | and (d a b : BitVec 6)
  /-- OR (R74). Bitwise OR. -/
  | or (d a b : BitVec 6)
  /-- XOR (R74). Bitwise exclusive OR. -/
  | xor (d a b : BitVec 6)
  /-- ANDN (R74). ga AND NOT gb. -/
  | andn (d a b : BitVec 6)
  /-- ORN (R74). ga OR NOT gb. -/
  | orn (d a b : BitVec 6)
  /-- SHL (R74). Shift left by gb mod 64. -/
  | shl (d a b : BitVec 6)
  /-- SHR (R74). Logical shift right by gb mod 64. -/
  | shr (d a b : BitVec 6)
  /-- SAR (R74). Arithmetic shift right by gb mod 64. -/
  | sar (d a b : BitVec 6)
  /-- ROR (R74). Rotate right by gb mod 64. -/
  | ror (d a b : BitVec 6)
  /-- MIN (R74). Signed minimum. -/
  | min (d a b : BitVec 6)
  /-- MAX (R74). Signed maximum. -/
  | max (d a b : BitVec 6)
  /-- MINU (R74). Unsigned minimum. -/
  | minu (d a b : BitVec 6)
  /-- MAXU (R74). Unsigned maximum. -/
  | maxu (d a b : BitVec 6)
  /-- SLT (R74). 1 if ga is signed-less than gb, else 0. -/
  | slt (d a b : BitVec 6)
  /-- SLTU (R74). 1 if ga is unsigned-less than gb, else 0. -/
  | sltu (d a b : BitVec 6)
  /-- SEQ (R74). 1 if ga equals gb, else 0. -/
  | seq (d a b : BitVec 6)
  /-- SNE (R74). 1 if ga differs from gb, else 0. -/
  | sne (d a b : BitVec 6)
  /-- ADD_W (R72). 32-bit add, result sign-extended to 64 bits. -/
  | addW (d a b : BitVec 6)
  /-- SUB_W (R72). 32-bit subtract, sign-extended. -/
  | subW (d a b : BitVec 6)
  /-- MUL_W (R72). 32-bit multiply, sign-extended. -/
  | mulW (d a b : BitVec 6)
  /-- MULH_W (R72). High half of the signed 64-bit product of 32-bit operands. -/
  | mulhW (d a b : BitVec 6)
  /-- MULHU_W (R72). High half of the unsigned product of 32-bit operands. -/
  | mulhuW (d a b : BitVec 6)
  /-- DIV_W (R72). 32-bit signed division, sign-extended. -/
  | divW (d a b : BitVec 6)
  /-- DIVU_W (R72). 32-bit unsigned division, sign-extended. -/
  | divuW (d a b : BitVec 6)
  /-- REM_W (R72). 32-bit signed remainder, sign-extended. -/
  | remW (d a b : BitVec 6)
  /-- REMU_W (R72). 32-bit unsigned remainder, sign-extended. -/
  | remuW (d a b : BitVec 6)
  /-- AND_W (R72). 32-bit AND, sign-extended. -/
  | andW (d a b : BitVec 6)
  /-- OR_W (R72). 32-bit OR, sign-extended. -/
  | orW (d a b : BitVec 6)
  /-- XOR_W (R72). 32-bit XOR, sign-extended. -/
  | xorW (d a b : BitVec 6)
  /-- ANDN_W (R72). 32-bit AND NOT, sign-extended. -/
  | andnW (d a b : BitVec 6)
  /-- ORN_W (R72). 32-bit OR NOT, sign-extended. -/
  | ornW (d a b : BitVec 6)
  /-- SHL_W (R72). 32-bit shift left by gb mod 32, sign-extended. -/
  | shlW (d a b : BitVec 6)
  /-- SHR_W (R72). 32-bit logical shift right, sign-extended. -/
  | shrW (d a b : BitVec 6)
  /-- SAR_W (R72). 32-bit arithmetic shift right, sign-extended. -/
  | sarW (d a b : BitVec 6)
  /-- ROR_W (R72). 32-bit rotate right, sign-extended. -/
  | rorW (d a b : BitVec 6)
  /-- MIN_W (R72). 32-bit signed minimum, sign-extended. -/
  | minW (d a b : BitVec 6)
  /-- MAX_W (R72). 32-bit signed maximum, sign-extended. -/
  | maxW (d a b : BitVec 6)
  /-- MINU_W (R72). 32-bit unsigned minimum, sign-extended. -/
  | minuW (d a b : BitVec 6)
  /-- MAXU_W (R72). 32-bit unsigned maximum, sign-extended. -/
  | maxuW (d a b : BitVec 6)
  /-- SLT_W (R72). 32-bit signed less-than. -/
  | sltW (d a b : BitVec 6)
  /-- SLTU_W (R72). 32-bit unsigned less-than. -/
  | sltuW (d a b : BitVec 6)
  /-- SEQ_W (R72). 32-bit equality test. -/
  | seqW (d a b : BitVec 6)
  /-- SNE_W (R72). 32-bit inequality test. -/
  | sneW (d a b : BitVec 6)
  /-- ADDI (R76). Add sign-extended imm14 to ga. -/
  | addi (d a : BitVec 6) (i : BitVec 14)
  /-- ANDI (R76). AND with sign-extended imm14. -/
  | andi (d a : BitVec 6) (i : BitVec 14)
  /-- ORI (R76). OR with sign-extended imm14. -/
  | ori (d a : BitVec 6) (i : BitVec 14)
  /-- XORI (R76). XOR with sign-extended imm14. -/
  | xori (d a : BitVec 6) (i : BitVec 14)
  /-- SHLI (R76). Shift left by an immediate count. -/
  | shli (d a k : BitVec 6)
  /-- SHRI (R76). Logical shift right by an immediate count. -/
  | shri (d a k : BitVec 6)
  /-- SARI (R76). Arithmetic shift right by an immediate count. -/
  | sari (d a k : BitVec 6)
  /-- RORI (R76). Rotate right by an immediate count. -/
  | rori (d a k : BitVec 6)
  /-- SLTI (R76). Signed less-than against an immediate. -/
  | slti (d a : BitVec 6) (i : BitVec 14)
  /-- SLTUI (R76). Unsigned less-than against the sign-extended immediate. -/
  | sltui (d a : BitVec 6) (i : BitVec 14)
  /-- MULI (R76). Multiply by a signed immediate, low 64 bits. -/
  | muli (d a : BitVec 6) (i : BitVec 14)
  /-- IMM (R77). Load a sign-extended 20-bit immediate into gd. -/
  | imm (d : BitVec 6) (i : BitVec 20)
  /-- IMMH (R77). Add the immediate shifted left by 20 to gd. -/
  | immh (d : BitVec 6) (i : BitVec 20)
  /-- IMMT (R77). Add the immediate shifted left by 40 to gd. -/
  | immt (d : BitVec 6) (i : BitVec 20)
  /-- CLZ (R78). Count leading zero bits. -/
  | clz (d a : BitVec 6)
  /-- CTZ (R78). Count trailing zero bits. -/
  | ctz (d a : BitVec 6)
  /-- POPC (R78). Count one bits. -/
  | popc (d a : BitVec 6)
  /-- BREV (R78). Reverse bit order. -/
  | brev (d a : BitVec 6)
  /-- BSWAP (R78). Reverse byte order. -/
  | bswap (d a : BitVec 6)
  /-- BSET (R78). Set bit gb of ga when gb is below 64. -/
  | bset (d a b : BitVec 6)
  /-- BCLR (R78). Clear bit gb of ga when gb is below 64. -/
  | bclr (d a b : BitVec 6)
  /-- BEXT (R80). Extract a bit field, sign-extended. -/
  | bext (d a o w : BitVec 6)
  /-- BEXTU (R80). Extract a bit field, zero-extended. -/
  | bextu (d a o w : BitVec 6)
  /-- BINS (R80). Insert the low bits of ga into a field of gd. -/
  | bins (d a o w : BitVec 6)
  /-- LEA (R81). Compute ga + (gb << s) + imm5 without translating it. -/
  | lea (d a b : BitVec 6) (s : BitVec 3) (i : BitVec 5)
  /-- SEL (R82). Write ga to gd if gd is nonzero, otherwise gb. -/
  | sel (d a b : BitVec 6)
  /-- PART (R87). Compute this thread's share of an extent at a level. -/
  | part (d a b : BitVec 6)
  /-- COORD (R84). Write the thread's launch-time position at a level. -/
  | coord (d l : BitVec 6)
  /-- BEQ (R89). Branch when ga equals gb. -/
  | beq (a b : BitVec 6) (i : BitVec 14)
  /-- BNE (R89). Branch when ga differs from gb. -/
  | bne (a b : BitVec 6) (i : BitVec 14)
  /-- BLT (R89). Branch when ga is signed-less than gb. -/
  | blt (a b : BitVec 6) (i : BitVec 14)
  /-- BGE (R89). Branch when ga is signed-greater or equal. -/
  | bge (a b : BitVec 6) (i : BitVec 14)
  /-- BLTU (R89). Branch when ga is unsigned-less than gb. -/
  | bltu (a b : BitVec 6) (i : BitVec 14)
  /-- BGEU (R89). Branch when ga is unsigned-greater or equal. -/
  | bgeu (a b : BitVec 6) (i : BitVec 14)
  /-- LOOP (R90). Decrement ga and branch while the result is nonzero. -/
  | loop (a : BitVec 6) (i : BitVec 14)
  /-- JMP (R91). Jump by a 26-bit bundle displacement. -/
  | jmp (i : BitVec 26)
  /-- JAL (R91). Jump and write the return address to g61. -/
  | jal (i : BitVec 26)
  /-- JR (R92). Jump to the address in ga, linking into gd; misaligned targets take ALIGN. -/
  | jr (d a : BitVec 6)
  /-- LD (R99). Sign-extending load of 1, 2, 4 or 8 bytes. -/
  | ld (d a : BitVec 6) (i : BitVec 12) (m : BitVec 2)
  /-- LD_U (R99). Zero-extending load of 1, 2 or 4 bytes. -/
  | ldU (d a : BitVec 6) (i : BitVec 12) (m : BitVec 2)
  /-- ST (R99). Store the low bytes of gs, logging an undo entry when tentative. -/
  | st (t a : BitVec 6) (i : BitVec 12) (m : BitVec 2)
  /-- LDX (R99). Indexed load at ga + gb. -/
  | ldx (d a b : BitVec 6) (z : BitVec 2) (u : BitVec 1)
  /-- STX (R99). Indexed store at ga + gb. -/
  | stx (t a b : BitVec 6) (z : BitVec 2)
  /-- LDS (R101). Load a doubleword once its FE bit is full, parking while empty. -/
  | lds (d a : BitVec 6) (i : BitVec 12)
  /-- LDC (R101). Load a full doubleword and set it empty, parking while empty. -/
  | ldc (d a : BitVec 6) (i : BitVec 12)
  /-- STF (R101). Store a doubleword, set it full and serve waiters. -/
  | stf (t a : BitVec 6) (i : BitVec 12)
  /-- FESET (R103). Set a word's FE bit full, serving waiters. -/
  | feset (a : BitVec 6)
  /-- FECLR (R103). Set a word's FE bit empty. -/
  | feclr (a : BitVec 6)
  /-- FETST (R103). Read a word's FE bit without parking. -/
  | fetst (d a : BitVec 6)
  /-- AMO (R105). Indivisible read-modify-write returning the old value. -/
  | amo (d a b : BitVec 6) (o : BitVec 4) (z : BitVec 2) (c : BitVec 1)
  /-- CAS (R106). Compare with gd and swap in gb when equal; return the old value. -/
  | cas (d a b : BitVec 6) (z : BitVec 2)
  /-- FAMO (R107). Indivisible float add, min or max in memory. -/
  | famo (d a b : BitVec 6) (o : BitVec 2) (p : BitVec 1)
  /-- LOCK (R109). Acquire or re-enter a crew lock word, or queue and park. -/
  | lock (d a : BitVec 6)
  /-- UNLK (R109). Release one count of a crew lock and grant the oldest waiter when free. -/
  | unlk (d a : BitVec 6)
  /-- FENCE (R111). Park until relaxed accesses, copy jobs or posted operations complete. -/
  | fence (f : BitVec 3)
  /-- PFX (R113). Set relaxed, tentative, no-migrate or host-sync flags for the next bundle. -/
  | pfx (f : BitVec 4)
  /-- TRAP (R118). Enter a handler at raised privilege with a trap code. -/
  | trap (c : BitVec 12)
  /-- TIME (R118). Read the package reference time in ns. -/
  | time (d : BitVec 6)
  /-- CYC (R118). Read the tile cycle counter. -/
  | cyc (d : BitVec 6)
  /-- LAUNCH (R119). Submit a launch record and park until it is accepted or rejected. -/
  | launch (d a : BitVec 6)
  /-- CRD (R116). Read a control register. -/
  | crd (d : BitVec 6) (n : BitVec 10)
  /-- CWR (R116). Write a control register. -/
  | cwr (a : BitVec 6) (n : BitVec 10)
  /-- CSWP (R116). Swap a control register with ga indivisibly. -/
  | cswp (d a : BitVec 6) (n : BitVec 10)
  /-- TNEXT (R121). End the current task and take the next packet from a bound queue. -/
  | tnext (d a : BitVec 6)
  /-- TPOST (R123). Check and push a work packet to a bound task queue. -/
  | tpost (d a b : BitVec 6)
  /-- SEND (R126). Deliver a payload into a register of the thread at an endpoint. -/
  | send (r a b : BitVec 6)
  /-- EPID (R127). Look up the endpoint of the launch's thread at a position. -/
  | epid (d a : BitVec 6)
  /-- MIG (R128). Move the thread to the die that holds a word. -/
  | mig (a : BitVec 6)
  /-- QBIND (R129). Bind or unbind a queue register to a tile hardware queue. -/
  | qbind (r a b : BitVec 6)
  /-- LWAIT (R124). Park until a launch completes and take its completion word. -/
  | lwait (d a : BitVec 6)
  /-- FADD (R227). Float or rational add. -/
  | fadd (d a b : BitVec 6) (w : BitVec 1)
  /-- FSUB (R227). Float or rational subtract. -/
  | fsub (d a b : BitVec 6) (w : BitVec 1)
  /-- FMUL (R227). Float or rational multiply. -/
  | fmul (d a b : BitVec 6) (w : BitVec 1)
  /-- FDIV (R227). Float or rational divide on the SFU. -/
  | fdiv (d a b : BitVec 6) (w : BitVec 1)
  /-- FMA (R227). Fused multiply-add with one rounding, four sign variants. -/
  | fma (d a b : BitVec 6) (w : BitVec 1) (v : BitVec 3)
  /-- FSQRT (R227). Float or rational square root on the SFU. -/
  | fsqrt (d a : BitVec 6) (w : BitVec 1)
  /-- FMIN (R227). Float or rational minimum. -/
  | fmin (d a b : BitVec 6) (w : BitVec 1)
  /-- FMAX (R227). Float or rational maximum. -/
  | fmax (d a b : BitVec 6) (w : BitVec 1)
  /-- FCMP (R228). Compare under a condition and write 1 or 0. -/
  | fcmp (d a b : BitVec 6) (w : BitVec 1) (c : BitVec 3)
  /-- FCVT (R229). Convert between float, rational and integer formats. -/
  | fcvt (d a : BitVec 6) (w : BitVec 1) (v : BitVec 3)
  /-- FCLASS (R227). Classify a float or rational value into one bit. -/
  | fclass (d a : BitVec 6) (w : BitVec 1)
  /-- FSGN (R227). Replace the sign of ga using gb's sign. -/
  | fsgn (d a b : BitVec 6) (w : BitVec 1) (v : BitVec 3)
  /-- QNUM (R231). Signed numerator of a rational. -/
  | qnum (d a : BitVec 6) (w : BitVec 1)
  /-- QDEN (R231). Denominator of a rational. -/
  | qden (d a : BitVec 6) (w : BitVec 1)
  /-- QMAKE (R231). Build a rational from two integers on the SFU. -/
  | qmake (d a b : BitVec 6) (w : BitVec 1)
  /-- QGCD (R231). GCD of two unsigned integers on the SFU. -/
  | qgcd (d a b : BitVec 6)
  /-- QBND (R231). Round a rational into a smaller bit budget. -/
  | qbnd (d a b : BitVec 6) (w : BitVec 1)
  /-- PADD (R213). Packed element add in the FMT format. -/
  | padd (d a b : BitVec 6) (s : BitVec 5)
  /-- PSUB (R213). Packed element subtract. -/
  | psub (d a b : BitVec 6) (s : BitVec 5)
  /-- PMUL (R213). Packed element multiply. -/
  | pmul (d a b : BitVec 6) (s : BitVec 5)
  /-- PMAX (R213). Packed element maximum. -/
  | pmax (d a b : BitVec 6) (s : BitVec 5)
  /-- PMIN (R213). Packed element minimum. -/
  | pmin (d a b : BitVec 6) (s : BitVec 5)
  /-- PDOT (R214). Packed dot product to an integer or FP32. -/
  | pdot (d a b : BitVec 6) (s : BitVec 5)
  /-- PCDOT (R214). Packed complex dot product to C32. -/
  | pcdot (d a b : BitVec 6) (s : BitVec 5)
  /-- PCVT (R215). Pack or unpack elements to or from FP32 pairs. -/
  | pcvt (d a b : BitVec 6) (s : BitVec 5)
  /-- VLD (R196). Unit-stride vector load from scratchpad or own TCM. -/
  | vld (v : BitVec 5) (a : BitVec 6) (k : BitVec 3)
  /-- VST (R196). Unit-stride vector store. -/
  | vst (v : BitVec 5) (a : BitVec 6) (k : BitVec 3)
  /-- VLDS (R196). Strided vector load. -/
  | vlds (v : BitVec 5) (a b : BitVec 6) (k : BitVec 3) (z : BitVec 2)
  /-- VSTS (R196). Strided vector store. -/
  | vsts (v : BitVec 5) (a b : BitVec 6) (k : BitVec 3) (z : BitVec 2)
  /-- VGTH (R196). Vector gather by per-lane offsets. -/
  | vgth (v : BitVec 5) (a : BitVec 6) (x : BitVec 5) (k : BitVec 3) (z : BitVec 2)
  /-- VSCT (R196). Vector scatter by per-lane offsets. -/
  | vsct (v : BitVec 5) (a : BitVec 6) (x : BitVec 5) (k : BitVec 3) (z : BitVec 2)
  /-- CPY (R248). Queue a copy or stream job and return its job ID. -/
  | cpy (d a b : BitVec 6) (h : BitVec 3) (f c : BitVec 1)
  /-- CPW (R249). Park until a copy job is no longer queued or running; return status. -/
  | cpw (d a : BitVec 6)
  /-- CPQ (R249). Return a copy job's status without parking. -/
  | cpq (d a : BitVec 6)
  /-- SBIND (R251). Bind or unbind a stream register to a stream job. -/
  | sbind (d a : BitVec 6) (s : BitVec 2)
  /-- TSEAL (R245). Check a tensor record and seal it into a handle. -/
  | tseal (d a : BitVec 6)
  /-- TFREE (R246). Free a live handle's table entry. -/
  | tfree (d a : BitVec 6)
  /-- HMOV_TO_H (R247). Copy a g register into an h register. -/
  | hmovToH (a : BitVec 6) (h : BitVec 3)
  /-- HMOV_FROM_H (R247). Copy an h register into a g register. -/
  | hmovFromH (d : BitVec 6) (h : BitVec 3)
  /-- MSLOT (R279). Claim the lowest free operand slot, or wait for one with .W. -/
  | mslot (d : BitVec 6) (w : BitVec 1)
  /-- MFREE (R279). Begin the release of an owned operand slot. -/
  | mfree (a : BitVec 6)
  /-- MLDA (R280). Queue a load of an operand slot from scratchpad and park. -/
  | mlda (d a b : BitVec 6) (h : BitVec 3)
  /-- MMA (R282). Check operands, queue a multiply-accumulate and park. -/
  | mma (a b : BitVec 6) (t : BitVec 3) (j : BitVec 1)
  /-- MCFG (R283). Configure, reconfigure or release an accumulator tile. -/
  | mcfg (d a : BitVec 6) (t : BitVec 3)
  /-- MZERO (R284). Queue the clearing of an accumulator tile. -/
  | mzero (t : BitVec 3)
  /-- MSTA (R285). Queue a store of accumulator rows to scratchpad. -/
  | msta (d a : BitVec 6) (t h : BitVec 3)
  /-- JOPEN (R304). Check a join descriptor and open a join on the issuer's die. -/
  | jopen (d a : BitVec 6)
  /-- JBIND (R305). Make the thread a member of an open join. -/
  | jbind (d a : BitVec 6) (t : BitVec 1)
  /-- JARR (R306). Drain relaxed accesses and send an arrival with a contribution. -/
  | jarr (d a b : BitVec 6) (v : BitVec 1)
  /-- JWAIT (R307). Park until the join is released or settled. -/
  | jwait (d a : BitVec 6) (s : BitVec 1)
  /-- JCLOSE (R308). Force release and mark or free the join slot. -/
  | jclose (d a : BitVec 6)
  /-- JQRY (R309). Read a join's status word. -/
  | jqry (d a : BitVec 6)
  /-- SHRD (R341). Read one word of the share status. -/
  | shrd (d a : BitVec 6)
  /-- SHCAP (R343). Set or remove the crew's virtual state cap. -/
  | shcap (d a : BitVec 6)
  /-- WEDGE (R344). Set the awaited party of the crew's LDS and LDC waits. -/
  | wedge (d a : BitVec 6)
  /-- WCLR (R344). Clear the crew's wait-edge target. -/
  | wclr (d : BitVec 6)
  /-- COPEN (R370). Bind a group register to a collective group, opening it if needed. -/
  | copen (d a b : BitVec 6) (k : BitVec 2)
  /-- CCLOSE (R371). Wait for own rounds, then unbind and leave the group. -/
  | cclose (d : BitVec 6) (k : BitVec 2)
  /-- CWAIT (R372). Wait for own rounds and return the unread count. -/
  | cwait (d : BitVec 6) (k : BitVec 2)
  /-- VCLAIM (R194). Request a lane claim and write the granted width. -/
  | vclaim (g : BitVec 6)
  /-- VADD (R200). Lane integer add. -/
  | vadd (d a b : BitVec 5) (k t : BitVec 3)
  /-- VSUB (R200). Lane integer subtract. -/
  | vsub (d a b : BitVec 5) (k t : BitVec 3)
  /-- VMUL (R200). Lane integer multiply, low half. -/
  | vmul (d a b : BitVec 5) (k t : BitVec 3)
  /-- VMULH (R200). Lane integer multiply, high half. -/
  | vmulh (d a b : BitVec 5) (k t : BitVec 3)
  /-- VMAC (R200). Lane integer multiply-accumulate. -/
  | vmac (d a b c : BitVec 5) (k t : BitVec 3)
  /-- VAND (R200). Lane AND. -/
  | vand (d a b : BitVec 5) (k t : BitVec 3)
  /-- VOR (R200). Lane OR. -/
  | vor (d a b : BitVec 5) (k t : BitVec 3)
  /-- VXOR (R200). Lane XOR. -/
  | vxor (d a b : BitVec 5) (k t : BitVec 3)
  /-- VSHL (R200). Lane shift left. -/
  | vshl (d a b : BitVec 5) (k t : BitVec 3)
  /-- VSHR (R200). Lane logical shift right. -/
  | vshr (d a b : BitVec 5) (k t : BitVec 3)
  /-- VSAR (R200). Lane arithmetic shift right. -/
  | vsar (d a b : BitVec 5) (k t : BitVec 3)
  /-- VMIN (R200). Lane integer minimum. -/
  | vmin (d a b : BitVec 5) (k t : BitVec 3)
  /-- VMAX (R200). Lane integer maximum. -/
  | vmax (d a b : BitVec 5) (k t : BitVec 3)
  /-- VABS (R200). Lane absolute value. -/
  | vabs (d a : BitVec 5) (k t : BitVec 3)
  /-- VCMP (R201). Lane integer compare into a mask. -/
  | vcmp (d : BitVec 3) (a b c : BitVec 5) (k t : BitVec 3)
  /-- VSEL (R201). Select lanes from va or vb by a mask. -/
  | vsel (d a b : BitVec 5) (k : BitVec 3)
  /-- VFADD (R202). Lane float add. -/
  | vfadd (d a b : BitVec 5) (k t : BitVec 3)
  /-- VFSUB (R202). Lane float subtract. -/
  | vfsub (d a b : BitVec 5) (k t : BitVec 3)
  /-- VFMUL (R202). Lane float multiply. -/
  | vfmul (d a b : BitVec 5) (k t : BitVec 3)
  /-- VFMA (R202). Lane fused multiply-add. -/
  | vfma (d a b c : BitVec 5) (k t : BitVec 3)
  /-- VFMIN (R202). Lane float minimumNumber. -/
  | vfmin (d a b : BitVec 5) (k t : BitVec 3)
  /-- VFMAX (R202). Lane float maximumNumber. -/
  | vfmax (d a b : BitVec 5) (k t : BitVec 3)
  /-- VFCMP (R202). Lane float compare into a mask. -/
  | vfcmp (d : BitVec 3) (a b c : BitVec 5) (k : BitVec 3)
  /-- VFSGN (R202). Lane float sign replacement. -/
  | vfsgn (d a b c : BitVec 5) (k t : BitVec 3)
  /-- VFCVT (R204). Convert lane elements between float, integer and MX formats. -/
  | vfcvt (d a : BitVec 5) (g : BitVec 6) (s o : BitVec 4) (p : BitVec 2)
  /-- VFSCL (R205). Scale lane floats by a power of two. -/
  | vfscl (d a : BitVec 5) (g : BitVec 6) (t : BitVec 2)
  /-- VCMAC (R206). Complex multiply-accumulate into C16 lanes. -/
  | vcmac (d a b c : BitVec 5) (k t : BitVec 3)
  /-- VCCONJ (R206). Complex conjugate with saturation. -/
  | vcconj (d a : BitVec 5) (k t : BitVec 3)
  /-- VDOT4 (R206). Four-way INT8 dot product into I32 lanes. -/
  | vdot4 (d a b c : BitVec 5) (k t : BitVec 3)
  /-- VDOT8 (R206). Eight-way INT4 dot product into I32 lanes. -/
  | vdot8 (d a b c : BitVec 5) (k t : BitVec 3)
  /-- VBCAST (R207). Broadcast a g value to every element. -/
  | vbcast (d : BitVec 5) (g : BitVec 6) (w : BitVec 3)
  /-- VEXTR (R207). Extract one lane into a g register. -/
  | vextr (a : BitVec 5) (g : BitVec 6) (l : BitVec 7)
  /-- VINS (R207). Insert a g value into one lane. -/
  | vins (d : BitVec 5) (g : BitVec 6) (l : BitVec 7)
  /-- VPERM (R208). Permute elements by indices. -/
  | vperm (d a b : BitVec 5) (k e : BitVec 3)
  /-- VSLIDE (R209). Slide lanes by a signed immediate. -/
  | vslide (d a : BitVec 5) (i : BitVec 16)
  /-- VZIP (R208). Interleave halves of two registers. -/
  | vzip (d a b : BitVec 5) (h : BitVec 1) (k e : BitVec 3)
  /-- VUNZIP (R208). De-interleave even or odd elements. -/
  | vunzip (d a b : BitVec 5) (h : BitVec 1) (k e : BitVec 3)
  /-- VMOV (R208). Masked register move. -/
  | vmov (d a : BitVec 5) (k e : BitVec 3)
  /-- VRSUM (R210). Exact integer sum reduction into g. -/
  | vrsum (a : BitVec 5) (g : BitVec 6) (t k : BitVec 3)
  /-- VRMAX (R210). Integer maximum reduction into g. -/
  | vrmax (a : BitVec 5) (g : BitVec 6) (t k : BitVec 3)
  /-- VRMIN (R210). Integer minimum reduction into g. -/
  | vrmin (a : BitVec 5) (g : BitVec 6) (t k : BitVec 3)
  /-- VFRSUM (R210). Float tree-sum reduction into g. -/
  | vfrsum (a : BitVec 5) (g : BitVec 6) (t k : BitVec 3)
  /-- VEXP (R233). Lane exponential on the quad SFU. -/
  | vexp (d a : BitVec 5) (k : BitVec 3)
  /-- VLOG (R233). Lane natural log on the SFU. -/
  | vlog (d a : BitVec 5) (k : BitVec 3)
  /-- VRCP (R233). Lane reciprocal on the SFU. -/
  | vrcp (d a : BitVec 5) (k : BitVec 3)
  /-- VRSQ (R233). Lane reciprocal square root on the SFU. -/
  | vrsq (d a : BitVec 5) (k : BitVec 3)
  /-- VSIGM (R233). Lane sigmoid on the SFU. -/
  | vsigm (d a : BitVec 5) (k : BitVec 3)
  /-- VTANH (R233). Lane tanh on the SFU. -/
  | vtanh (d a : BitVec 5) (k : BitVec 3)
  /-- VSIN (R233). Lane sine on the SFU. -/
  | vsin (d a : BitVec 5) (k : BitVec 3)
  /-- VCOS (R233). Lane cosine on the SFU. -/
  | vcos (d a : BitVec 5) (k : BitVec 3)
  /-- MAND (R211). Mask AND. -/
  | mand (d a b : BitVec 3)
  /-- MOR (R211). Mask OR. -/
  | mor (d a b : BitVec 3)
  /-- MXOR (R211). Mask XOR. -/
  | mxor (d a b : BitVec 3)
  /-- MNOT (R211). Mask NOT. -/
  | mnot (d a : BitVec 3)
  /-- MPOP (R211). Count set mask bits below VLEN. -/
  | mpop (a : BitVec 3) (g : BitVec 6)
  /-- MRDR (R288). Read an accumulator row into lanes. -/
  | mrdr (d : BitVec 5) (g : BitVec 6) (t : BitVec 3)
  /-- MRDC (R288). Read an accumulator column into lanes. -/
  | mrdc (d : BitVec 5) (g : BitVec 6) (t : BitVec 3)
  /-- MWRR (R288). Write lanes into an accumulator row. -/
  | mwrr (a : BitVec 5) (g : BitVec 6) (t : BitVec 3)
  /-- MWRC (R288). Write lanes into an accumulator column. -/
  | mwrc (a : BitVec 5) (g : BitVec 6) (t : BitVec 3)
  /-- IFENCE (R112). Drain relaxed accesses and invalidate the quad instruction cache. -/
  | ifence
  /-- ERET (R145). Return from a handler, restoring TSTAT, PC, prefix and the inbox. -/
  | eret
  /-- BRK (R118). Take the BRK fault or halt for the debugger. -/
  | brk
  /-- EXIT (R118). Drain, release resources and retire the thread. -/
  | exit
  /-- YIELD (R118). Give up passed cycles until the next own cycle. -/
  | yield
  /-- TEND (R122). Drain relaxed accesses and count the current task done. -/
  | tend
  /-- KHOLD (R313). Start holding off kills and swaps, counting bundles. -/
  | khold
  /-- KLET (R313). End the hold; a held kill is taken after this bundle. -/
  | klet
  /-- SNOP (R47). Empty S slot. -/
  | snop
  /-- VNOP (R49). Empty V slot. -/
  | vnop
  /-- VREL (R194). Release the lane claim or pending request. -/
  | vrel
  /-- STREAM_REGISTER_READ (R251). Read of a bound g48-g51 pops the next stream element or parks. -/
  | streamRegisterRead
  /-- GROUP_CONTRIBUTE (R362). Write of a bound g52-g55 contributes to the member's next round. -/
  | groupContribute
  /-- GROUP_RESULT_READ (R362). Read of a bound g52-g55 returns the oldest unread round result or parks. -/
  | groupResultRead
  /-- QUEUE_POP (R43). Read of a bound g56-g59 pops the tile queue or parks. -/
  | queuePop
  /-- QUEUE_PUSH (R43). Write of a bound g56-g59 pushes to the tile queue or parks while full. -/
  | queuePush
  /-- ENTRY_END (R143). After 32 cycles in ENTRY the handler's first bundle becomes READY. -/
  | entryEnd
  /-- PARK_RESUME (R61). A readied parked thread re-enters the rotation within 32 cycles. -/
  | parkResume
  /-- EXTMIG_SLOT_RETRY (R56). A thread waiting for a slot re-runs the destination search when a slot frees. -/
  | extmigSlotRetry
  /-- MIGRATION_ARRIVAL (R356). A migration packet arrives and the thread re-executes its bundle there. -/
  | migrationArrival
  /-- MIG_SLOT_RETRY (R128). A MIG waiting for a slot re-runs its search when one frees. -/
  | migSlotRetry
  /-- ANTI_PINGPONG_END (R357). The 64 us suspension of automatic migration expires. -/
  | antiPingpongEnd
  /-- WATCHDOG_EXPIRY (R147). A thread parked beyond the watchdog interval takes WDOG. -/
  | watchdogExpiry
  /-- KHOLDLONG (R314). The 513th bundle in a hold takes KHOLDLONG or the held kill. -/
  | kholdlong
  /-- SWAP_REQUEST (R157). The hypervisor requests pre-emption of one slot. -/
  | swapRequest
  /-- SWAP_START (R157). A requested swap starts at the slot's next own cycle at a bundle boundary. -/
  | swapStart
  /-- SWAP_OUT_DONE (R158). The context image is saved and the slot freed or refilled. -/
  | swapOutDone
  /-- SWAP_IN_DONE (R160). A context image is restored and the thread becomes READY. -/
  | swapInDone
  /-- OWED_RESULT_WRITE (R159). A result owed to a swapped thread is written into its image. -/
  | owedResultWrite
  /-- TIME_SLICE_END (R161). A tenant's slice ends and the tile's handed-over slots are swapped. -/
  | timeSliceEnd
  /-- DEBUG_HALT (R162). A debug halt stops the thread at its next bundle boundary. -/
  | debugHalt
  /-- DEBUG_REGISTER_WRITE (R163). The debugger writes a halted thread's registers or PC. -/
  | debugRegisterWrite
  /-- DEBUG_RESUME (R163). The debugger resumes a halted thread. -/
  | debugResume
  /-- MESSAGE_DELIVERY (R126). A SEND payload is written into the target register or its inbox. -/
  | messageDelivery
  /-- INBOX_RETRY (R150). A message waiting for a full inbox enters when an entry frees. -/
  | inboxRetry
  /-- SEND_FORWARD (R359). A tile without the target forwards a message by its stub. -/
  | sendForward
  /-- MOVED_RESEND (R359). Slot 14 of the sender's core re-resolves a MOVED message and resends it. -/
  | movedResend
  /-- STUB_EXPIRY (R359). A forwarding stub expires after 1 ms. -/
  | stubExpiry
  /-- MEMORY_REPLY (R62). The reply or acknowledgement of an ordinary access reaches the tile. -/
  | memoryReply
  /-- RELAXED_REPLY (R115). A relaxed access completes and fills its gd. -/
  | relaxedReply
  /-- REMOTE_REQUEST (R352). A Span request is performed, deduplicated or answered from the reply cache at the destination. -/
  | remoteRequest
  /-- WAIT_REPLY (R351). A wait reply restarts the source's reissue count. -/
  | waitReply
  /-- REQUEST_REISSUE (R351). A request without reply after 20 us is resent with the same tag. -/
  | requestReissue
  /-- REQUEST_LOST (R351). A request unanswered after its fourth reissue is lost; RLOST or job error follows. -/
  | requestLost
  /-- REPLY_CACHE_EXPIRY (R352). A reply cache or store tag entry expires 100 us after completion. -/
  | replyCacheExpiry
  /-- COMBINE_MERGE (R353). A port merges AMO.ADD.C requests to one word into one request. -/
  | combineMerge
  /-- COMBINE_SPLIT (R353). A merged reply is split into distinct old values for each part. -/
  | combineSplit
  /-- LINK_DOWN (R350). A Span port goes down and its traffic moves to other ports. -/
  | linkDown
  /-- LINK_UP (R350). A route returns and waiting requests leave. -/
  | linkUp
  /-- TLB_WALK_DONE (R156). The page walker returns a leaf or a fault for a TLB miss. -/
  | tlbWalkDone
  /-- TRANSLATION_DROP_DONE (R156). Every cached copy of a written table word has been dropped; the writer is readied. -/
  | translationDropDone
  /-- HANDLE_CACHE_FILL (R243). A missed handle-table entry is read into the tile cache. -/
  | handleCacheFill
  /-- TFREE_DROP_DONE (R243). Every cached copy of a freed handle entry is dropped. -/
  | tfreeDropDone
  /-- HVER (R146). Hypercall returning the interface version. -/
  | hver
  /-- PTEBITS (R146). Hypercall setting or clearing RAP and MIG of a leaf under policy. -/
  | ptebits
  /-- PTEGET (R146). Hypercall returning a leaf entry. -/
  | pteget
  /-- SFU_SERVICE_START (R218). The SFU starts the oldest queued request. -/
  | sfuServiceStart
  /-- SFU_COMPLETE (R217). An SFU request writes its result, merges flags and returns its token. -/
  | sfuComplete
  /-- COPY_CHUNK (R253). The copy unit picks a job by effective priority and moves one chunk. -/
  | copyChunk
  /-- MLDA_SERVICE (R280). A queued MLDA loads its slot and readies its issuer. -/
  | mldaService
  /-- MMA_START (R267). An MMA enters the cell array when older conflicting entries are done. -/
  | mmaStart
  /-- MMA_COMPLETE (R282). An MMA updates its tile or sets SKIP, and readies its issuer. -/
  | mmaComplete
  /-- MZERO_SERVICE (R284). A queued MZERO clears its tile and unlocks it. -/
  | mzeroService
  /-- MSTA_SERVICE (R285). A queued MSTA stores its rows and fills its status register. -/
  | mstaService
  /-- LAZY_SAVE (R264). An AWAY accumulator tile is copied to its owner's save area. -/
  | lazySave
  /-- ACCUMULATOR_RESTORE (R264). Saved tiles are restored at swap-in once their tiles are free or away. -/
  | accumulatorRestore
  /-- JOIN_BIND_REQUEST (R305). The home decides a JBIND. -/
  | joinBindRequest
  /-- JOIN_ARRIVAL (R306). The home counts an arrival, accumulates, and releases at the quorum. -/
  | joinArrival
  /-- JOIN_WAIT_REQUEST (R307). The home answers or parks a JWAIT. -/
  | joinWaitRequest
  /-- JOIN_CLOSE_REQUEST (R308). The home takes a JCLOSE. -/
  | joinCloseRequest
  /-- JOIN_QUERY (R309). The home answers a JQRY. -/
  | joinQuery
  /-- JOIN_DEPARTURE (R312). The home decides a member's EXIT before arrival. -/
  | joinDeparture
  /-- KILL_DELIVERY (R310). A kill sent by the home reaches a member. -/
  | killDelivery
  /-- KILL_TAKEN (R311). A member takes its kill, replays its undo log and retires KILLED. -/
  | killTaken
  /-- RETRACTION_END (R295). The home lowers PENDING and settles the join when it reaches 0. -/
  | retractionEnd
  /-- CREW_BLOCKED_CHANGE (R329). A crew becomes blocked or unblocked and its loans are divided or repaid. -/
  | crewBlockedChange
  /-- SHARE_CREDIT (R333). Shares in flight are credited at a destination, which raises its point. -/
  | shareCredit
  /-- POINT_STEP_DONE (R326). A tile's voltage and frequency step completes. -/
  | pointStepDone
  /-- TILE_RESTART (R326). A gated tile restarts at the first qualifying point. -/
  | tileRestart
  /-- CYCLE_DETECT (R335). Truss detects a wait cycle and raises one WCYCLE event. -/
  | cycleDetect
  /-- SLACK_LEND (R337). A permitting pool lends one point step of slack per tile. -/
  | slackLend
  /-- SLACK_RECLAIM (R337). Slack is taken back from borrowing tiles to the owner's pool. -/
  | slackReclaim
  /-- COLLECTIVE_ROUND_COMPLETE (R362). A round completes and its result reaches every leaf. -/
  | collectiveRoundComplete
  /-- LAUNCH_CHECK (R381). The dispatcher checks a record and accepts or rejects it. -/
  | launchCheck
  /-- LAUNCH_CLAIM (R382). A queued launch claims its slots and base shares. -/
  | launchClaim
  /-- LAUNCH_COMPLETE (R388). The counter tree completes a launch and delivers its completion word. -/
  | launchComplete
  /-- EVENT_RING_WRITE (R395). A held or new entry is written to the event ring, then the notify word and interrupt. -/
  | eventRingWrite
  /-- PARTITION_RESET (R397). A partition's queues, threads, joins, groups and shares are reset. -/
  | partitionReset
  /-- LMDOOR (R402). A host write submits the staged launch record for checking. -/
  | lmdoor
  /-- HPDOOR (R402). A host write pushes the staged work packet to a queue. -/
  | hpdoor
  /-- TQCLOSE (R401). A host write closes a task queue. -/
  | tqclose
  /-- PRESET (R401). A host write of the key requests partition reset. -/
  | preset
  /-- ERCONS (R401). The host reports consumed ring entries, freeing room for held entries. -/
  | ercons
  /-- REGISTER_WRITE (R401). A write to a host-visible register with no behaviour of its own. -/
  | registerWrite
  /-- HOST_READ (R403). A host CXL.mem read of device memory. -/
  | hostRead
  /-- HOST_WRITE (R403). A host write through decoder 0, FE bits unchanged. -/
  | hostWrite
  /-- HOST_FILL_WRITE (R403). A host write through the fill alias sets touched words full. -/
  | hostFillWrite
  /-- FRAME_RECEIVE (R404). An Ethernet frame is taken or dropped and matched to a stream. -/
  | frameReceive
  /-- INGEST_RECORD_WRITE (R406). A stream writes a record once all its words are empty, word 0 last. -/
  | ingestRecordWrite
  /-- STREAM_RESUME (R407). A stopped stream finds its next record empty and resumes. -/
  | streamResume
  /-- PAUSE_REFRESH (R407). A stopped stream's PAUSE or PFC frame is resent at half its time. -/
  | pauseRefresh
  /-- DROOP_TRIP (R409). A supply sag beyond DRPTH starts the stretch sequence. -/
  | droopTrip
  /-- DROOP_SEQUENCE_END (R409). The stretch and odd-cycle suppression phases end. -/
  | droopSequenceEnd
  /-- SOFT_ERROR (R142). A correctable soft error is corrected and counted. -/
  | softError
  /-- MARGIN_REPLAN (R410). Margins are re-planned every 24 hours, rewriting points. -/
  | marginReplan
  /-- POWER_SAMPLE (R418). Every 10 us package power is measured and injection limits are throttled or lifted. -/
  | powerSample
  /-- DEVICE_RESET (R411). Reset starts boot: ROM and firmware verify the configuration blob. -/
  | deviceReset
  /-- DEVICE_READY (R411). Boot completes and the device reports ready. -/
  | deviceReady
  /-- PCREATE (R415). Management command creating a partition with defaults. -/
  | pcreate
  /-- PDESTROY (R415). Management command removing an idle partition. -/
  | pdestroy
  /-- PSET (R417). Management command setting one partition item. -/
  | pset
  /-- PGET (R417). Management command returning one partition item. -/
  | pget
  /-- QASSIGN (R415). Management command assigning or unassigning a task queue. -/
  | qassign
  /-- HDMSET (R415). Management command setting an HDM decoder range. -/
  | hdmset
  /-- STREAMSET (R405). Management command writing an ingest stream descriptor. -/
  | streamset
  /-- STREAMGET (R415). Management command returning a descriptor and its counters. -/
  | streamget
  /-- PORTSET (R415). Management command setting a port's PAUSE and PFC quanta. -/
  | portset
  /-- PORTCNT (R415). Management command returning a port's counters. -/
  | portcnt
  /-- CLKSET (R408). Management command installing a clock plan. -/
  | clkset
  /-- CLKGET (R415). Management command returning the clock plan. -/
  | clkget
  /-- DRPSET (R409). Management command setting droop thresholds. -/
  | drpset
  /-- REPLAN (R410). Management command requesting a margin re-plan. -/
  | replan
  /-- RETREAD (R415). Management command returning and removing the oldest RETIRE-REQUEST record. -/
  | retread
  /-- TELEM (R415). Management command returning temperatures and powers. -/
  | telem
  /-- LINKCNT (R415). Management command returning link event counts. -/
  | linkcnt
  /-- DRESET (R415). Management command requesting device reset. -/
  | dreset
  /-- MGMT_COMMAND_DONE (R416). A management command completes and MGSTAT is written. -/
  | mgmtCommandDone
  /-- GET_VERSION (R412). SPDM request for supported versions. -/
  | getVersion
  /-- GET_CAPABILITIES (R412). SPDM capabilities request. -/
  | getCapabilities
  /-- NEGOTIATE_ALGORITHMS (R412). SPDM algorithm negotiation, P-521 and SHA-512 only. -/
  | negotiateAlgorithms
  /-- GET_DIGESTS (R412). SPDM request for certificate chain digests. -/
  | getDigests
  /-- GET_CERTIFICATE (R412). SPDM request for the slot 0 certificate chain. -/
  | getCertificate
  /-- CHALLENGE (R412). SPDM challenge signed by the identity key. -/
  | challenge
  /-- GET_MEASUREMENTS (R412). SPDM request for the five SHA-512 measurements. -/
  | getMeasurements
  /-- BMC_TELEMETRY_READ (R413). The board management controller reads telemetry over MCTP. -/
  | bmcTelemetryRead
  /-- BMC_RETIRE_READ (R413). The board management controller reads RETIRE-REQUEST records. -/
  | bmcRetireRead
  /-- BMC_REPLAN_REQUEST (R413). The board management controller requests a re-plan. -/
  | bmcReplanRequest
  /-- BMC_RESET_REQUEST (R413). The board management controller requests a device reset. -/
  | bmcResetRequest
  /-- LINK_EVENT (R413). A link event on the CXL port or an Ethernet port is counted by the firmware and reported as a FAULT entry of KIND 6. -/
  | linkEvent
  /-- ERSIZE (R401). A host write to ERSIZE is checked, is ignored while unconsumed entries remain, and otherwise sets up the event ring and releases held entries. -/
  | ersize
  /-- MGDOOR (R414). A write to MGDOOR with an unknown CMD completes with RESULT 1, and a write while BUSY is ignored and counted in DROP. -/
  | mgdoor
  /-- SEQUENCE_NUMBER_RELEASE (R351). A port's 20-bit sequence number becomes reusable 100 us after it was last sent, and a request waiting for a number leaves. -/
  | sequenceNumberRelease
  /-- TILE_QUEUE_ASSIGN (R129). The hypervisor assigns a tile hardware queue to a partition, which QBIND then checks. -/
  | tileQueueAssign
  /-- SWAP_IN_REQUEST (R398). The hypervisor asks for a swapped-out context to be placed into a FREE slot, competing with launch claims. -/
  | swapInRequest
deriving DecidableEq, Repr

end Sys2Proof
end

