-- ==== Sys2Proof/WellFormed.lean ====
section
/-!
DEFINITION. WellFormed.lean: the operand values that each instruction's entry assigns (R51 step 2): modifier, mode, size, type,
condition and number fields. A field whose every value is assigned has no clause.
-/
namespace Sys2Proof

/-- The (source, target, part) triples of VFCVT that are assigned (R203). Codes: F32 0, BF16 1, F16 2, I32 3, U32 4, I16 5, I8 6,
E4M3 7, E5M2 8, E2M1 9, MXINT8 10, E2M1 upper half 11 (source only). -/
def vfcvtAssigned (src tgt part : Nat) : Bool :=
  let perLane := fun c : Nat =>
    if c = 0 ∨ c = 3 ∨ c = 4 then 1 else if c = 1 ∨ c = 2 ∨ c = 5 then 2 else if c = 9 ∨ c = 11 then 8 else 4
  let isMx := fun c : Nat => 7 ≤ c && c ≤ 11
  let isInt := fun c : Nat => 3 ≤ c && c ≤ 6
  if src = 11 then tgt == 0
  else if 11 < src || 10 < tgt || src == tgt then false
  else if (isMx src && isMx tgt) || (isMx src && isInt tgt) || (isInt src && isMx tgt) then false
  else
    let q := perLane src / perLane tgt
    if 1 < q then part < q else part == 0

/-- Whether an instruction's fields hold assigned values (R51 step 2). -/
def Instr.wf : Instr → Bool
  -- modes and sizes (R98, R104)
  | .ldU _ _ _ m => m.toNat ≤ 2
  | .ldx _ _ _ z u => u == 0#1 || z.toNat ≤ 2
  | .amo _ _ _ o z c => o.toNat ≤ 8 && 2 ≤ z.toNat && (c == 0#1 || o == 0#4)
  | .cas _ _ _ z => 2 ≤ z.toNat
  | .famo _ _ _ o _ => o.toNat ≤ 2
  -- level of COORD (R83), flags of FENCE (R111) and PFX (R51 step 4)
  | .coord _ l => l.toNat ≤ 7
  | .fence f => f != 0#3
  | .pfx f => f != 0#4
  -- register numbers (R48, R120)
  | .send r _ _ => 1 ≤ r.toNat && r.toNat ≤ 47
  | .qbind r _ _ => 56 ≤ r.toNat && r.toNat ≤ 59
  -- variants (R226, R229)
  | .fma _ _ _ _ v => v.toNat ≤ 3
  | .fcvt _ _ _ v => v.toNat ≤ 6
  | .fsgn _ _ _ _ v => v.toNat ≤ 2
  -- vector memory sizes (R195)
  | .vlds _ _ _ _ z => z.toNat ≤ 2
  | .vsts _ _ _ _ z => z.toNat ≤ 2
  | .vgth _ _ _ _ z => z.toNat ≤ 2
  | .vsct _ _ _ _ z => z.toNat ≤ 2
  -- HMOV: with gd = 0 the word is the move into h (R247); JARR.V names a v register in ga<4:0> (R306)
  | .hmovFromH d _ => d != 0#6
  | .jarr _ a _ v => v == 0#1 || a.toNat ≤ 31
  -- lane types (R50, R200, R201, R202, R205, R206)
  | .vadd _ _ _ _ t => t.toNat ≤ 5
  | .vsub _ _ _ _ t => t.toNat ≤ 5
  | .vmul _ _ _ _ t => t.toNat ≤ 5
  | .vmulh _ _ _ _ t => t.toNat ≤ 5
  | .vmac _ _ _ _ _ t => t.toNat ≤ 5
  | .vand _ _ _ _ t => t.toNat ≤ 5
  | .vor _ _ _ _ t => t.toNat ≤ 5
  | .vxor _ _ _ _ t => t.toNat ≤ 5
  | .vshl _ _ _ _ t => t.toNat ≤ 5
  | .vshr _ _ _ _ t => t.toNat ≤ 5
  | .vsar _ _ _ _ t => t.toNat ≤ 5
  | .vmin _ _ _ _ t => t.toNat ≤ 5
  | .vmax _ _ _ _ t => t.toNat ≤ 5
  | .vabs _ _ _ t => t.toNat ≤ 5
  | .vcmp _ _ _ c _ t => t.toNat ≤ 1 && c.toNat ≤ 5
  | .vfadd _ _ _ _ t => t.toNat ≤ 2
  | .vfsub _ _ _ _ t => t.toNat ≤ 2
  | .vfmul _ _ _ _ t => t.toNat ≤ 2
  | .vfma _ _ _ _ _ t => t.toNat ≤ 2
  | .vfmin _ _ _ _ t => t.toNat ≤ 2
  | .vfmax _ _ _ _ t => t.toNat ≤ 2
  | .vfcmp _ _ _ c _ => c.toNat ≤ 7
  | .vfsgn _ _ _ c _ t => t.toNat ≤ 2 && c.toNat ≤ 2
  | .vfcvt _ _ g s o p =>
    vfcvtAssigned s.toNat o.toNat p.toNat && (g == 0#6 || 7 ≤ s.toNat || 7 ≤ o.toNat)
  | .vfscl _ _ _ t => t.toNat ≤ 2
  | .vcmac _ _ _ _ _ t => t.toNat ≤ 2
  | .vcconj _ _ _ t => t.toNat ≤ 2
  | .vdot4 _ _ _ _ _ t => t.toNat ≤ 1
  | .vdot8 _ _ _ _ _ t => t.toNat ≤ 1
  -- element widths (R207, R208)
  | .vbcast _ _ w => w == 0#3 || w == 2#3 || w == 4#3
  | .vperm _ _ _ _ e => e == 0#3 || e == 2#3 || e == 4#3
  | .vzip _ _ _ _ _ e => e == 0#3 || e == 2#3 || e == 4#3
  | .vunzip _ _ _ _ _ e => e == 0#3 || e == 2#3 || e == 4#3
  | .vmov _ _ _ e => e == 0#3 || e == 2#3 || e == 4#3
  -- reductions (R210)
  | .vrsum _ _ t _ => t.toNat ≤ 5
  | .vrmax _ _ t _ => t.toNat ≤ 5
  | .vrmin _ _ t _ => t.toNat ≤ 5
  | .vfrsum _ _ t _ => t.toNat ≤ 2
  | _ => true

end Sys2Proof
end

