-- ==== Sys2Proof/Decode.lean ====
section
/-!
DEFINITION. Decode.lean: from bundle bits to instructions and back (spec 03_encoding R39, R45 to R49, R51 steps 1 to 4).
A slot word names a candidate by its major and selector; it is an instruction when re-encoding the candidate gives the same word
(every reserved field is zero) and its fields hold assigned values.
-/
namespace Sys2Proof

/-- Bits `lo` to `lo + n - 1` of a slot word. -/
abbrev fld (w : BitVec 32) (lo n : Nat) : BitVec n := w.extractLsb' lo n

/-- Selector of S major 0x01 (R47). -/
def candInt (w : BitVec 32) : Option Instr :=
  match (fld w 24 8).toNat with
  | 0 => some (.add (fld w 6 6) (fld w 12 6) (fld w 18 6))
  | 1 => some (.sub (fld w 6 6) (fld w 12 6) (fld w 18 6))
  | 2 => some (.mul (fld w 6 6) (fld w 12 6) (fld w 18 6))
  | 3 => some (.mulh (fld w 6 6) (fld w 12 6) (fld w 18 6))
  | 4 => some (.mulhu (fld w 6 6) (fld w 12 6) (fld w 18 6))
  | 5 => some (.div (fld w 6 6) (fld w 12 6) (fld w 18 6))
  | 6 => some (.divu (fld w 6 6) (fld w 12 6) (fld w 18 6))
  | 7 => some (.rem (fld w 6 6) (fld w 12 6) (fld w 18 6))
  | 8 => some (.remu (fld w 6 6) (fld w 12 6) (fld w 18 6))
  | 9 => some (.and (fld w 6 6) (fld w 12 6) (fld w 18 6))
  | 10 => some (.or (fld w 6 6) (fld w 12 6) (fld w 18 6))
  | 11 => some (.xor (fld w 6 6) (fld w 12 6) (fld w 18 6))
  | 12 => some (.andn (fld w 6 6) (fld w 12 6) (fld w 18 6))
  | 13 => some (.orn (fld w 6 6) (fld w 12 6) (fld w 18 6))
  | 14 => some (.shl (fld w 6 6) (fld w 12 6) (fld w 18 6))
  | 15 => some (.shr (fld w 6 6) (fld w 12 6) (fld w 18 6))
  | 16 => some (.sar (fld w 6 6) (fld w 12 6) (fld w 18 6))
  | 17 => some (.ror (fld w 6 6) (fld w 12 6) (fld w 18 6))
  | 18 => some (.min (fld w 6 6) (fld w 12 6) (fld w 18 6))
  | 19 => some (.max (fld w 6 6) (fld w 12 6) (fld w 18 6))
  | 20 => some (.minu (fld w 6 6) (fld w 12 6) (fld w 18 6))
  | 21 => some (.maxu (fld w 6 6) (fld w 12 6) (fld w 18 6))
  | 22 => some (.slt (fld w 6 6) (fld w 12 6) (fld w 18 6))
  | 23 => some (.sltu (fld w 6 6) (fld w 12 6) (fld w 18 6))
  | 24 => some (.seq (fld w 6 6) (fld w 12 6) (fld w 18 6))
  | 25 => some (.sne (fld w 6 6) (fld w 12 6) (fld w 18 6))
  | _ => none

/-- Selector of S major 0x02 (R47). -/
def candIntW (w : BitVec 32) : Option Instr :=
  match (fld w 24 8).toNat with
  | 0 => some (.addW (fld w 6 6) (fld w 12 6) (fld w 18 6))
  | 1 => some (.subW (fld w 6 6) (fld w 12 6) (fld w 18 6))
  | 2 => some (.mulW (fld w 6 6) (fld w 12 6) (fld w 18 6))
  | 3 => some (.mulhW (fld w 6 6) (fld w 12 6) (fld w 18 6))
  | 4 => some (.mulhuW (fld w 6 6) (fld w 12 6) (fld w 18 6))
  | 5 => some (.divW (fld w 6 6) (fld w 12 6) (fld w 18 6))
  | 6 => some (.divuW (fld w 6 6) (fld w 12 6) (fld w 18 6))
  | 7 => some (.remW (fld w 6 6) (fld w 12 6) (fld w 18 6))
  | 8 => some (.remuW (fld w 6 6) (fld w 12 6) (fld w 18 6))
  | 9 => some (.andW (fld w 6 6) (fld w 12 6) (fld w 18 6))
  | 10 => some (.orW (fld w 6 6) (fld w 12 6) (fld w 18 6))
  | 11 => some (.xorW (fld w 6 6) (fld w 12 6) (fld w 18 6))
  | 12 => some (.andnW (fld w 6 6) (fld w 12 6) (fld w 18 6))
  | 13 => some (.ornW (fld w 6 6) (fld w 12 6) (fld w 18 6))
  | 14 => some (.shlW (fld w 6 6) (fld w 12 6) (fld w 18 6))
  | 15 => some (.shrW (fld w 6 6) (fld w 12 6) (fld w 18 6))
  | 16 => some (.sarW (fld w 6 6) (fld w 12 6) (fld w 18 6))
  | 17 => some (.rorW (fld w 6 6) (fld w 12 6) (fld w 18 6))
  | 18 => some (.minW (fld w 6 6) (fld w 12 6) (fld w 18 6))
  | 19 => some (.maxW (fld w 6 6) (fld w 12 6) (fld w 18 6))
  | 20 => some (.minuW (fld w 6 6) (fld w 12 6) (fld w 18 6))
  | 21 => some (.maxuW (fld w 6 6) (fld w 12 6) (fld w 18 6))
  | 22 => some (.sltW (fld w 6 6) (fld w 12 6) (fld w 18 6))
  | 23 => some (.sltuW (fld w 6 6) (fld w 12 6) (fld w 18 6))
  | 24 => some (.seqW (fld w 6 6) (fld w 12 6) (fld w 18 6))
  | 25 => some (.sneW (fld w 6 6) (fld w 12 6) (fld w 18 6))
  | _ => none

/-- Selector of S major 0x11 (R47). -/
def candBitu (w : BitVec 32) : Option Instr :=
  match (fld w 24 8).toNat with
  | 0 => some (.clz (fld w 6 6) (fld w 12 6))
  | 1 => some (.ctz (fld w 6 6) (fld w 12 6))
  | 2 => some (.popc (fld w 6 6) (fld w 12 6))
  | 3 => some (.brev (fld w 6 6) (fld w 12 6))
  | 4 => some (.bswap (fld w 6 6) (fld w 12 6))
  | 5 => some (.bset (fld w 6 6) (fld w 12 6) (fld w 18 6))
  | 6 => some (.bclr (fld w 6 6) (fld w 12 6) (fld w 18 6))
  | _ => none

/-- Selector of S major 0x12 (R47). -/
def candBf (w : BitVec 32) : Option Instr :=
  match (fld w 30 2).toNat with
  | 0 => some (.bext (fld w 6 6) (fld w 12 6) (fld w 18 6) (fld w 24 6))
  | 1 => some (.bextu (fld w 6 6) (fld w 12 6) (fld w 18 6) (fld w 24 6))
  | 2 => some (.bins (fld w 6 6) (fld w 12 6) (fld w 18 6) (fld w 24 6))
  | _ => none

/-- Selector of S major 0x14 (R47). -/
def candSelp (w : BitVec 32) : Option Instr :=
  match (fld w 24 8).toNat with
  | 0 => some (.sel (fld w 6 6) (fld w 12 6) (fld w 18 6))
  | 1 => some (.part (fld w 6 6) (fld w 12 6) (fld w 18 6))
  | 2 => some (.coord (fld w 6 6) (fld w 12 6))
  | _ => none

/-- Selector of S major 0x22 (R47). -/
def candLsx (w : BitVec 32) : Option Instr :=
  match (fld w 27 1).toNat with
  | 0 => some (.ldx (fld w 6 6) (fld w 12 6) (fld w 18 6) (fld w 24 2) (fld w 26 1))
  | _ => some (.stx (fld w 6 6) (fld w 12 6) (fld w 18 6) (fld w 24 2))

/-- Selector of S major 0x26 (R47). -/
def candFeop (w : BitVec 32) : Option Instr :=
  match (fld w 24 8).toNat with
  | 0 => some (.feset (fld w 12 6))
  | 1 => some (.feclr (fld w 12 6))
  | 2 => some (.fetst (fld w 6 6) (fld w 12 6))
  | _ => none

/-- Selector of S major 0x2A (R47). -/
def candLockop (w : BitVec 32) : Option Instr :=
  match (fld w 24 8).toNat with
  | 0 => some (.lock (fld w 6 6) (fld w 12 6))
  | 1 => some (.unlk (fld w 6 6) (fld w 12 6))
  | _ => none

/-- Selector of S major 0x2B (R47). -/
def candOrd (w : BitVec 32) : Option Instr :=
  if fld w 24 8 = 8#8 then some .ifence else some (.fence (fld w 24 3))

/-- Selector of S major 0x2D (R47). -/
def candSys (w : BitVec 32) : Option Instr :=
  match (fld w 24 8).toNat with
  | 0 => some (.trap (fld w 12 12))
  | 1 => some (.eret)
  | 2 => some (.brk)
  | 3 => some (.exit)
  | 4 => some (.yield)
  | 5 => some (.time (fld w 6 6))
  | 6 => some (.cyc (fld w 6 6))
  | 7 => some (.launch (fld w 6 6) (fld w 12 6))
  | _ => none

/-- Selector of S major 0x2E (R47). -/
def candCreg (w : BitVec 32) : Option Instr :=
  match (fld w 28 4).toNat with
  | 0 => some (.crd (fld w 6 6) (fld w 18 10))
  | 1 => some (.cwr (fld w 12 6) (fld w 18 10))
  | 2 => some (.cswp (fld w 6 6) (fld w 12 6) (fld w 18 10))
  | _ => none

/-- Selector of S major 0x2F (R47). -/
def candTask (w : BitVec 32) : Option Instr :=
  match (fld w 24 8).toNat with
  | 0 => some (.tnext (fld w 6 6) (fld w 12 6))
  | 1 => some (.tend)
  | 2 => some (.tpost (fld w 6 6) (fld w 12 6) (fld w 18 6))
  | 3 => some (.send (fld w 6 6) (fld w 12 6) (fld w 18 6))
  | 4 => some (.epid (fld w 6 6) (fld w 12 6))
  | 5 => some (.mig (fld w 12 6))
  | 6 => some (.qbind (fld w 6 6) (fld w 12 6) (fld w 18 6))
  | 7 => some (.lwait (fld w 6 6) (fld w 12 6))
  | _ => none

/-- Selector of S major 0x30 (R47). -/
def candFp (w : BitVec 32) : Option Instr :=
  match (fld w 24 4).toNat with
  | 0 => some (.fadd (fld w 6 6) (fld w 12 6) (fld w 18 6) (fld w 28 1))
  | 1 => some (.fsub (fld w 6 6) (fld w 12 6) (fld w 18 6) (fld w 28 1))
  | 2 => some (.fmul (fld w 6 6) (fld w 12 6) (fld w 18 6) (fld w 28 1))
  | 3 => some (.fdiv (fld w 6 6) (fld w 12 6) (fld w 18 6) (fld w 28 1))
  | 4 => some (.fma (fld w 6 6) (fld w 12 6) (fld w 18 6) (fld w 28 1) (fld w 29 3))
  | 5 => some (.fsqrt (fld w 6 6) (fld w 12 6) (fld w 28 1))
  | 6 => some (.fmin (fld w 6 6) (fld w 12 6) (fld w 18 6) (fld w 28 1))
  | 7 => some (.fmax (fld w 6 6) (fld w 12 6) (fld w 18 6) (fld w 28 1))
  | 8 => some (.fcmp (fld w 6 6) (fld w 12 6) (fld w 18 6) (fld w 28 1) (fld w 29 3))
  | 9 => some (.fcvt (fld w 6 6) (fld w 12 6) (fld w 28 1) (fld w 29 3))
  | 10 => some (.fclass (fld w 6 6) (fld w 12 6) (fld w 28 1))
  | 11 => some (.fsgn (fld w 6 6) (fld w 12 6) (fld w 18 6) (fld w 28 1) (fld w 29 3))
  | _ => none

/-- Selector of S major 0x31 (R47). -/
def candQop (w : BitVec 32) : Option Instr :=
  match (fld w 24 3).toNat with
  | 0 => some (.qnum (fld w 6 6) (fld w 12 6) (fld w 28 1))
  | 1 => some (.qden (fld w 6 6) (fld w 12 6) (fld w 28 1))
  | 2 => some (.qmake (fld w 6 6) (fld w 12 6) (fld w 18 6) (fld w 28 1))
  | 3 => some (.qgcd (fld w 6 6) (fld w 12 6) (fld w 18 6))
  | 4 => some (.qbnd (fld w 6 6) (fld w 12 6) (fld w 18 6) (fld w 28 1))
  | _ => none

/-- Selector of S major 0x32 (R47). -/
def candPack (w : BitVec 32) : Option Instr :=
  match (fld w 24 3).toNat with
  | 0 => some (.padd (fld w 6 6) (fld w 12 6) (fld w 18 6) (fld w 27 5))
  | 1 => some (.psub (fld w 6 6) (fld w 12 6) (fld w 18 6) (fld w 27 5))
  | 2 => some (.pmul (fld w 6 6) (fld w 12 6) (fld w 18 6) (fld w 27 5))
  | 3 => some (.pmax (fld w 6 6) (fld w 12 6) (fld w 18 6) (fld w 27 5))
  | 4 => some (.pmin (fld w 6 6) (fld w 12 6) (fld w 18 6) (fld w 27 5))
  | 5 => some (.pdot (fld w 6 6) (fld w 12 6) (fld w 18 6) (fld w 27 5))
  | 6 => some (.pcdot (fld w 6 6) (fld w 12 6) (fld w 18 6) (fld w 27 5))
  | _ => some (.pcvt (fld w 6 6) (fld w 12 6) (fld w 18 6) (fld w 27 5))

/-- Selector of S major 0x33 (R47). -/
def candVmem (w : BitVec 32) : Option Instr :=
  match (fld w 28 4).toNat with
  | 0 => some (.vld (fld w 6 5) (fld w 11 6) (fld w 23 3))
  | 1 => some (.vst (fld w 6 5) (fld w 11 6) (fld w 23 3))
  | 2 => some (.vlds (fld w 6 5) (fld w 11 6) (fld w 17 6) (fld w 23 3) (fld w 26 2))
  | 3 => some (.vsts (fld w 6 5) (fld w 11 6) (fld w 17 6) (fld w 23 3) (fld w 26 2))
  | 4 => some (.vgth (fld w 6 5) (fld w 11 6) (fld w 17 5) (fld w 23 3) (fld w 26 2))
  | 5 => some (.vsct (fld w 6 5) (fld w 11 6) (fld w 17 5) (fld w 23 3) (fld w 26 2))
  | _ => none

/-- Selector of S major 0x34 (R47). -/
def candCopy (w : BitVec 32) : Option Instr :=
  match (fld w 27 3).toNat with
  | 0 => some (.cpy (fld w 6 6) (fld w 12 6) (fld w 18 6) (fld w 24 3) (fld w 30 1) (fld w 31 1))
  | 1 => some (.cpw (fld w 6 6) (fld w 12 6))
  | 2 => some (.cpq (fld w 6 6) (fld w 12 6))
  | 3 => some (.sbind (fld w 6 6) (fld w 12 6) (fld w 24 2))
  | 4 => some (.tseal (fld w 6 6) (fld w 12 6))
  | 5 => some (.tfree (fld w 6 6) (fld w 12 6))
  | 6 => if fld w 6 6 = 0#6 then some (.hmovToH (fld w 12 6) (fld w 24 3)) else some (.hmovFromH (fld w 6 6) (fld w 24 3))
  | _ => none

/-- Selector of S major 0x35 (R47). -/
def candMat (w : BitVec 32) : Option Instr :=
  match (fld w 27 3).toNat with
  | 0 => some (.mslot (fld w 6 6) (fld w 30 1))
  | 1 => some (.mfree (fld w 12 6))
  | 2 => some (.mlda (fld w 6 6) (fld w 12 6) (fld w 18 6) (fld w 24 3))
  | 3 => some (.mma (fld w 12 6) (fld w 18 6) (fld w 24 3) (fld w 30 1))
  | 4 => some (.mcfg (fld w 6 6) (fld w 12 6) (fld w 24 3))
  | 5 => some (.mzero (fld w 24 3))
  | 6 => some (.msta (fld w 6 6) (fld w 12 6) (fld w 18 3) (fld w 24 3))
  | _ => none

/-- Selector of S major 0x36 (R47). -/
def candKey (w : BitVec 32) : Option Instr :=
  match (fld w 27 3).toNat with
  | 0 => some (.jopen (fld w 6 6) (fld w 12 6))
  | 1 => some (.jbind (fld w 6 6) (fld w 12 6) (fld w 30 1))
  | 2 => some (.jarr (fld w 6 6) (fld w 12 6) (fld w 18 6) (fld w 30 1))
  | 3 => some (.jwait (fld w 6 6) (fld w 12 6) (fld w 30 1))
  | 4 => some (.jclose (fld w 6 6) (fld w 12 6))
  | 5 => some (.jqry (fld w 6 6) (fld w 12 6))
  | 6 => some (.khold)
  | _ => some (.klet)

/-- Selector of S major 0x37 (R47). -/
def candTruss (w : BitVec 32) : Option Instr :=
  match (fld w 27 5).toNat with
  | 0 => some (.shrd (fld w 6 6) (fld w 12 6))
  | 1 => some (.shcap (fld w 6 6) (fld w 12 6))
  | 2 => some (.wedge (fld w 6 6) (fld w 12 6))
  | 3 => some (.wclr (fld w 6 6))
  | _ => none

/-- Selector of S major 0x38 (R47). -/
def candColl (w : BitVec 32) : Option Instr :=
  match (fld w 27 5).toNat with
  | 0 => some (.copen (fld w 6 6) (fld w 12 6) (fld w 18 6) (fld w 24 2))
  | 1 => some (.cclose (fld w 6 6) (fld w 24 2))
  | 2 => some (.cwait (fld w 6 6) (fld w 24 2))
  | _ => none

/-- Selector of V major 0x01 (R49). -/
def candLane (w : BitVec 32) : Option Instr :=
  match (fld w 22 10).toNat with
  | 0 => some (.vclaim (fld w 16 6))
  | 1 => some (.vrel)
  | _ => none

/-- Selector of V major 0x28 (R49). -/
def candVred (w : BitVec 32) : Option Instr :=
  match (fld w 22 2).toNat with
  | 0 => some (.vrsum (fld w 11 5) (fld w 16 6) (fld w 24 3) (fld w 27 3))
  | 1 => some (.vrmax (fld w 11 5) (fld w 16 6) (fld w 24 3) (fld w 27 3))
  | 2 => some (.vrmin (fld w 11 5) (fld w 16 6) (fld w 24 3) (fld w 27 3))
  | _ => some (.vfrsum (fld w 11 5) (fld w 16 6) (fld w 24 3) (fld w 27 3))

/-- Selector of V major 0x29 (R49). -/
def candVsfu (w : BitVec 32) : Option Instr :=
  match (fld w 16 5).toNat with
  | 0 => some (.vexp (fld w 6 5) (fld w 11 5) (fld w 26 3))
  | 1 => some (.vlog (fld w 6 5) (fld w 11 5) (fld w 26 3))
  | 2 => some (.vrcp (fld w 6 5) (fld w 11 5) (fld w 26 3))
  | 3 => some (.vrsq (fld w 6 5) (fld w 11 5) (fld w 26 3))
  | 4 => some (.vsigm (fld w 6 5) (fld w 11 5) (fld w 26 3))
  | 5 => some (.vtanh (fld w 6 5) (fld w 11 5) (fld w 26 3))
  | 6 => some (.vsin (fld w 6 5) (fld w 11 5) (fld w 26 3))
  | 7 => some (.vcos (fld w 6 5) (fld w 11 5) (fld w 26 3))
  | _ => none

/-- Selector of V major 0x2A (R49). -/
def candMask (w : BitVec 32) : Option Instr :=
  match (fld w 21 5).toNat with
  | 0 => some (.mand (fld w 6 3) (fld w 11 3) (fld w 16 3))
  | 1 => some (.mor (fld w 6 3) (fld w 11 3) (fld w 16 3))
  | 2 => some (.mxor (fld w 6 3) (fld w 11 3) (fld w 16 3))
  | 3 => some (.mnot (fld w 6 3) (fld w 11 3))
  | _ => none

/-- Selector of V major 0x2C (R49). -/
def candAcc (w : BitVec 32) : Option Instr :=
  match (fld w 22 2).toNat with
  | 0 => some (.mrdr (fld w 6 5) (fld w 16 6) (fld w 24 3))
  | 1 => some (.mrdc (fld w 6 5) (fld w 16 6) (fld w 24 3))
  | 2 => some (.mwrr (fld w 11 5) (fld w 16 6) (fld w 24 3))
  | _ => some (.mwrc (fld w 11 5) (fld w 16 6) (fld w 24 3))

/-- The S-slot opcode map (R47): the instruction a word's major and selector name, if assigned. -/
def candS (w : BitVec 32) : Option Instr :=
  match (fld w 0 6).toNat with
  | 0x01 => candInt w
  | 0x02 => candIntW w
  | 0x03 => some (.addi (fld w 6 6) (fld w 12 6) (fld w 18 14))
  | 0x04 => some (.andi (fld w 6 6) (fld w 12 6) (fld w 18 14))
  | 0x05 => some (.ori (fld w 6 6) (fld w 12 6) (fld w 18 14))
  | 0x06 => some (.xori (fld w 6 6) (fld w 12 6) (fld w 18 14))
  | 0x07 => some (.shli (fld w 6 6) (fld w 12 6) (fld w 18 6))
  | 0x08 => some (.shri (fld w 6 6) (fld w 12 6) (fld w 18 6))
  | 0x09 => some (.sari (fld w 6 6) (fld w 12 6) (fld w 18 6))
  | 0x0A => some (.rori (fld w 6 6) (fld w 12 6) (fld w 18 6))
  | 0x0B => some (.slti (fld w 6 6) (fld w 12 6) (fld w 18 14))
  | 0x0C => some (.sltui (fld w 6 6) (fld w 12 6) (fld w 18 14))
  | 0x0D => some (.muli (fld w 6 6) (fld w 12 6) (fld w 18 14))
  | 0x0E => some (.imm (fld w 6 6) (fld w 12 20))
  | 0x0F => some (.immh (fld w 6 6) (fld w 12 20))
  | 0x10 => some (.immt (fld w 6 6) (fld w 12 20))
  | 0x11 => candBitu w
  | 0x12 => candBf w
  | 0x13 => some (.lea (fld w 6 6) (fld w 12 6) (fld w 18 6) (fld w 24 3) (fld w 27 5))
  | 0x14 => candSelp w
  | 0x15 => some (.beq (fld w 6 6) (fld w 12 6) (fld w 18 14))
  | 0x16 => some (.bne (fld w 6 6) (fld w 12 6) (fld w 18 14))
  | 0x17 => some (.blt (fld w 6 6) (fld w 12 6) (fld w 18 14))
  | 0x18 => some (.bge (fld w 6 6) (fld w 12 6) (fld w 18 14))
  | 0x19 => some (.bltu (fld w 6 6) (fld w 12 6) (fld w 18 14))
  | 0x1A => some (.bgeu (fld w 6 6) (fld w 12 6) (fld w 18 14))
  | 0x1B => some (.loop (fld w 6 6) (fld w 18 14))
  | 0x1C => some (.jmp (fld w 6 26))
  | 0x1D => some (.jal (fld w 6 26))
  | 0x1E => some (.jr (fld w 6 6) (fld w 12 6))
  | 0x1F => some (.ld (fld w 6 6) (fld w 12 6) (fld w 18 12) (fld w 30 2))
  | 0x20 => some (.ldU (fld w 6 6) (fld w 12 6) (fld w 18 12) (fld w 30 2))
  | 0x21 => some (.st (fld w 6 6) (fld w 12 6) (fld w 18 12) (fld w 30 2))
  | 0x22 => candLsx w
  | 0x23 => some (.lds (fld w 6 6) (fld w 12 6) (fld w 18 12))
  | 0x24 => some (.ldc (fld w 6 6) (fld w 12 6) (fld w 18 12))
  | 0x25 => some (.stf (fld w 6 6) (fld w 12 6) (fld w 18 12))
  | 0x26 => candFeop w
  | 0x27 => some (.amo (fld w 6 6) (fld w 12 6) (fld w 18 6) (fld w 24 4) (fld w 28 2) (fld w 30 1))
  | 0x28 => some (.cas (fld w 6 6) (fld w 12 6) (fld w 18 6) (fld w 28 2))
  | 0x29 => some (.famo (fld w 6 6) (fld w 12 6) (fld w 18 6) (fld w 24 2) (fld w 28 1))
  | 0x2A => candLockop w
  | 0x2B => candOrd w
  | 0x2C => some (.pfx (fld w 6 4))
  | 0x2D => candSys w
  | 0x2E => candCreg w
  | 0x2F => candTask w
  | 0x30 => candFp w
  | 0x31 => candQop w
  | 0x32 => candPack w
  | 0x33 => candVmem w
  | 0x34 => candCopy w
  | 0x35 => candMat w
  | 0x36 => candKey w
  | 0x37 => candTruss w
  | 0x38 => candColl w
  | 0x3F => some (.snop)
  | _ => none

/-- The V-slot opcode map (R49). -/
def candV (w : BitVec 32) : Option Instr :=
  match (fld w 0 6).toNat with
  | 0x00 => some (.vnop)
  | 0x01 => candLane w
  | 0x02 => some (.vadd (fld w 6 5) (fld w 11 5) (fld w 16 5) (fld w 26 3) (fld w 29 3))
  | 0x03 => some (.vsub (fld w 6 5) (fld w 11 5) (fld w 16 5) (fld w 26 3) (fld w 29 3))
  | 0x04 => some (.vmul (fld w 6 5) (fld w 11 5) (fld w 16 5) (fld w 26 3) (fld w 29 3))
  | 0x05 => some (.vmulh (fld w 6 5) (fld w 11 5) (fld w 16 5) (fld w 26 3) (fld w 29 3))
  | 0x06 => some (.vmac (fld w 6 5) (fld w 11 5) (fld w 16 5) (fld w 21 5) (fld w 26 3) (fld w 29 3))
  | 0x07 => some (.vand (fld w 6 5) (fld w 11 5) (fld w 16 5) (fld w 26 3) (fld w 29 3))
  | 0x08 => some (.vor (fld w 6 5) (fld w 11 5) (fld w 16 5) (fld w 26 3) (fld w 29 3))
  | 0x09 => some (.vxor (fld w 6 5) (fld w 11 5) (fld w 16 5) (fld w 26 3) (fld w 29 3))
  | 0x0A => some (.vshl (fld w 6 5) (fld w 11 5) (fld w 16 5) (fld w 26 3) (fld w 29 3))
  | 0x0B => some (.vshr (fld w 6 5) (fld w 11 5) (fld w 16 5) (fld w 26 3) (fld w 29 3))
  | 0x0C => some (.vsar (fld w 6 5) (fld w 11 5) (fld w 16 5) (fld w 26 3) (fld w 29 3))
  | 0x0D => some (.vmin (fld w 6 5) (fld w 11 5) (fld w 16 5) (fld w 26 3) (fld w 29 3))
  | 0x0E => some (.vmax (fld w 6 5) (fld w 11 5) (fld w 16 5) (fld w 26 3) (fld w 29 3))
  | 0x0F => some (.vabs (fld w 6 5) (fld w 11 5) (fld w 26 3) (fld w 29 3))
  | 0x10 => some (.vcmp (fld w 6 3) (fld w 11 5) (fld w 16 5) (fld w 21 5) (fld w 26 3) (fld w 29 3))
  | 0x11 => some (.vsel (fld w 6 5) (fld w 11 5) (fld w 16 5) (fld w 26 3))
  | 0x12 => some (.vfadd (fld w 6 5) (fld w 11 5) (fld w 16 5) (fld w 26 3) (fld w 29 3))
  | 0x13 => some (.vfsub (fld w 6 5) (fld w 11 5) (fld w 16 5) (fld w 26 3) (fld w 29 3))
  | 0x14 => some (.vfmul (fld w 6 5) (fld w 11 5) (fld w 16 5) (fld w 26 3) (fld w 29 3))
  | 0x15 => some (.vfma (fld w 6 5) (fld w 11 5) (fld w 16 5) (fld w 21 5) (fld w 26 3) (fld w 29 3))
  | 0x16 => some (.vfmin (fld w 6 5) (fld w 11 5) (fld w 16 5) (fld w 26 3) (fld w 29 3))
  | 0x17 => some (.vfmax (fld w 6 5) (fld w 11 5) (fld w 16 5) (fld w 26 3) (fld w 29 3))
  | 0x18 => some (.vfcmp (fld w 6 3) (fld w 11 5) (fld w 16 5) (fld w 21 5) (fld w 26 3))
  | 0x19 => some (.vfsgn (fld w 6 5) (fld w 11 5) (fld w 16 5) (fld w 21 5) (fld w 26 3) (fld w 29 3))
  | 0x1A => some (.vfcvt (fld w 6 5) (fld w 11 5) (fld w 16 6) (fld w 22 4) (fld w 26 4) (fld w 30 2))
  | 0x1B => some (.vfscl (fld w 6 5) (fld w 11 5) (fld w 16 6) (fld w 22 2))
  | 0x1C => some (.vcmac (fld w 6 5) (fld w 11 5) (fld w 16 5) (fld w 21 5) (fld w 26 3) (fld w 29 3))
  | 0x1D => some (.vcconj (fld w 6 5) (fld w 11 5) (fld w 26 3) (fld w 29 3))
  | 0x1E => some (.vdot4 (fld w 6 5) (fld w 11 5) (fld w 16 5) (fld w 21 5) (fld w 26 3) (fld w 29 3))
  | 0x1F => some (.vdot8 (fld w 6 5) (fld w 11 5) (fld w 16 5) (fld w 21 5) (fld w 26 3) (fld w 29 3))
  | 0x20 => some (.vbcast (fld w 6 5) (fld w 16 6) (fld w 22 3))
  | 0x21 => some (.vextr (fld w 11 5) (fld w 16 6) (fld w 22 7))
  | 0x22 => some (.vins (fld w 6 5) (fld w 16 6) (fld w 22 7))
  | 0x23 => some (.vperm (fld w 6 5) (fld w 11 5) (fld w 16 5) (fld w 26 3) (fld w 29 3))
  | 0x24 => some (.vslide (fld w 6 5) (fld w 11 5) (fld w 16 16))
  | 0x25 => some (.vzip (fld w 6 5) (fld w 11 5) (fld w 16 5) (fld w 21 1) (fld w 26 3) (fld w 29 3))
  | 0x26 => some (.vunzip (fld w 6 5) (fld w 11 5) (fld w 16 5) (fld w 21 1) (fld w 26 3) (fld w 29 3))
  | 0x27 => some (.vmov (fld w 6 5) (fld w 11 5) (fld w 26 3) (fld w 29 3))
  | 0x28 => candVred w
  | 0x29 => candVsfu w
  | 0x2A => candMask w
  | 0x2B => some (.mpop (fld w 11 3) (fld w 16 6))
  | 0x2C => candAcc w
  | _ => none

/-- The slot word of an instruction, from the encoding tables; `none` for the steps that have no bits. -/
def encode : Instr → Option (BitVec 32)
  | .add d a b => some (0#8 ++ b ++ a ++ d ++ 1#6)
  | .sub d a b => some (1#8 ++ b ++ a ++ d ++ 1#6)
  | .mul d a b => some (2#8 ++ b ++ a ++ d ++ 1#6)
  | .mulh d a b => some (3#8 ++ b ++ a ++ d ++ 1#6)
  | .mulhu d a b => some (4#8 ++ b ++ a ++ d ++ 1#6)
  | .div d a b => some (5#8 ++ b ++ a ++ d ++ 1#6)
  | .divu d a b => some (6#8 ++ b ++ a ++ d ++ 1#6)
  | .rem d a b => some (7#8 ++ b ++ a ++ d ++ 1#6)
  | .remu d a b => some (8#8 ++ b ++ a ++ d ++ 1#6)
  | .and d a b => some (9#8 ++ b ++ a ++ d ++ 1#6)
  | .or d a b => some (10#8 ++ b ++ a ++ d ++ 1#6)
  | .xor d a b => some (11#8 ++ b ++ a ++ d ++ 1#6)
  | .andn d a b => some (12#8 ++ b ++ a ++ d ++ 1#6)
  | .orn d a b => some (13#8 ++ b ++ a ++ d ++ 1#6)
  | .shl d a b => some (14#8 ++ b ++ a ++ d ++ 1#6)
  | .shr d a b => some (15#8 ++ b ++ a ++ d ++ 1#6)
  | .sar d a b => some (16#8 ++ b ++ a ++ d ++ 1#6)
  | .ror d a b => some (17#8 ++ b ++ a ++ d ++ 1#6)
  | .min d a b => some (18#8 ++ b ++ a ++ d ++ 1#6)
  | .max d a b => some (19#8 ++ b ++ a ++ d ++ 1#6)
  | .minu d a b => some (20#8 ++ b ++ a ++ d ++ 1#6)
  | .maxu d a b => some (21#8 ++ b ++ a ++ d ++ 1#6)
  | .slt d a b => some (22#8 ++ b ++ a ++ d ++ 1#6)
  | .sltu d a b => some (23#8 ++ b ++ a ++ d ++ 1#6)
  | .seq d a b => some (24#8 ++ b ++ a ++ d ++ 1#6)
  | .sne d a b => some (25#8 ++ b ++ a ++ d ++ 1#6)
  | .addW d a b => some (0#8 ++ b ++ a ++ d ++ 2#6)
  | .subW d a b => some (1#8 ++ b ++ a ++ d ++ 2#6)
  | .mulW d a b => some (2#8 ++ b ++ a ++ d ++ 2#6)
  | .mulhW d a b => some (3#8 ++ b ++ a ++ d ++ 2#6)
  | .mulhuW d a b => some (4#8 ++ b ++ a ++ d ++ 2#6)
  | .divW d a b => some (5#8 ++ b ++ a ++ d ++ 2#6)
  | .divuW d a b => some (6#8 ++ b ++ a ++ d ++ 2#6)
  | .remW d a b => some (7#8 ++ b ++ a ++ d ++ 2#6)
  | .remuW d a b => some (8#8 ++ b ++ a ++ d ++ 2#6)
  | .andW d a b => some (9#8 ++ b ++ a ++ d ++ 2#6)
  | .orW d a b => some (10#8 ++ b ++ a ++ d ++ 2#6)
  | .xorW d a b => some (11#8 ++ b ++ a ++ d ++ 2#6)
  | .andnW d a b => some (12#8 ++ b ++ a ++ d ++ 2#6)
  | .ornW d a b => some (13#8 ++ b ++ a ++ d ++ 2#6)
  | .shlW d a b => some (14#8 ++ b ++ a ++ d ++ 2#6)
  | .shrW d a b => some (15#8 ++ b ++ a ++ d ++ 2#6)
  | .sarW d a b => some (16#8 ++ b ++ a ++ d ++ 2#6)
  | .rorW d a b => some (17#8 ++ b ++ a ++ d ++ 2#6)
  | .minW d a b => some (18#8 ++ b ++ a ++ d ++ 2#6)
  | .maxW d a b => some (19#8 ++ b ++ a ++ d ++ 2#6)
  | .minuW d a b => some (20#8 ++ b ++ a ++ d ++ 2#6)
  | .maxuW d a b => some (21#8 ++ b ++ a ++ d ++ 2#6)
  | .sltW d a b => some (22#8 ++ b ++ a ++ d ++ 2#6)
  | .sltuW d a b => some (23#8 ++ b ++ a ++ d ++ 2#6)
  | .seqW d a b => some (24#8 ++ b ++ a ++ d ++ 2#6)
  | .sneW d a b => some (25#8 ++ b ++ a ++ d ++ 2#6)
  | .addi d a i => some (i ++ a ++ d ++ 3#6)
  | .andi d a i => some (i ++ a ++ d ++ 4#6)
  | .ori d a i => some (i ++ a ++ d ++ 5#6)
  | .xori d a i => some (i ++ a ++ d ++ 6#6)
  | .shli d a k => some (0#8 ++ k ++ a ++ d ++ 7#6)
  | .shri d a k => some (0#8 ++ k ++ a ++ d ++ 8#6)
  | .sari d a k => some (0#8 ++ k ++ a ++ d ++ 9#6)
  | .rori d a k => some (0#8 ++ k ++ a ++ d ++ 10#6)
  | .slti d a i => some (i ++ a ++ d ++ 11#6)
  | .sltui d a i => some (i ++ a ++ d ++ 12#6)
  | .muli d a i => some (i ++ a ++ d ++ 13#6)
  | .imm d i => some (i ++ d ++ 14#6)
  | .immh d i => some (i ++ d ++ 15#6)
  | .immt d i => some (i ++ d ++ 16#6)
  | .clz d a => some (0#14 ++ a ++ d ++ 17#6)
  | .ctz d a => some (64#14 ++ a ++ d ++ 17#6)
  | .popc d a => some (128#14 ++ a ++ d ++ 17#6)
  | .brev d a => some (192#14 ++ a ++ d ++ 17#6)
  | .bswap d a => some (256#14 ++ a ++ d ++ 17#6)
  | .bset d a b => some (5#8 ++ b ++ a ++ d ++ 17#6)
  | .bclr d a b => some (6#8 ++ b ++ a ++ d ++ 17#6)
  | .bext d a o w => some (0#2 ++ w ++ o ++ a ++ d ++ 18#6)
  | .bextu d a o w => some (1#2 ++ w ++ o ++ a ++ d ++ 18#6)
  | .bins d a o w => some (2#2 ++ w ++ o ++ a ++ d ++ 18#6)
  | .lea d a b s i => some (i ++ s ++ b ++ a ++ d ++ 19#6)
  | .sel d a b => some (0#8 ++ b ++ a ++ d ++ 20#6)
  | .part d a b => some (1#8 ++ b ++ a ++ d ++ 20#6)
  | .coord d l => some (128#14 ++ l ++ d ++ 20#6)
  | .beq a b i => some (i ++ b ++ a ++ 21#6)
  | .bne a b i => some (i ++ b ++ a ++ 22#6)
  | .blt a b i => some (i ++ b ++ a ++ 23#6)
  | .bge a b i => some (i ++ b ++ a ++ 24#6)
  | .bltu a b i => some (i ++ b ++ a ++ 25#6)
  | .bgeu a b i => some (i ++ b ++ a ++ 26#6)
  | .loop a i => some (i ++ 0#6 ++ a ++ 27#6)
  | .jmp i => some (i ++ 28#6)
  | .jal i => some (i ++ 29#6)
  | .jr d a => some (0#14 ++ a ++ d ++ 30#6)
  | .ld d a i m => some (m ++ i ++ a ++ d ++ 31#6)
  | .ldU d a i m => some (m ++ i ++ a ++ d ++ 32#6)
  | .st t a i m => some (m ++ i ++ a ++ t ++ 33#6)
  | .ldx d a b z u => some (0#5 ++ u ++ z ++ b ++ a ++ d ++ 34#6)
  | .stx t a b z => some (2#6 ++ z ++ b ++ a ++ t ++ 34#6)
  | .lds d a i => some (3#2 ++ i ++ a ++ d ++ 35#6)
  | .ldc d a i => some (3#2 ++ i ++ a ++ d ++ 36#6)
  | .stf t a i => some (3#2 ++ i ++ a ++ t ++ 37#6)
  | .feset a => some (0#14 ++ a ++ 38#12)
  | .feclr a => some (64#14 ++ a ++ 38#12)
  | .fetst d a => some (128#14 ++ a ++ d ++ 38#6)
  | .amo d a b o z c => some (0#1 ++ c ++ z ++ o ++ b ++ a ++ d ++ 39#6)
  | .cas d a b z => some (0#2 ++ z ++ 0#4 ++ b ++ a ++ d ++ 40#6)
  | .famo d a b o p => some (0#3 ++ p ++ 0#2 ++ o ++ b ++ a ++ d ++ 41#6)
  | .lock d a => some (0#14 ++ a ++ d ++ 42#6)
  | .unlk d a => some (64#14 ++ a ++ d ++ 42#6)
  | .fence f => some (0#5 ++ f ++ 43#24)
  | .ifence => some (134217771#32)
  | .pfx f => some (0#22 ++ f ++ 44#6)
  | .trap c => some (0#8 ++ c ++ 45#12)
  | .eret => some (16777261#32)
  | .brk => some (33554477#32)
  | .exit => some (50331693#32)
  | .yield => some (67108909#32)
  | .time d => some (20480#20 ++ d ++ 45#6)
  | .cyc d => some (24576#20 ++ d ++ 45#6)
  | .launch d a => some (448#14 ++ a ++ d ++ 45#6)
  | .crd d n => some (0#4 ++ n ++ 0#6 ++ d ++ 46#6)
  | .cwr a n => some (1#4 ++ n ++ a ++ 46#12)
  | .cswp d a n => some (2#4 ++ n ++ a ++ d ++ 46#6)
  | .tnext d a => some (0#14 ++ a ++ d ++ 47#6)
  | .tend => some (16777263#32)
  | .tpost d a b => some (2#8 ++ b ++ a ++ d ++ 47#6)
  | .send r a b => some (3#8 ++ b ++ a ++ r ++ 47#6)
  | .epid d a => some (256#14 ++ a ++ d ++ 47#6)
  | .mig a => some (320#14 ++ a ++ 47#12)
  | .qbind r a b => some (6#8 ++ b ++ a ++ r ++ 47#6)
  | .lwait d a => some (448#14 ++ a ++ d ++ 47#6)
  | .fadd d a b w => some (0#3 ++ w ++ 0#4 ++ b ++ a ++ d ++ 48#6)
  | .fsub d a b w => some (0#3 ++ w ++ 1#4 ++ b ++ a ++ d ++ 48#6)
  | .fmul d a b w => some (0#3 ++ w ++ 2#4 ++ b ++ a ++ d ++ 48#6)
  | .fdiv d a b w => some (0#3 ++ w ++ 3#4 ++ b ++ a ++ d ++ 48#6)
  | .fma d a b w v => some (v ++ w ++ 4#4 ++ b ++ a ++ d ++ 48#6)
  | .fsqrt d a w => some (0#3 ++ w ++ 320#10 ++ a ++ d ++ 48#6)
  | .fmin d a b w => some (0#3 ++ w ++ 6#4 ++ b ++ a ++ d ++ 48#6)
  | .fmax d a b w => some (0#3 ++ w ++ 7#4 ++ b ++ a ++ d ++ 48#6)
  | .fcmp d a b w c => some (c ++ w ++ 8#4 ++ b ++ a ++ d ++ 48#6)
  | .fcvt d a w v => some (v ++ w ++ 576#10 ++ a ++ d ++ 48#6)
  | .fclass d a w => some (0#3 ++ w ++ 640#10 ++ a ++ d ++ 48#6)
  | .fsgn d a b w v => some (v ++ w ++ 11#4 ++ b ++ a ++ d ++ 48#6)
  | .qnum d a w => some (0#3 ++ w ++ 0#10 ++ a ++ d ++ 49#6)
  | .qden d a w => some (0#3 ++ w ++ 64#10 ++ a ++ d ++ 49#6)
  | .qmake d a b w => some (0#3 ++ w ++ 2#4 ++ b ++ a ++ d ++ 49#6)
  | .qgcd d a b => some (3#8 ++ b ++ a ++ d ++ 49#6)
  | .qbnd d a b w => some (0#3 ++ w ++ 4#4 ++ b ++ a ++ d ++ 49#6)
  | .padd d a b s => some (s ++ 0#3 ++ b ++ a ++ d ++ 50#6)
  | .psub d a b s => some (s ++ 1#3 ++ b ++ a ++ d ++ 50#6)
  | .pmul d a b s => some (s ++ 2#3 ++ b ++ a ++ d ++ 50#6)
  | .pmax d a b s => some (s ++ 3#3 ++ b ++ a ++ d ++ 50#6)
  | .pmin d a b s => some (s ++ 4#3 ++ b ++ a ++ d ++ 50#6)
  | .pdot d a b s => some (s ++ 5#3 ++ b ++ a ++ d ++ 50#6)
  | .pcdot d a b s => some (s ++ 6#3 ++ b ++ a ++ d ++ 50#6)
  | .pcvt d a b s => some (s ++ 7#3 ++ b ++ a ++ d ++ 50#6)
  | .vld v a k => some (2#6 ++ k ++ 0#6 ++ a ++ v ++ 51#6)
  | .vst v a k => some (6#6 ++ k ++ 0#6 ++ a ++ v ++ 51#6)
  | .vlds v a b k z => some (2#4 ++ z ++ k ++ b ++ a ++ v ++ 51#6)
  | .vsts v a b k z => some (3#4 ++ z ++ k ++ b ++ a ++ v ++ 51#6)
  | .vgth v a x k z => some (4#4 ++ z ++ k ++ 0#1 ++ x ++ a ++ v ++ 51#6)
  | .vsct v a x k z => some (5#4 ++ z ++ k ++ 0#1 ++ x ++ a ++ v ++ 51#6)
  | .cpy d a b h f c => some (c ++ f ++ 0#3 ++ h ++ b ++ a ++ d ++ 52#6)
  | .cpw d a => some (512#14 ++ a ++ d ++ 52#6)
  | .cpq d a => some (1024#14 ++ a ++ d ++ 52#6)
  | .sbind d a s => some (6#6 ++ s ++ 0#6 ++ a ++ d ++ 52#6)
  | .tseal d a => some (2048#14 ++ a ++ d ++ 52#6)
  | .tfree d a => some (2560#14 ++ a ++ d ++ 52#6)
  | .hmovToH a h => some (6#5 ++ h ++ 0#6 ++ a ++ 52#12)
  | .hmovFromH d h => some (6#5 ++ h ++ 0#12 ++ d ++ 52#6)
  | .mslot d w => some (0#1 ++ w ++ 0#18 ++ d ++ 53#6)
  | .mfree a => some (512#14 ++ a ++ 53#12)
  | .mlda d a b h => some (2#5 ++ h ++ b ++ a ++ d ++ 53#6)
  | .mma a b t j => some (0#1 ++ j ++ 3#3 ++ t ++ b ++ a ++ 53#12)
  | .mcfg d a t => some (4#5 ++ t ++ 0#6 ++ a ++ d ++ 53#6)
  | .mzero t => some (5#5 ++ t ++ 53#24)
  | .msta d a t h => some (6#5 ++ h ++ 0#3 ++ t ++ a ++ d ++ 53#6)
  | .jopen d a => some (0#14 ++ a ++ d ++ 54#6)
  | .jbind d a t => some (0#1 ++ t ++ 512#12 ++ a ++ d ++ 54#6)
  | .jarr d a b v => some (0#1 ++ v ++ 16#6 ++ b ++ a ++ d ++ 54#6)
  | .jwait d a s => some (0#1 ++ s ++ 1536#12 ++ a ++ d ++ 54#6)
  | .jclose d a => some (2048#14 ++ a ++ d ++ 54#6)
  | .jqry d a => some (2560#14 ++ a ++ d ++ 54#6)
  | .khold => some (805306422#32)
  | .klet => some (939524150#32)
  | .shrd d a => some (0#14 ++ a ++ d ++ 55#6)
  | .shcap d a => some (512#14 ++ a ++ d ++ 55#6)
  | .wedge d a => some (1024#14 ++ a ++ d ++ 55#6)
  | .wclr d => some (98304#20 ++ d ++ 55#6)
  | .copen d a b k => some (0#6 ++ k ++ b ++ a ++ d ++ 56#6)
  | .cclose d k => some (2#6 ++ k ++ 0#12 ++ d ++ 56#6)
  | .cwait d k => some (4#6 ++ k ++ 0#12 ++ d ++ 56#6)
  | .snop => some (63#32)
  | .vnop => some (0#32)
  | .vclaim g => some (0#10 ++ g ++ 1#16)
  | .vrel => some (4194305#32)
  | .vadd d a b k t => some (t ++ k ++ 0#5 ++ b ++ a ++ d ++ 2#6)
  | .vsub d a b k t => some (t ++ k ++ 0#5 ++ b ++ a ++ d ++ 3#6)
  | .vmul d a b k t => some (t ++ k ++ 0#5 ++ b ++ a ++ d ++ 4#6)
  | .vmulh d a b k t => some (t ++ k ++ 0#5 ++ b ++ a ++ d ++ 5#6)
  | .vmac d a b c k t => some (t ++ k ++ c ++ b ++ a ++ d ++ 6#6)
  | .vand d a b k t => some (t ++ k ++ 0#5 ++ b ++ a ++ d ++ 7#6)
  | .vor d a b k t => some (t ++ k ++ 0#5 ++ b ++ a ++ d ++ 8#6)
  | .vxor d a b k t => some (t ++ k ++ 0#5 ++ b ++ a ++ d ++ 9#6)
  | .vshl d a b k t => some (t ++ k ++ 0#5 ++ b ++ a ++ d ++ 10#6)
  | .vshr d a b k t => some (t ++ k ++ 0#5 ++ b ++ a ++ d ++ 11#6)
  | .vsar d a b k t => some (t ++ k ++ 0#5 ++ b ++ a ++ d ++ 12#6)
  | .vmin d a b k t => some (t ++ k ++ 0#5 ++ b ++ a ++ d ++ 13#6)
  | .vmax d a b k t => some (t ++ k ++ 0#5 ++ b ++ a ++ d ++ 14#6)
  | .vabs d a k t => some (t ++ k ++ 0#10 ++ a ++ d ++ 15#6)
  | .vcmp d a b c k t => some (t ++ k ++ c ++ b ++ a ++ 0#2 ++ d ++ 16#6)
  | .vsel d a b k => some (0#3 ++ k ++ 0#5 ++ b ++ a ++ d ++ 17#6)
  | .vfadd d a b k t => some (t ++ k ++ 0#5 ++ b ++ a ++ d ++ 18#6)
  | .vfsub d a b k t => some (t ++ k ++ 0#5 ++ b ++ a ++ d ++ 19#6)
  | .vfmul d a b k t => some (t ++ k ++ 0#5 ++ b ++ a ++ d ++ 20#6)
  | .vfma d a b c k t => some (t ++ k ++ c ++ b ++ a ++ d ++ 21#6)
  | .vfmin d a b k t => some (t ++ k ++ 0#5 ++ b ++ a ++ d ++ 22#6)
  | .vfmax d a b k t => some (t ++ k ++ 0#5 ++ b ++ a ++ d ++ 23#6)
  | .vfcmp d a b c k => some (0#3 ++ k ++ c ++ b ++ a ++ 0#2 ++ d ++ 24#6)
  | .vfsgn d a b c k t => some (t ++ k ++ c ++ b ++ a ++ d ++ 25#6)
  | .vfcvt d a g s o p => some (p ++ o ++ s ++ g ++ a ++ d ++ 26#6)
  | .vfscl d a g t => some (0#8 ++ t ++ g ++ a ++ d ++ 27#6)
  | .vcmac d a b c k t => some (t ++ k ++ c ++ b ++ a ++ d ++ 28#6)
  | .vcconj d a k t => some (t ++ k ++ 0#10 ++ a ++ d ++ 29#6)
  | .vdot4 d a b c k t => some (t ++ k ++ c ++ b ++ a ++ d ++ 30#6)
  | .vdot8 d a b c k t => some (t ++ k ++ c ++ b ++ a ++ d ++ 31#6)
  | .vbcast d g w => some (0#7 ++ w ++ g ++ 0#5 ++ d ++ 32#6)
  | .vextr a g l => some (0#3 ++ l ++ g ++ a ++ 33#11)
  | .vins d g l => some (0#3 ++ l ++ g ++ 0#5 ++ d ++ 34#6)
  | .vperm d a b k e => some (e ++ k ++ 0#5 ++ b ++ a ++ d ++ 35#6)
  | .vslide d a i => some (i ++ a ++ d ++ 36#6)
  | .vzip d a b h k e => some (e ++ k ++ 0#4 ++ h ++ b ++ a ++ d ++ 37#6)
  | .vunzip d a b h k e => some (e ++ k ++ 0#4 ++ h ++ b ++ a ++ d ++ 38#6)
  | .vmov d a k e => some (e ++ k ++ 0#10 ++ a ++ d ++ 39#6)
  | .vrsum a g t k => some (0#2 ++ k ++ t ++ 0#2 ++ g ++ a ++ 40#11)
  | .vrmax a g t k => some (0#2 ++ k ++ t ++ 1#2 ++ g ++ a ++ 40#11)
  | .vrmin a g t k => some (0#2 ++ k ++ t ++ 2#2 ++ g ++ a ++ 40#11)
  | .vfrsum a g t k => some (0#2 ++ k ++ t ++ 3#2 ++ g ++ a ++ 40#11)
  | .vexp d a k => some (0#3 ++ k ++ 0#10 ++ a ++ d ++ 41#6)
  | .vlog d a k => some (0#3 ++ k ++ 1#10 ++ a ++ d ++ 41#6)
  | .vrcp d a k => some (0#3 ++ k ++ 2#10 ++ a ++ d ++ 41#6)
  | .vrsq d a k => some (0#3 ++ k ++ 3#10 ++ a ++ d ++ 41#6)
  | .vsigm d a k => some (0#3 ++ k ++ 4#10 ++ a ++ d ++ 41#6)
  | .vtanh d a k => some (0#3 ++ k ++ 5#10 ++ a ++ d ++ 41#6)
  | .vsin d a k => some (0#3 ++ k ++ 6#10 ++ a ++ d ++ 41#6)
  | .vcos d a k => some (0#3 ++ k ++ 7#10 ++ a ++ d ++ 41#6)
  | .mand d a b => some (0#13 ++ b ++ 0#2 ++ a ++ 0#2 ++ d ++ 42#6)
  | .mor d a b => some (4#13 ++ b ++ 0#2 ++ a ++ 0#2 ++ d ++ 42#6)
  | .mxor d a b => some (8#13 ++ b ++ 0#2 ++ a ++ 0#2 ++ d ++ 42#6)
  | .mnot d a => some (384#18 ++ a ++ 0#2 ++ d ++ 42#6)
  | .mpop a g => some (0#10 ++ g ++ 0#2 ++ a ++ 43#11)
  | .mrdr d g t => some (0#5 ++ t ++ 0#2 ++ g ++ 0#5 ++ d ++ 44#6)
  | .mrdc d g t => some (0#5 ++ t ++ 1#2 ++ g ++ 0#5 ++ d ++ 44#6)
  | .mwrr a g t => some (0#5 ++ t ++ 2#2 ++ g ++ a ++ 44#11)
  | .mwrc a g t => some (0#5 ++ t ++ 3#2 ++ g ++ a ++ 44#11)
  | _ => none

/-- Why a bundle is not a pair of instructions (R51 steps 1 to 4; all take ILLOP). -/
inductive DecodeError where
  /-- Step 1: unassigned major or selector of the S slot. -/
  | sUnassigned
  /-- Step 2: a nonzero reserved field or an excluded value in the S slot. -/
  | sReserved
  /-- Step 3: step 1 or 2 fails in the V slot. -/
  | vSlot
  /-- Step 4: PFX without flags, or beside a V-slot instruction. -/
  | prefixForm
  /-- Fewer than the 8 bytes of a bundle (R39). -/
  | short
deriving DecidableEq, Repr

/-- The checked instruction of a candidate: the word must be its encoding and its fields assigned. -/
def checked (w : BitVec 32) (c : Option Instr) : Option Instr :=
  match c with
  | some i => if encode i = some w ∧ i.wf = true then some i else none
  | none => none

/-- The S-slot instruction of a word (R51 steps 1 and 2). -/
def decodeS (w : BitVec 32) : Option Instr := checked w (candS w)

/-- The V-slot instruction of a word (R51 step 3). -/
def decodeV (w : BitVec 32) : Option Instr := checked w (candV w)

/-- The instructions of the V slot (R49). -/
def Instr.vSlot : Instr → Bool
  | .vclaim _ => true
  | .vadd _ _ _ _ _ => true
  | .vsub _ _ _ _ _ => true
  | .vmul _ _ _ _ _ => true
  | .vmulh _ _ _ _ _ => true
  | .vmac _ _ _ _ _ _ => true
  | .vand _ _ _ _ _ => true
  | .vor _ _ _ _ _ => true
  | .vxor _ _ _ _ _ => true
  | .vshl _ _ _ _ _ => true
  | .vshr _ _ _ _ _ => true
  | .vsar _ _ _ _ _ => true
  | .vmin _ _ _ _ _ => true
  | .vmax _ _ _ _ _ => true
  | .vabs _ _ _ _ => true
  | .vcmp _ _ _ _ _ _ => true
  | .vsel _ _ _ _ => true
  | .vfadd _ _ _ _ _ => true
  | .vfsub _ _ _ _ _ => true
  | .vfmul _ _ _ _ _ => true
  | .vfma _ _ _ _ _ _ => true
  | .vfmin _ _ _ _ _ => true
  | .vfmax _ _ _ _ _ => true
  | .vfcmp _ _ _ _ _ => true
  | .vfsgn _ _ _ _ _ _ => true
  | .vfcvt _ _ _ _ _ _ => true
  | .vfscl _ _ _ _ => true
  | .vcmac _ _ _ _ _ _ => true
  | .vcconj _ _ _ _ => true
  | .vdot4 _ _ _ _ _ _ => true
  | .vdot8 _ _ _ _ _ _ => true
  | .vbcast _ _ _ => true
  | .vextr _ _ _ => true
  | .vins _ _ _ => true
  | .vperm _ _ _ _ _ => true
  | .vslide _ _ _ => true
  | .vzip _ _ _ _ _ _ => true
  | .vunzip _ _ _ _ _ _ => true
  | .vmov _ _ _ _ => true
  | .vrsum _ _ _ _ => true
  | .vrmax _ _ _ _ => true
  | .vrmin _ _ _ _ => true
  | .vfrsum _ _ _ _ => true
  | .vexp _ _ _ => true
  | .vlog _ _ _ => true
  | .vrcp _ _ _ => true
  | .vrsq _ _ _ => true
  | .vsigm _ _ _ => true
  | .vtanh _ _ _ => true
  | .vsin _ _ _ => true
  | .vcos _ _ _ => true
  | .mand _ _ _ => true
  | .mor _ _ _ => true
  | .mxor _ _ _ => true
  | .mnot _ _ => true
  | .mpop _ _ => true
  | .mrdr _ _ _ => true
  | .mrdc _ _ _ => true
  | .mwrr _ _ _ => true
  | .mwrc _ _ _ => true
  | .vnop => true
  | .vrel => true
  | _ => false

/-- Whether the S-slot word is a prefix (R53). -/
def isPfx : Instr → Bool
  | .pfx _ => true
  | _ => false

/-- Decodes a bundle: the S slot is bits 31:0, the V slot bits 63:32 (R39, R51 steps 1 to 4). -/
def decodeBundle (b : BitVec 64) : Except DecodeError (Instr × Instr) :=
  match candS (b.extractLsb' 0 32), decodeS (b.extractLsb' 0 32), decodeV (b.extractLsb' 32 32) with
  | none, _, _ => .error .sUnassigned
  | _, none, _ => .error .sReserved
  | _, _, none => .error .vSlot
  | _, some i, some v => if isPfx i ∧ v ≠ .vnop then .error .prefixForm else .ok (i, v)

/-- The bundle of a pair of slot words (R39). -/
def bundleOf (s v : BitVec 32) : BitVec 64 := v ++ s

/-- Little-endian value of bytes (R5, R39). -/
def leNat : List Byte → Nat
  | [] => 0
  | b :: bs => b.toNat + 256 * leNat bs

/-- The `n` bytes of a value, lowest first (R5, R39). -/
def leBytes : Nat → Nat → List Byte
  | 0, _ => []
  | n + 1, x => BitVec.ofNat 8 x :: leBytes n (x / 256)

/-- Decodes the bundle at the front of a byte list, giving the rest (R39). -/
def decodeBytes (bs : List Byte) : Except DecodeError ((Instr × Instr) × List Byte) :=
  if bs.length < 8 then .error .short
  else match decodeBundle (BitVec.ofNat 64 (leNat (bs.take 8))) with
    | .ok p => .ok (p, bs.drop 8)
    | .error e => .error e

/-- The bundle that holds one 32-bit word as an instruction: as an S-slot word beside VNOP where it is one, else as a V-slot
word beside SNOP (R26, R39; assumption log 6). -/
def wordBundle (w : BitVec 32) : BitVec 64 :=
  if (decodeS w).isSome then bundleOf w 0#32 else bundleOf 63#32 w

/-- The instruction the decoder reads from a table word of `nbits` bits (assumption log 6): the bundle is laid out as the bytes
of memory and given to `decodeBytes`. -/
def decodeTableWord (nbits w : Nat) : Option Instr :=
  if nbits = 0 then none
  else
    match decodeBytes (leBytes 8 (wordBundle (BitVec.ofNat 32 (w % 2 ^ nbits))).toNat) with
    | .ok ((s, v), _) => if (decodeS (BitVec.ofNat 32 (w % 2 ^ nbits))).isSome then some s else some v
    | .error _ => none

end Sys2Proof
end

