-- ==== Sys2Proof/Machine/Num.lean ====
section
/-!
DEFINITION. Machine/Num.lean: the exact numbers and the number formats of spec 10_number_formats (R166 to R181):
decoding of float codes, `round_fp`, integer conversion, MX blocks.
-/
namespace Sys2Proof.Machine
open Sys2Proof

/-- The float and rational flags an operation raises (R67, R182, R223). -/
structure Flags where
  nv : Bool := false
  dz : Bool := false
  of : Bool := false
  uf : Bool := false
  nx : Bool := false
  qinv : Bool := false
  qdz : Bool := false
  qovf : Bool := false
  qinx : Bool := false
deriving DecidableEq, Repr

/-- The OR of two flag sets (R182, R184). -/
def Flags.or (a b : Flags) : Flags :=
  ⟨a.nv || b.nv, a.dz || b.dz, a.of || b.of, a.uf || b.uf, a.nx || b.nx,
   a.qinv || b.qinv, a.qdz || b.qdz, a.qovf || b.qovf, a.qinx || b.qinx⟩

/-- No flag. -/
def noFlags : Flags := {}
/-- Only NV. -/
def flagNV : Flags := { nv := true }

/-- Rounding mode: RNE 0, RTZ 1, RDN 2, RUP 3, RNA 4 (R67, R174). -/
abbrev Rm := Nat

/-- A binary float format (R166). `kind` 0: infinities and NaNs as IEEE 754; 1: E4M3 (no infinity, NaN at all ones);
2: E2M1 (neither). `sat`: conversions and overflow give ±max in every mode (R174). -/
structure FpFmt where
  width : Nat
  expBits : Nat
  fracBits : Nat
  bias : Nat
  kind : Nat
  sat : Bool
deriving DecidableEq, Repr

def fp64 : FpFmt := ⟨64, 11, 52, 1023, 0, false⟩
def fp32 : FpFmt := ⟨32, 8, 23, 127, 0, false⟩
def fp16 : FpFmt := ⟨16, 5, 10, 15, 0, false⟩
def bf16 : FpFmt := ⟨16, 8, 7, 127, 0, false⟩
def e5m2 : FpFmt := ⟨8, 5, 2, 15, 0, true⟩
def e4m3 : FpFmt := ⟨8, 4, 3, 7, 1, true⟩
def e2m1 : FpFmt := ⟨4, 2, 1, 1, 2, true⟩

/-- Code of the largest finite magnitude (R166). -/
def FpFmt.maxCode (f : FpFmt) : Nat :=
  if f.kind = 0 then (2 ^ f.expBits - 1) * 2 ^ f.fracBits - 1
  else if f.kind = 1 then 2 ^ (f.width - 1) - 2
  else 2 ^ (f.width - 1) - 1

/-- Code of +∞ (formats of kind 0, R166). -/
def FpFmt.infCode (f : FpFmt) : Nat := (2 ^ f.expBits - 1) * 2 ^ f.fracBits

/-- The canonical NaN (R179); a format without NaN gives 0 (R178). -/
def FpFmt.nanCode (f : FpFmt) : Nat :=
  if f.kind = 0 then f.infCode + 2 ^ (f.fracBits - 1)
  else if f.kind = 1 then 2 ^ (f.width - 1) - 1
  else 0

/-- Puts the sign bit on a magnitude code. -/
def FpFmt.withSign (f : FpFmt) (s : Bool) (mag : Nat) : Nat := b2n s * 2 ^ (f.width - 1) + mag

/-- A value of the extended reals: an infinity or the exact rational `±num/den`; zero keeps its sign (R167, R176). -/
inductive Xr where
  | inf (neg : Bool)
  | fin (neg : Bool) (num den : Nat)
deriving DecidableEq, Repr

/-- What a float code stands for: a NaN with its sign and fraction bits (left-aligned quiet bit first), or a value (R167, R168). -/
inductive FpVal where
  | nan (neg : Bool) (frac : Nat) (fracBits : Nat) (sig : Bool)
  | num (x : Xr)
deriving DecidableEq, Repr

/-- The exact rational `m · 2^(e - off)` as numerator and denominator. -/
def scaled (neg : Bool) (m e off : Nat) : Xr :=
  if off ≤ e then .fin neg (m * 2 ^ (e - off)) 1 else .fin neg m (2 ^ (off - e))

/-- The value of a float code (R166, R167, R168). -/
def FpFmt.decode (f : FpFmt) (code : Nat) : FpVal :=
  let neg := bitAt code (f.width - 1)
  let e := bits code (f.width - 2) f.fracBits
  let fr := code % 2 ^ f.fracBits
  let top := 2 ^ f.expBits - 1
  if f.kind = 0 ∧ e = top then
    if fr = 0 then .num (.inf neg)
    else if f = e5m2 then .nan neg fr 2 (fr != 2)
    else .nan neg fr f.fracBits (!(bitAt fr (f.fracBits - 1)))
  else if f.kind = 1 ∧ e = top ∧ fr = 2 ^ f.fracBits - 1 then .nan neg fr f.fracBits false
  else if e = 0 then .num (scaled neg fr 1 (f.bias + f.fracBits))
  else .num (scaled neg (2 ^ f.fracBits + fr) e (f.bias + f.fracBits))

/-- The code read with every subnormal as zero of the same sign (FTZ inputs, R175). -/
def FpFmt.flushIn (f : FpFmt) (ftz : Bool) (code : Nat) : Nat :=
  if ftz ∧ bits code (f.width - 2) f.fracBits = 0 then b2n (bitAt code (f.width - 1)) * 2 ^ (f.width - 1) else code

/-- A NaN written in format `f`, quieted, keeping its sign and the high bits of its fraction (R168, R171, R178).
E4M3 and E5M2 take their canonical NaN from another format; E2M1 takes 0. `same`: the NaN is of format `f` itself. -/
def FpFmt.nanInto (f : FpFmt) (same : Bool) (neg : Bool) (frac fracBits : Nat) : Nat :=
  if f.kind = 2 then 0
  else if f.kind = 1 then (if same then f.withSign neg f.nanCode else f.nanCode)
  else if f = e5m2 then (if same then f.withSign neg 0x7E else f.nanCode)
  else
    let fr := if fracBits ≤ f.fracBits then frac * 2 ^ (f.fracBits - fracBits) else frac / 2 ^ (fracBits - f.fracBits)
    let q := 2 ^ (f.fracBits - 1)
    f.withSign neg (f.infCode + (if bitAt fr (f.fracBits - 1) then fr else fr + q))

/-- Number of bits without leading zeros (R36). -/
def bitlen (x : Nat) : Nat := if x = 0 then 0 else Nat.log2 x + 1

/-- `floor (log2 (num / den))` for a positive rational. -/
def floorLog2 (num den : Nat) : Int :=
  let e : Int := (bitlen num : Int) - (bitlen den : Int)
  let big := if 0 ≤ e then den * 2 ^ e.toNat ≤ num else den ≤ num * 2 ^ (-e).toNat
  if big then e else e - 1

/-- Whether rounding mode `rm` moves the truncated magnitude up: `odd` is its lowest bit, `r` the remainder over `d`,
`sticky` an infinitesimal excess (R174). -/
def roundsUp (rm : Rm) (neg odd : Bool) (r d : Nat) (sticky : Bool) : Bool :=
  let inexact := r != 0 || sticky
  let gt := d < 2 * r || (2 * r == d && sticky)
  let tie := 2 * r == d && !sticky
  match rm with
  | 0 => gt || (tie && odd)
  | 1 => false
  | 2 => neg && inexact
  | 3 => !neg && inexact
  | _ => gt || tie

/-- A magnitude rounded to a multiple of `2^qe`: the multiple and whether the result is inexact (R174 step 1). -/
def roundStep (rm : Rm) (neg : Bool) (num den : Nat) (sticky : Bool) (qe : Int) : Nat × Bool :=
  let n := if qe < 0 then num * 2 ^ (-qe).toNat else num
  let d := if qe < 0 then den else den * 2 ^ qe.toNat
  let q := n / d
  let r := n % d
  (if roundsUp rm neg (q % 2 == 1) r d sticky then q + 1 else q, r != 0 || sticky)

/-- A finite value rounded into format `f` (R174, R175, R176). `sticky` says the value exceeds `num/den` in magnitude by an
infinitesimal. `ftz` replaces a tiny result by zero with UF and NX. -/
def FpFmt.roundFin (f : FpFmt) (rm : Rm) (ftz : Bool) (neg : Bool) (num den : Nat) (sticky : Bool) : Nat × Flags :=
  if num = 0 ∧ !sticky then (f.withSign neg 0, noFlags)
  else
    let emin : Int := 1 - (f.bias : Int)
    let e := if num = 0 then emin else floorLog2 num den
    let qe := (if e < emin then emin else e) - (f.fracBits : Int)
    let (q, inexact) := roundStep rm neg num den sticky qe
    let code := if q < 2 ^ f.fracBits then q
      else ((qe + f.fracBits + f.bias).toNat) * 2 ^ f.fracBits + q - 2 ^ f.fracBits
    let tiny := q < 2 ^ f.fracBits
    if tiny ∧ ftz then (f.withSign neg 0, { uf := true, nx := true })
    else if f.maxCode < code then
      let toMax := f.sat || rm == 1 || (rm == 2 && !neg) || (rm == 3 && neg)
      (f.withSign neg (if toMax then f.maxCode else f.infCode), { of := true, nx := true })
    else (f.withSign neg code, { uf := tiny && inexact, nx := inexact })

/-- `round_fp` of an extended real into format `f` (R36, R174, R178: ±∞ into a format without infinity saturates with NV). -/
def FpFmt.round (f : FpFmt) (rm : Rm) (ftz : Bool) (x : Xr) : Nat × Flags :=
  match x with
  | .inf neg => if f.kind = 0 then (f.withSign neg f.infCode, noFlags) else (f.withSign neg f.maxCode, flagNV)
  | .fin neg n d => f.roundFin rm ftz neg n d false

/-- Negation of an extended real. -/
def Xr.neg : Xr → Xr
  | .inf s => .inf (!s)
  | .fin s n d => .fin (!s) n d

def Xr.isNeg : Xr → Bool
  | .inf s => s
  | .fin s _ _ => s

def Xr.isZero : Xr → Bool
  | .inf _ => false
  | .fin _ n _ => n == 0

/-- The exact sum; `none` is ∞ − ∞ (R176, R178). -/
def Xr.add (rm : Rm) (x y : Xr) : Option Xr :=
  match x, y with
  | .inf a, .inf b => if a = b then some (.inf a) else none
  | .inf a, _ => some (.inf a)
  | _, .inf b => some (.inf b)
  | .fin a n d, .fin b m e =>
    let p := n * e
    let q := m * d
    if a = b then some (.fin a (p + q) (d * e))
    else if p = q then some (.fin (rm == 2) 0 1)
    else if q < p then some (.fin a (p - q) (d * e)) else some (.fin b (q - p) (d * e))

/-- The exact product; `none` is 0 × ∞ (R176, R178). -/
def Xr.mul (x y : Xr) : Option Xr :=
  let s := x.isNeg != y.isNeg
  match x, y with
  | .fin _ n d, .fin _ m e => some (.fin s (n * m) (d * e))
  | _, _ => if x.isZero || y.isZero then none else some (.inf s)

/-- The exact quotient and whether it divides a finite nonzero value by zero; `none` is 0 ÷ 0 or ∞ ÷ ∞ (R178, R182). -/
def Xr.div (x y : Xr) : Option (Xr × Bool) :=
  let s := x.isNeg != y.isNeg
  match x, y with
  | .inf _, .inf _ => none
  | .inf _, _ => some (.inf s, false)
  | .fin .., .inf _ => some (.fin s 0 1, false)
  | .fin _ n d, .fin _ m e =>
    if m = 0 then (if n = 0 then none else some (.inf s, true)) else some (.fin s (n * e) (d * m), false)

/-- `x · 2^k`, exact. -/
def Xr.scale (x : Xr) (k : Int) : Xr :=
  match x with
  | .inf s => .inf s
  | .fin s n d => if 0 ≤ k then .fin s (n * 2 ^ k.toNat) d else .fin s n (d * 2 ^ (-k).toNat)

/-- Mathematical comparison of extended reals, −0 equal to +0: `x < y`. -/
def Xr.lt (x y : Xr) : Bool :=
  match x, y with
  | .inf a, .inf b => a && !b
  | .inf a, .fin .. => a
  | .fin .., .inf b => !b
  | .fin a n d, .fin b m e =>
    let p : Int := if a then -((n * e : Nat) : Int) else ((n * e : Nat) : Int)
    let q : Int := if b then -((m * d : Nat) : Int) else ((m * d : Nat) : Int)
    p < q

/-- Mathematical equality of extended reals (−0 equals +0). -/
def Xr.eqv (x y : Xr) : Bool := !(x.lt y) && !(y.lt x)

/-- The extended real of an integer. -/
def Xr.ofInt (z : Int) : Xr := .fin (z < 0) z.natAbs 1

/-- Integer square root by bits, from the bit `2^k` down. -/
def isqrtLoop : Nat → Nat → Nat → Nat
  | 0, r, _ => r
  | k + 1, r, n => let c := r + 2 ^ k; if c * c ≤ n then isqrtLoop k c n else isqrtLoop k r n

/-- Floor of the square root. -/
def isqrt (n : Nat) : Nat := isqrtLoop (bitlen n / 2 + 1) 0 n

/-- A value rounded to an integer under `rm`: the integer and whether rounding changed it (R177). -/
def roundToInt (rm : Rm) (neg : Bool) (num den : Nat) : Int × Bool :=
  let (q, inexact) := roundStep rm neg num den false 0
  (if neg then -(q : Int) else (q : Int), inexact)

/-- Float value to an integer format with range `lo` to `hi` (R177). -/
def toIntRange (rm : Rm) (lo hi : Int) (v : FpVal) : Int × Flags :=
  match v with
  | .nan .. => (0, flagNV)
  | .num (.inf neg) => (if neg then lo else hi, flagNV)
  | .num (.fin neg n d) =>
    let (z, inexact) := roundToInt rm neg n d
    if z < lo then (lo, flagNV) else if hi < z then (hi, flagNV) else (z, { nx := inexact })

/-- `sat` of R36. -/
def satInt (x lo hi : Int) : Int := if x < lo then lo else if hi < x then hi else x

/-- The value of the low `w` bits read as two's complement (R36 `sext`, `signed`). -/
def sgn (w x : Nat) : Int := if bitAt (x % 2 ^ w) (w - 1) then ((x % 2 ^ w : Nat) : Int) - (2 ^ w : Nat) else ((x % 2 ^ w : Nat) : Int)

/-- An integer kept modulo `2^w` (R35). -/
def wrapN (w : Nat) (z : Int) : Nat := (z % ((2 ^ w : Nat) : Int)).toNat

/-- Range of a signed `w`-bit integer. -/
def sMin (w : Nat) : Int := -((2 ^ (w - 1) : Nat) : Int)
def sMax (w : Nat) : Int := ((2 ^ (w - 1) : Nat) : Int) - 1

/-- Whether a value is a signalling NaN, whose use raises NV (R178). -/
def FpVal.isSig : FpVal → Bool
  | .nan _ _ _ s => s
  | .num _ => false

def FpVal.isNan : FpVal → Bool
  | .nan .. => true
  | .num _ => false

/-- The first NaN of the operands, quieted into format `f`, if there is one; NV for any signalling one (R178). -/
def FpFmt.nanRule (f : FpFmt) : List FpVal → Option (Nat × Flags)
  | vs =>
    match vs.find? FpVal.isNan with
    | some (.nan s fr fb _) => some (f.nanInto true s fr fb, { nv := vs.any FpVal.isSig })
    | _ => none

/-- The canonical NaN with NV, for an invalid operation (R178, R179). -/
def FpFmt.invalid (f : FpFmt) : Nat × Flags := (f.nanCode, flagNV)

/-- The result of an exact computation: rounded, or the invalid operation's NaN. -/
def FpFmt.deliver (f : FpFmt) (rm : Rm) (ftz : Bool) : Option Xr → Nat × Flags
  | some x => f.round rm ftz x
  | none => f.invalid

/-- The extended real of a value that is not a NaN (a NaN gives 0 here and is caught before). -/
def FpVal.xr : FpVal → Xr
  | .num x => x
  | .nan .. => .fin false 0 1

/-- `round (a + b)` (R202, R226). -/
def FpFmt.add (f : FpFmt) (rm : Rm) (ftz : Bool) (a b : Nat) : Nat × Flags :=
  let x := f.decode (f.flushIn ftz a)
  let y := f.decode (f.flushIn ftz b)
  (f.nanRule [x, y]).getD (f.deliver rm ftz (x.xr.add rm y.xr))

/-- The code with its sign bit inverted. -/
def FpFmt.negCode (f : FpFmt) (a : Nat) : Nat := f.withSign (!(bitAt a (f.width - 1))) (a % 2 ^ (f.width - 1))

/-- `round (a - b)`: a NaN operand passes unchanged in sign (R178). -/
def FpFmt.sub (f : FpFmt) (rm : Rm) (ftz : Bool) (a b : Nat) : Nat × Flags :=
  let x := f.decode (f.flushIn ftz a)
  let y := f.decode (f.flushIn ftz b)
  (f.nanRule [x, y]).getD (f.deliver rm ftz (x.xr.add rm y.xr.neg))

/-- `round (a × b)` (R202, R226). -/
def FpFmt.mul (f : FpFmt) (rm : Rm) (ftz : Bool) (a b : Nat) : Nat × Flags :=
  let x := f.decode (f.flushIn ftz a)
  let y := f.decode (f.flushIn ftz b)
  (f.nanRule [x, y]).getD (f.deliver rm ftz (x.xr.mul y.xr))

/-- `round (±(a × b) ± c)` with one rounding (R202, R226); NaNs in the order multiplicands, addend (R178). -/
def FpFmt.fma (f : FpFmt) (rm : Rm) (ftz negP negC : Bool) (a b c : Nat) : Nat × Flags :=
  let x := f.decode (f.flushIn ftz a)
  let y := f.decode (f.flushIn ftz b)
  let z := f.decode (f.flushIn ftz c)
  (f.nanRule [x, y, z]).getD
    (match x.xr.mul y.xr with
     | none => f.invalid
     | some p => f.deliver rm ftz ((if negP then p.neg else p).add rm (if negC then z.xr.neg else z.xr)))

/-- `round (a ÷ b)` with DZ (R178, R182). -/
def FpFmt.div (f : FpFmt) (rm : Rm) (a b : Nat) : Nat × Flags :=
  let x := f.decode a
  let y := f.decode b
  (f.nanRule [x, y]).getD
    (match x.xr.div y.xr with
     | none => f.invalid
     | some (q, dz) => let (c, fl) := f.round rm false q; (c, fl.or { dz := dz }))

/-- `round (√a)`; √−0 = −0 (R178, R227). The root is taken to `fracBits + 8` or more bits below its leading bit. -/
def FpFmt.sqrt (f : FpFmt) (rm : Rm) (a : Nat) : Nat × Flags :=
  let x := f.decode a
  (f.nanRule [x]).getD
    (match x.xr with
     | .inf neg => if neg then f.invalid else (f.infCode, noFlags)
     | .fin neg n d =>
       if n = 0 then (f.withSign neg 0, noFlags)
       else if neg then f.invalid
       else
         let k := f.bias + 2 * f.fracBits + 16
         let m := n * 2 ^ (2 * k) / d
         let r := isqrt m
         f.roundFin rm false false r (2 ^ k) (!(r * r == m && n * 2 ^ (2 * k) % d == 0)))

/-- Minimum (`max = false`) or maximum by the minimumNumber rule (R107, R181). `same` order decides equal operands. -/
def FpFmt.minMax (f : FpFmt) (isMax : Bool) (a b : Nat) : Nat × Flags :=
  let x := f.decode a
  let y := f.decode b
  let fl : Flags := { nv := x.isSig || y.isSig }
  match x, y with
  | .nan s fr fb _, .nan .. => (f.nanInto true s fr fb, fl)
  | .nan .., _ => (b, fl)
  | _, .nan .. => (a, fl)
  | .num p, .num q =>
    let less := p.lt q || (p.eqv q && p.isNeg && !q.isNeg)
    (if less != isMax then a else if p.eqv q && p.isNeg == q.isNeg then a else b, fl)

/-- Comparison EQ 0, NE 1, LT 2, LE 3, GT 4, GE 5, UN 6, OR 7 (R202). -/
def FpFmt.compare (f : FpFmt) (cond : Nat) (a b : Nat) : Bool × Flags :=
  let x := f.decode a
  let y := f.decode b
  if x.isNan || y.isNan then
    (cond == 1 || cond == 6, { nv := x.isSig || y.isSig || (2 ≤ cond && cond ≤ 5) })
  else
    let lt := x.xr.lt y.xr
    let gt := y.xr.lt x.xr
    (match cond with
     | 0 => !lt && !gt
     | 1 => lt || gt
     | 2 => lt
     | 3 => !gt
     | 4 => gt
     | 5 => !lt
     | 6 => false
     | _ => true, noFlags)

/-- Sign replacement: `.cp` 0, `.cn` 1, `.cx` 2 (R202 VFSGN, R227). -/
def FpFmt.signOp (f : FpFmt) (k a b : Nat) : Nat :=
  let sa := bitAt a (f.width - 1)
  let sb := bitAt b (f.width - 1)
  f.withSign (match k with | 0 => sb | 1 => !sb | _ => sa != sb) (a % 2 ^ (f.width - 1))

/-- FCLASS of a float code (R227). -/
def FpFmt.classOf (f : FpFmt) (a : Nat) : Nat :=
  match f.decode a with
  | .nan _ _ _ s => if s then 2 ^ 8 else 2 ^ 9
  | .num (.inf neg) => if neg then 1 else 2 ^ 7
  | .num (.fin neg n _) =>
    if n = 0 then (if neg then 2 ^ 3 else 2 ^ 4)
    else if bits a (f.width - 2) f.fracBits = 0 then (if neg then 2 ^ 2 else 2 ^ 5)
    else (if neg then 2 else 2 ^ 6)

/-- Conversion of a value into another float format (R178, R204). `wasNan` data come from the source format. -/
def FpFmt.convert (f : FpFmt) (rm : Rm) (ftz : Bool) (v : FpVal) : Nat × Flags :=
  match v with
  | .nan s fr fb sig =>
    (f.nanInto false s fr fb, { nv := sig || f.kind == 2 })
  | .num x => f.round rm ftz x

/-- Element kinds of MX blocks and packed registers. -/
inductive ElFmt where
  | float (f : FpFmt)
  | int (w : Nat)
  | mxint8
deriving DecidableEq, Repr

/-- Width of an element. -/
def ElFmt.width : ElFmt → Nat
  | .float f => f.width
  | .int w => w
  | .mxint8 => 8

/-- The value of an element code without its block scale (R167, R169, R171). -/
def ElFmt.decode : ElFmt → Nat → FpVal
  | .float f, c => f.decode c
  | .int w, c => .num (Xr.ofInt (sgn w c))
  | .mxint8, c => .num ((Xr.ofInt (sgn 8 c)).scale (-6))

/-- The quiet NaN without payload of a block whose scale is 0xFF (R171). -/
def scaleNan : FpVal := .nan false 0 0 false

/-- The value of an element under the block scale `s` (R171). -/
def ElFmt.decodeScaled (e : ElFmt) (s c : Nat) : FpVal :=
  if s = 255 then scaleNan
  else match e.decode c with
    | .num x => .num (x.scale ((s : Int) - 127))
    | v => v

/-- `emax` of the scale choice (R173). -/
def ElFmt.emax : ElFmt → Int
  | .float f => if f = e4m3 then 8 else if f = e5m2 then 15 else if f = e2m1 then 2 else 0
  | _ => 0

/-- Rounding of a value into an element format, saturating (R173 step 4, R174, R177). MXINT8 saturates to ±127: with OF and NX for a
finite value (R174), with NV alone for an infinity, which R178 says of E4M3 and E2M1 and the model reads for MXINT8 too (log 27). -/
def ElFmt.roundSat (e : ElFmt) (rm : Rm) (x : Xr) : Nat × Flags :=
  match e with
  | .float f => f.round rm false x
  | .int w =>
    let (z, fl) := toIntRange rm (sMin w) (sMax w) (.num x)
    (wrapN w z, fl)
  | .mxint8 =>
    match x with
    | .inf neg => (wrapN 8 (if neg then -127 else 127), flagNV)
    | .fin neg n d =>
      let (z, inexact) := roundToInt rm neg (n * 64) d
      if z < -127 then (wrapN 8 (-127), { of := true, nx := true })
      else if 127 < z then (127, { of := true, nx := true })
      else (wrapN 8 z, { nx := inexact })

/-- A magnitude comparison used to find the largest value of a block. -/
def Xr.absLt (x y : Xr) : Bool :=
  match x, y with
  | .fin _ n d, .fin _ m e => n * e < m * d
  | _, _ => false

/-- Conversion of up to 32 values into an MX block: the scale, the codes, the flags (R173). -/
def mxBlock (e : ElFmt) (vs : List FpVal) : Nat × List Nat × Flags :=
  if vs.any (fun v => match v with | .nan .. => true | .num (.inf _) => true | _ => false) then
    (255, vs.map (fun _ => 0), { nv := vs.any (fun v => match v with | .nan _ _ _ s => s | .num (.inf _) => true | _ => false) })
  else if vs.all (fun v => v.xr.isZero) then
    (127, vs.map (fun v => match e with | .float f => f.withSign v.xr.isNeg 0 | _ => 0), noFlags)
  else
    let m := vs.foldl (fun (a : Xr) v => if a.absLt v.xr then v.xr else a) (.fin false 0 1)
    let lg := match m with | .fin _ n d => floorLog2 n d | .inf _ => 0
    let x := satInt (lg - e.emax) (-127) 127
    let rs := vs.map (fun v => e.roundSat 0 (v.xr.scale (-x)))
    ((x + 127).toNat, rs.map (·.1), rs.foldl (fun a r => a.or r.2) noFlags)

end Sys2Proof.Machine
end

