-- ==== Sys2Proof/Machine/State.lean ====
section
/-!
DEFINITION. Machine/State.lean: everything the spec gives the machine to hold, as plain data, and the state after device reset.
Parts of one kind are association lists keyed by their names; an absent key stands for the part at its reset value.
-/
namespace Sys2Proof.Machine
open Sys2Proof

/-! ### Association lists -/

/-- A finite table: the first entry of a key counts. -/
abbrev Tab (κ α : Type) := List (κ × α)

namespace Tab
variable {κ α : Type} [DecidableEq κ]
def get? : Tab κ α → κ → Option α
  | [], _ => none
  | (k', v) :: t, k => if k' = k then some v else get? t k
def getD (t : Tab κ α) (k : κ) (d : α) : α := (get? t k).getD d
def set : Tab κ α → κ → α → Tab κ α
  | [], k, v => [(k, v)]
  | (k', v') :: t, k, v => if k' = k then (k, v) :: t else (k', v') :: set t k v
def del : Tab κ α → κ → Tab κ α
  | [], _ => []
  | (k', v') :: t, k => if k' = k then del t k else (k', v') :: del t k
/-- Applies `f` to the entry of `k`, if there is one. -/
def upd : Tab κ α → κ → (α → α) → Tab κ α
  | [], _, _ => []
  | (k', v') :: t, k, f => if k' = k then (k', f v') :: t else (k', v') :: upd t k f
/-- Applies `f` to the entry of `k`, or to `d`. -/
def updD (t : Tab κ α) (k : κ) (d : α) (f : α → α) : Tab κ α := set t k (f (getD t k d))
end Tab

/-! ### Threads (04 R60 to R68) -/

/-- Claim state of a thread with its remembered request (R188). -/
inductive Claim where
  | none
  | held (q : Nat)
  | pending (q : Nat)
deriving DecidableEq, Repr

/-- What a memory access does at the word's point of coherence (R99, R101, R103, R105 to R107, R109). -/
inductive AccOp where
  | load (size : Nat) (signed : Bool)
  | store (size : Nat)
  | lds | ldc | stf | feset | feclr | fetst
  | amo (op size : Nat) (comb : Bool)
  | cas (size : Nat)
  | famo (op : Nat) (dbl : Bool)
  | lock | unlk
deriving DecidableEq, Repr

/-- One access: its number, who, what, virtual and global address, operands `a` (data) and `b` (compared value), destination register
(0: none). -/
structure Access where
  id : Nat
  tid : Nat
  op : AccOp
  va : Nat
  pa : Nat
  a : Word
  b : Word
  d : Nat
  tent : Bool
  fePage : Bool
deriving DecidableEq, Repr

/-- The one condition a parked thread waits for (R61). Those marked retry leave the PC at the bundle, which is issued again. -/
inductive Wait where
  | reg (r : Nat)                      -- empty source register; retry
  | queueFull (r : Nat)                -- full queue register; retry
  | word                               -- LDS or LDC of an empty word (State.feWaiters)
  | lock                               -- LOCK held by another crew (State.lockWaiters)
  | reply (d : Nat) (v : Word)         -- ordinary access performed, its reply on the way
  | remote (req : Nat)                 -- round trip through Span or CXL
  | late (r : Nat) (v : Word)          -- a result waits for room in the queue register it is written to
  | sfu
  | matrix (entry : Nat)               -- MLDA or MMA
  | mslot                              -- MSLOT.W
  | job (d id : Nat) (tl : TileRef)    -- CPW of a job of a tile
  | fence (flags : Nat)
  | ifence
  | postH                              -- PFX.H before its access; retry
  | drain                              -- retry
  | ninth                              -- retry
  | answer                             -- TSEAL, LAUNCH, JOPEN, JBIND, JARR, JCLOSE, JQRY, EXIT of a member, COPEN
  | joinWait (d : Nat) (j : JoinRef) (set : Bool)
  | lwait (d id : Nat)
  | tnext (d : Nat) (q : TaskQueueRef)
  | tpost (d : Nat) (q : TaskQueueRef) (packet : List Word)
  | cwait (d k : Nat)
  | cclose (d k : Nat)
  | send (msg : Nat)
  | drop                               -- translation or handle copies being dropped (R156, R243)
  | copyQueue                          -- CPY without an entry; retry
  | lazySave (t d cfg : Nat)           -- MCFG
  | migSlot                            -- MIG without a free slot; retry
  | extmigSlot                         -- EXTMIG without a free slot; retry
  | jobsDone                           -- a move that waits for the copy jobs; retry
  | walk (va kind : Nat)               -- TLB miss (R156); retry
  | handle (h : Word)                  -- handle-cache miss (R243); retry
deriving DecidableEq, Repr

/-- Slot state of a thread's context (R60); what a parked, swapped or halted thread waits for is Thread.wait. `waking`: the
condition is met and the thread has not yet re-entered the rotation (R61). -/
inductive Status where
  | ready
  | parked
  | waking
  | entry
  | swapOut
  | swapIn
  | halted
deriving DecidableEq, Repr

/-- Where a context is: in a slot, in the context cache of its tile's partition memory, or in a migration packet. -/
inductive Place where
  | slot (p : Pos)
  | image (home : TileRef) (area : Nat)
  | flight (source dest : Pos)
deriving DecidableEq, Repr

/-- A bound stream register: queue entry and seq of its job, arrived elements, and whether the job has delivered its last (R250, R251). -/
structure StreamBind where
  entry : Nat
  seq : Nat
  fifo : List Word
  ended : Bool
deriving DecidableEq, Repr

/-- A bound group register: group, rounds contributed to, results completed and not yet read, oldest first (R362). -/
structure GroupBind where
  group : Nat
  sent : Nat
  got : Nat
  results : List Word
deriving DecidableEq, Repr

/-- A bound queue register: hardware queue and global ID of the producer crew (R129). -/
structure QueueBind where
  queue : Nat
  producer : Option Nat
deriving DecidableEq, Repr

/-- State of a kill aimed at a thread (R310): none; on its way from a package to a tile, after so many forwards (R359); on its way back from
a package to its unit; or delivered and not yet taken. -/
inductive Kill where
  | none
  | sent (from_ : Nat) (at_ : TileRef) (hops : Nat)
  | back (from_ : Nat)
  | held
deriving DecidableEq, Repr

/-- An access that has lost its reply keeps its address until the thread takes RLOST (R351): a relaxed one, with its register, or with 64
for its register the request of the bundle at which the thread stands. -/
structure LostAccess where
  d : Nat
  va : Nat
  kind : Nat
deriving DecidableEq, Repr

/-- What is left of a pass of a vector access that other threads' accesses fall into (R199; log 41): the element size, the data of a
store, the elements still to be accessed, what a load has read in this pass, and the register that the last pass of a load writes. -/
structure VTail where
  load : Bool
  size : Nat
  data : List Lane
  todo : List (Nat × Nat)
  got : List (Nat × Lane)
  vd : Option Nat
deriving DecidableEq, Repr

/-- A thread context (R63 to R68, R158, R356) with its waits, bindings and requests. `arriving`: the V-slot instruction that a MIG
bundle completes with on arrival (R420); `badRegs`: registers with an uncorrectable soft error (R142); `swapTo`: the slot held for its swap-in (R157); `brkHalt`: halted at a BRK (R162). `pfx` is the pending prefix (bit 4: valid,
bits 3:0 the flags .R .T .N .H, R113); an inbox entry is marked when it is held for an owed result (R126, R150). Up to `notBefore` the
thread issues at its own cycle only (R58); `vmemRead`: lanes that passes under way have read (R198), `tail` the rest of a pass; `codeFrom`: the stamp of its last IFENCE (R139). -/
structure Thread where
  place : Place
  status : Status
  wait : Option Wait
  g : Vector Word 64
  fe : BitVec 64
  pend : BitVec 64
  badRegs : BitVec 64
  h : Vector Word 8
  pc : Word
  tstat : Word
  epc : Word
  ecause : Word
  eval : Word
  estat : Word
  fctl : Word
  fmt : Word
  mstat : Word
  tlog : Word
  htab : Word
  epid : BitVec 32
  part : Nat
  launch : Nat
  start : Pos
  crew : CrewRef
  vlen : Nat
  claim : Claim
  savedVlen : Nat
  v : Vector (List Lane) 32
  m : Vector (List Bool) 8
  lastIssue : Option Nat
  notBefore : Nat
  pfx : BitVec 5
  afterPfx : Bool
  issuedPc : Word
  issuedPfx : BitVec 5
  parkedAt : Nat
  relaxed : List Access
  lost : List LostAccess
  posted : Nat
  sfuLeft : Nat
  inbox : List (Bool × Nat × Word)
  streams : Vector (Option StreamBind) 4
  groups : Vector (Option GroupBind) 4
  queues : Vector (Option QueueBind) 4
  task : Option (Option Nat)
  join : Option JoinRef
  kill : Kill
  holdCount : Nat
  swapReq : Bool
  haltReq : Bool
  haltBrk : Bool
  brkHalt : Bool
  swapTo : Option Pos
  arriving : Option Instr
  migT : Option Int
  appt : Nat
  visitor : Nat
  visitorPool : Bool
  vmemPass : Nat
  vmemRead : List (Nat × Lane)
  tail : Option VTail
  codeFrom : Nat
deriving DecidableEq, Repr

/-- A thread, or a .C copy job, waiting for a word to fill, in park order (R102, R254), with the virtual address it came by; `req` names
the round trip it came by. -/
structure FeWaiter where
  tid : Nat
  word : Nat
  va : Nat
  d : Nat
  consume : Bool
  req : Option Nat
  job : Option (TileRef × Nat)
deriving DecidableEq, Repr

/-- A thread queued at a lock word, in arrival order (R110). -/
structure LockWaiter where
  tid : Nat
  word : Nat
  d : Nat
  req : Option Nat
deriving DecidableEq, Repr

/-! ### Quads: SFU and instruction cache (12 R217, 01 R9) -/

/-- What a request writes on completion: a scalar result, or lanes (computed from the operands captured at issue, R219). -/
inductive SfuResult where
  | scalar (d : Nat) (v : Word)
  | lanes (vd : Nat) (new : List Lane) (mask : List Bool)
deriving DecidableEq, Repr

structure SfuReq where
  tid : Nat
  res : SfuResult
  flags : Word
  dead : Bool
deriving DecidableEq, Repr

/-- The SFU's queue and request in service, and the cached bundles with the stamps of the reads that brought them (R139). -/
structure Quad where
  queue : List SfuReq
  serving : Option SfuReq
  icache : Tab Nat (Word × Nat)
deriving DecidableEq, Repr

/-! ### Copy unit (14) -/

inductive JobState where
  | queued | running | done
deriving DecidableEq, Repr

/-- A copy job (R248): the captured record, bases, flags, and its progress (R249): the source words read so far, each read once
(R134), the values its destination words had before (R254), and the destination words gathered and not yet written (bit mask, bits).
`pos` is the slot whose TCM area is its issuer's own, `launch` its issuer's launch, `overlap` whether its two sides share a byte (R254). -/
structure CopyJob where
  state : JobState
  tid : Nat
  part : Nat
  priv : Nat
  record : List Word
  dst : Word
  src : Word
  fill : Bool
  consume : Bool
  stream : Bool
  bound : Option Nat
  noFill : Bool
  killed : Bool
  issued : Nat
  count : Nat
  err : Nat
  nv : Bool
  of : Bool
  nx : Bool
  age : Nat
  taken : Tab Nat Word
  olds : Tab Nat Word
  pend : Tab Nat (Nat × Nat)
  doneAt : Nat
  pos : Pos
  launch : Nat
  overlap : Bool
deriving DecidableEq, Repr

/-- An entry of the tile queue: the seq of its job, or of its next one, and its job (R248, R252). -/
structure CopyEntry where
  seq : Nat
  job : Option CopyJob
deriving DecidableEq, Repr

/-! ### Matrix engine (15) -/

inductive OpSlotState where
  | free | claimed | loaded
deriving DecidableEq, Repr

/-- An operand slot (R258, R259): rows of element codes and of scale bytes; an element not listed is 0, a scale byte not listed 0x7F. -/
structure OpSlot where
  state : OpSlotState
  owner : Nat
  fmt : Nat
  rows : List (List Nat)
  scales : List (List Nat)
  releasing : Bool
deriving DecidableEq, Repr

inductive AccState where
  | free | owned | away
deriving DecidableEq, Repr

/-- An accumulator tile (R261, R262): 32-bit or 64-bit elements in row order. -/
structure AccTile where
  state : AccState
  owner : Nat
  crew : CrewRef
  rows : Nat
  cols : Nat
  ty : Nat
  data : List Nat
  saving : Bool
  releasing : Bool
deriving DecidableEq, Repr

/-- Work of the matrix queue (R265). -/
inductive MatOp where
  | mlda (slot : Nat) (src : Word) (record : List Word) (d : Nat)
  | mma (a b t : Nat) (cj : Bool)
  | mzero (t : Nat)
  | msta (t : Nat) (dst : Word) (record : List Word) (d : Nat)
deriving DecidableEq, Repr

structure MatEntry where
  id : Nat
  tid : Nat
  priv : Nat
  part : Nat
  op : MatOp
  started : Bool
  launch : Nat
deriving DecidableEq, Repr

/-! ### Tiles -/

/-- A hardware queue of a tile (R129). -/
structure HwQueue where
  part : Option Nat
  items : List Word
deriving DecidableEq, Repr

/-- A forwarding stub (R359): which thread left, where to, until when. -/
structure Stub where
  epid : BitVec 32
  dest : Pos
  until_ : Nat
deriving DecidableEq, Repr

/-- A cached leaf: partition, table root, first page address, page size in bytes, leaf entry, and the table words it was drawn from (R156). -/
structure TlbEntry where
  part : Nat
  root : Nat
  va : Nat
  size : Nat
  leaf : Word
  words : List Nat
deriving DecidableEq, Repr

/-- A tile: its queues, copy unit, matrix engine, caches, directory, Truss agent, droop and health (01 R9). `drpFrom`: the cycle at
which the droop sequence under way began (R409); `drpTold`: per partition that asks for DROOP, the trips counted and the time at its last one (R409); `newCosts` act from the next change of its
point (R325). -/
structure Tile where
  queues : Tab Nat HwQueue
  copy : Tab Nat CopyEntry
  copyRun : Option Nat
  doneCount : Nat
  slots : Tab Nat OpSlot
  accs : Tab Nat AccTile
  matQ : List MatEntry
  matFull : List Nat
  matReserved : List Nat
  mslotWait : List (Nat × Nat)
  tlb : List TlbEntry
  handles : List Nat
  dir : Tab (BitVec 32) Place
  stubs : List Stub
  floor : Nat
  point : Option Nat
  costs : List Nat
  newCosts : Option (List Nat)
  disabled : List Nat
  drpTh : Nat
  drpStr : BitVec 32
  drpTrips : BitVec 32
  drpFrom : Option Nat
  drpTold : Tab Nat (Nat × Nat)
  fenced : Bool
  errors : List Nat
  slackIn : Tab Nat Nat
deriving DecidableEq, Repr

/-- An asynchronous event for slot 15 (R149): the core, the kind (1 WCYCLE, 2 RETIRE-REQUEST, 3 DROOP, 4 TENANT), its record. -/
structure SysEvent where
  core : CoreRef
  kind : Nat
  record : List Word
deriving DecidableEq, Repr

/-- A core: cycle count, extensions, availability (04 R57, 03 R54), the soft errors corrected in its units: extension bit, time (R410),
the event that its slot 15 works on (R70, R149), and the cycles in which its slots 14 and 15 last issued (R58, R59). -/
structure CoreSt where
  cycle : Nat
  cycBase : Nat
  extid : BitVec 5
  available : Bool
  errors : List (Nat × Nat)
  system : Option SysEvent
  lastComm : Option Nat
  lastSystem : Option Nat
deriving DecidableEq, Repr

/-! ### Keystone (18) -/

inductive JoinState where
  | free | opened | released | settled
deriving DecidableEq, Repr

/-- A join slot (R291, R293, R295, R301, R304). -/
structure Join where
  state : JoinState
  gen : Nat
  part : Nat
  n : Nat
  k : Nat
  wtot : Nat
  ty : Nat
  len : Nat
  fill : Nat
  res : List Nat
  subst : List Nat
  acc : List Nat
  arrived : Nat
  warr : Nat
  binds : Nat
  departed : Nat
  bound : List Nat
  killed : List Nat
  waiters : List (Nat × Nat × Bool)
  close : Bool
  noarr : Bool
  nv : Bool
  of : Bool
  nx : Bool
deriving DecidableEq, Repr

/-- A request of a parked thread on its way (R303, R351): to a join's home, JOPEN's reads of a peer's memory, COPEN to its group's root,
LWAIT to the launch's package. -/
inductive KeyOp where
  | bind (t : Bool)
  | arrive (xs : List Nat) (w : Nat)
  | wait (set : Bool)
  | close
  | query
  | depart
  | openAt (ga : Word)
  | group (k : Nat) (ga gb : Word)
  | lwait (id : Nat)
deriving DecidableEq, Repr

structure KeyReq where
  tid : Nat
  part : Nat
  d : Nat
  join : JoinRef
  op : KeyOp
deriving DecidableEq, Repr

/-! ### Span (22) -/

/-- A round-trip request (R351): tag, reissues, whether the destination has performed it, its result; `held` while no port or number
lets it leave, `tagged` once it has its number, `waiting` while it is parked at its word, `posted` for a store to host memory that its thread does not wait for. -/
structure SpanReq where
  acc : Access
  src : PortRef
  dest : Nat
  seq : Nat
  host : Bool
  relaxed : Bool
  posted : Bool
  held : Bool
  tagged : Bool
  sent : Nat
  reissues : Nat
  arrived : Bool
  waiting : Bool
  result : Option Word
deriving DecidableEq, Repr

/-- An entry of a port's reply cache or store-tag list (R352). -/
structure ReplyEntry where
  req : Nat
  result : Option Word
  until_ : Nat
deriving DecidableEq, Repr

structure SpanPort where
  up : Bool
  nextSeq : Nat
  used : Tab Nat Nat
  replies : List ReplyEntry
  redSlots : List (Nat × Nat)
deriving DecidableEq, Repr

/-- Requests merged at a port, in recorded order, and the old value that the merged request has brought (R353). -/
structure Merge where
  port : PortRef
  parts : List Nat
  old : Option Nat
deriving DecidableEq, Repr

/-- A SEND on its way (R126, R359): `from_` is the package it leaves, until it has reached the tile `at_`; `waiting` there, `retry` when
slot 14 of its target's core is to try it again (R150); `moved` when it goes back MOVED to its sender's core, whose slot 14 sends it again. -/
structure Msg where
  part : Nat
  from_ : Nat
  epid : BitVec 32
  reg : Nat
  val : Word
  sender : Option Nat
  posted : Option Nat
  src : CoreRef
  at_ : TileRef
  hops : Nat
  waiting : Bool
  launch : Nat
  moved : Bool
  retry : Bool
deriving DecidableEq, Repr

/-- A contribution on its way to its leaf and from there to the root of its tree, or, `down`, the result of a round on its way from the
root to a leaf (R350, R360). -/
structure Contribution where
  part : Nat
  group : Nat
  round : Nat
  leaf : Pos
  val : Word
  from_ : Nat
  launch : Nat
  down : Bool
deriving DecidableEq, Repr

/-- What the router of a tile on a group's tree holds (R360): the port to its parent and the mask of its leaves; the operator is the group's. -/
structure Router where
  group : Nat
  tile : TileRef
  parent : Nat
  children : Nat
deriving DecidableEq, Repr

/-- A collective round (R362): its contributions in arrival order. -/
structure Round where
  given : List (Pos × Word)
  result : Option Word
deriving DecidableEq, Repr

/-- A collective group of a partition (R360, R361). -/
structure Group where
  launch : Nat
  leaves : List Pos
  isOpen : Bool
  op : Nat
  ty : Nat
  alg : Nat
  buf : Word
  bound : List (Pos × Nat × Nat)
  left : List Pos
  first : Nat
  rounds : List Round
deriving DecidableEq, Repr

/-! ### Truss (20) -/

/-- An awaited party (R328). -/
inductive Party where
  | crew (c : CrewRef)
  | span (d : DieRef)
deriving DecidableEq, Repr

/-- Where lent shares lie: credited at the last party of the trail, parked as surplus in the owner's pool, in flight to their target, or
in flight to that pool. -/
inductive ShareAt where
  | held
  | pool
  | flight
  | toPool
deriving DecidableEq, Repr

/-- Lent shares (R330, R331): the trail starts at their owner and ends at the crew that holds them; `target` is where they go, `credited`
the stamp of their credit; `leaves` is the tile that cannot debit them yet, since its point cannot fall yet (R333, R409). -/
structure Loan where
  id : Nat
  owner : CrewRef
  trail : List CrewRef
  target : Party
  amount : Nat
  at_ : ShareAt
  credited : Nat
  leaves : Option TileRef
deriving DecidableEq, Repr

/-- The account that shares in flight which are no loan go to (R323): a pool, a crew's own account, the part of it that is held back in
its pool, slack of a pool on a tile, a tile's floor draw, the reserve, Free, or the visitor account of a thread of a crew, which its pool has
paid or not. -/
inductive ShareDest where
  | pool (p : PartRef)
  | own (c : CrewRef)
  | away (c : CrewRef)
  | slack (p : PartRef) (tl : TileRef)
  | floor (tl : TileRef)
  | reserve (pkg : Nat)
  | free (pkg : Nat)
  | visitor (tid : Nat) (c : CrewRef) (pool : Option PartRef)
deriving DecidableEq, Repr

/-- Shares in flight that are no loan (R323, R333); `leaves` as in a loan. -/
structure Transit where
  amount : Nat
  dest : ShareDest
  leaves : Option TileRef
deriving DecidableEq, Repr

/-- A crew: own account, whether its own shares are held back, and how many of them lie in the pool (R334), cap, WEDGE target (R323,
R343, R344); `waiting`: what its pool holds for it and the loans recalled from it are to be paid out again. -/
structure Crew where
  part : Nat
  launch : Nat
  own : Nat
  heldBack : Bool
  away : Nat
  cap : Option Nat
  wedge : Word
  blocked : Bool
  targets : List Party
  retired : Bool
  waiting : Bool
deriving DecidableEq, Repr

/-! ### Dispatcher and partitions (23, 24) -/

/-- Where a submission came from: a thread's LAUNCH or the host mailbox. -/
inductive SubSource where
  | thread (tid d : Nat)
  | host (p : PartRef) (tag : Nat)
deriving DecidableEq, Repr

/-- A submission; `reset`: its partition's reset was requested while it was checked (R402). -/
structure Submission where
  src : SubSource
  pkg : Nat
  part : Nat
  words : List Word
  trees : Option (List Word)
  reset : Bool
deriving DecidableEq, Repr

/-- The configuration of a partition on a package that a launch keeps from its acceptance (R392). -/
structure PartCfg where
  tiles : List Nat
  slots : Nat
  root : Nat
  handler : Word
  htabs : List Nat
  routes : List (Nat × Nat)
  ptepol : Nat
  syscore : Word
deriving DecidableEq, Repr

/-- An accepted launch (R382, R388): threads and packets not yet done, those counted done-killed, and the retired threads that are
not done because their copy jobs, matrix stores or posted writes are under way (R118, R137, R391); the endpoint of each start position
(R127); its configuration on each package; the routers of its groups' trees (R360). -/
structure Launch where
  pkg : Nat
  part : Nat
  words : List Word
  trees : List Word
  pkgs : List Nat
  order : Nat
  claimed : List Nat
  started : Bool
  threads : Nat
  packets : Nat
  nkill : Nat
  lingering : List Nat
  eps : List (Pos × BitVec 32)
  reset : Bool
  cfgs : Tab Nat PartCfg
  routers : List Router
deriving DecidableEq, Repr

/-- A work packet (R386) and the launch that pushed it. -/
structure Packet where
  words : List Word
  launch : Option Nat
deriving DecidableEq, Repr

structure TaskQueue where
  part : Option Nat
  isOpen : Bool
  packets : List Packet
  waiters : List Nat
  posters : List Nat
deriving DecidableEq, Repr

/-- An event-ring entry not yet written: TYPE, TIME, W0, W1, DETAIL (R396). -/
structure RingEntry where
  ty : Nat
  time : Nat
  w0 : Word
  w1 : Word
  detail : List Word
deriving DecidableEq, Repr

/-- A partition of a package: configuration (R392, R417), accounts, tables, and its function's registers (R401, R402). -/
structure Part where
  tiles : List Nat
  slots : Nat
  allot : Nat
  pfloor : Nat
  slack : Bool
  root : Nat
  handler : Word
  wdog : Nat
  htabs : List Nat
  routes : List (Nat × Nat)
  vstates : List Nat
  ptepol : Nat
  syscore : Word
  injShared : Word
  injSpan : Word
  ctxBase : Nat
  ctxSize : Nat
  pool : Nat
  debt : Nat
  slackOut : List (TileRef × Nat)
  seq : Nat
  completions : Tab Nat (Option Word)
  resetting : Bool
  rangeTab : List (Nat × Nat)
  lmrec : List Word
  lmBusy : Bool
  lmDone : Bool
  lmReason : Nat
  lmDrop : Nat
  lmId : Nat
  hpkt : List Word
  hpBusy : Bool
  hpResult : Nat
  hpDoor : Nat
  erBase : Word
  erSize : Nat
  erNote : Word
  erCons : Nat
  erIntc : Bool
  erSeq : Nat
  held : List RingEntry
  hdm : List (Nat × Nat)
  askDroop : Bool
  images : List Nat
deriving DecidableEq, Repr

/-! ### Ethernet and management (24) -/

/-- An ingest stream (R405 to R407); `next` is the word of the record under way that is written next. -/
structure Ingest where
  desc : List Word
  enabled : Bool
  frame : Nat
  next : Option Nat
  stopped : Bool
  waiting : List (List Nat)
  written : Nat
  dropped : Nat
  truncated : Nat
deriving DecidableEq, Repr

/-- An Ethernet port; `refresh`: when PAUSE (8) or a PFC frame on a priority was last sent for a stopped stream (R407). -/
structure EthPort where
  quanta : Nat
  counts : List Nat
  buffered : Nat
  sent : List (Nat × Nat)
  refresh : Tab Nat Nat
  streams : Tab Nat Ingest
deriving DecidableEq, Repr

/-- The management mailbox and what the firmware keeps (R413 to R418): whether the command under way has had its effect, its request's length, the records for the host,
telemetry, link counts, throttle steps, and what the board management controller was last answered. -/
structure Mgmt where
  busy : Bool
  ran : Bool
  done : Bool
  result : Nat
  drop : Nat
  rlen : Nat
  cmd : Nat
  len : Nat
  intc : Nat
  req : List Word
  rsp : List Word
  retire : List (List Word)
  telemetry : List Nat
  links : List Nat
  throttle : Nat
  bmc : List Word
deriving DecidableEq, Repr

/-- The configuration blob (R411): vendor section (EXTID of every core, tile set, clock plan, DRPTH of every tile, firmware entry,
security version, whether its signature is good) and device section (point costs and disabled points of each tile, fenced tiles, fenced
extensions of a core, whether it is good). Tiles are numbered die × 144 + tile, cores eight to a tile; a core or tile without an entry of
its own has the common value. -/
structure Blob where
  extid : BitVec 5
  extids : Tab Nat (BitVec 5)
  tiles : List Nat
  lostExts : List (Nat × Nat)
  clkplan : List Word
  drpTh : Nat
  drpThs : Tab Nat Nat
  firmware : Word
  version : Nat
  signed : Bool
  costs : List Nat
  tileCosts : Tab Nat (List Nat)
  tileDisabled : Tab Nat (List Nat)
  fencedTiles : List Nat
  deviceGood : Bool
deriving DecidableEq, Repr

/-- A package: time, dispatcher, shares, management, what its host's last read brought, and when its margins were last re-planned. -/
structure Pkg where
  ready : Bool
  time : Nat
  reserve : Nat
  freeShares : Nat
  clkplan : List Word
  rrPart : Tab Nat Nat
  vectors : List Nat
  mgmt : Mgmt
  spdm : List Byte
  blob : Blob
  highestVersion : Nat
  hostData : List Byte
  replanned : Nat
deriving DecidableEq, Repr

/-! ### Events and turns -/

/-- What an event acts on, and what the outside supplies with it. -/
inductive Obj where
  | none
  | thread (t : Nat)
  | threadNum (t n : Nat)
  | threadReg (t r : Nat) (w : Word)
  | place (t : Nat) (p : Pos)
  | core (c : CoreRef)
  | coreNum (c : CoreRef) (n : Nat)
  | quad (q : QuadRef)
  | tile (t : TileRef)
  | tileNum (t : TileRef) (n : Nat)
  | tileNums (t : TileRef) (m n : Nat)
  | crew (c : CrewRef)
  | num (n : Nat)
  | nums (m n : Nat)
  | pkg (p : Nat)
  | pkgNum (p n : Nat)
  | pkgWords (p : Nat) (ws : List Word)
  | part (p : PartRef)
  | partNum (p : PartRef) (n : Nat)
  | queue (q : TaskQueueRef)
  | port (p : PortRef)
  | portNum (p : PortRef) (n : Nat)
  | member (j : JoinRef) (t : Nat)
  | group (part g : Nat)
  | host (p : PartRef) (addr : Nat) (bytes : List (Nat × Byte))
  | frame (p : PortRef) (bytes : List Nat)
  | reg (pkg fn off : Nat) (w : Word)
deriving DecidableEq, Repr

/-- One turn of the machine (log 2): a core issues; a core issues, and a vector access of it is cut after some elements, or some more of
the elements that a thread's cut access has left are accessed (R199; log 41); an event happens; or time passes on a package. -/
inductive Turn where
  | core (c : CoreRef)
  | split (c : CoreRef) (n : Nat)
  | part (tid n : Nat)
  | event (i : Instr) (o : Obj)
  | elapse (pkg ns : Nat)
deriving DecidableEq, Repr

/-! ### The whole machine -/

/-- Everything: memory, its FE bits, its words with an uncorrectable soft error (R142), and the parts; `cur`, `bundle` and `cut` (0: none; log 41) are the issue
under way, `obj` the object of the event under way, `fresh` the counter behind free values (log 2). -/
structure State where
  mem : List Host.Cell
  fe : List Nat
  poison : List Nat
  threads : Tab Nat Thread
  nextTid : Nat
  feWaiters : List FeWaiter
  lockWaiters : List LockWaiter
  cores : Tab CoreRef CoreSt
  quads : Tab QuadRef Quad
  tiles : Tab TileRef Tile
  joins : Tab (DieRef × Nat) Join
  keyReqs : Tab Nat KeyReq
  taskQueues : Tab TaskQueueRef TaskQueue
  gens : Tab Pos Nat
  learned : Tab (CoreRef × BitVec 32) TileRef
  reqs : Tab Nat SpanReq
  ports : Tab PortRef SpanPort
  merges : Tab Nat Merge
  msgs : Tab Nat Msg
  groups : Tab (Nat × Nat) Group
  contribs : Tab Nat Contribution
  crews : Tab CrewRef Crew
  loans : List Loan
  transits : Tab Nat Transit
  cycles : List (List CrewRef)
  subs : Tab Nat Submission
  launches : Tab Nat Launch
  parts : Tab PartRef Part
  pkgs : Tab Nat Pkg
  eth : Tab PortRef EthPort
  sysEvents : List SysEvent
  agenda : List Turn
  focus : List CoreRef
  cur : Option Nat
  cut : Nat
  bundle : Word
  obj : Obj
  fresh : Nat
deriving DecidableEq, Repr

/-- Why the machine stops. No instruction of this model ends in one: every failure the spec describes is an exception, a refusal
code or a status word, and is a next state. -/
inductive Fault where
  /-- Raised by nothing: kept so that the type has a value; safe. -/
  | none
deriving DecidableEq, Repr

/-- Why an instruction has no meaning. -/
inductive Refusal where
  /-- Raised only by an arm of Dispatch whose instruction has no meaning yet; safe. -/
  | notModelled (mnemonic : String)
deriving DecidableEq, Repr

/-! ### Reset values -/

/-- The share costs of P0 to P15 (R325). -/
def defaultCosts : List Nat := [8, 11, 14, 18, 22, 27, 33, 40, 47, 55, 64, 74, 85, 113, 146, 186]

def HwQueue.init : HwQueue := ⟨none, []⟩
def CopyEntry.init : CopyEntry := ⟨1, none⟩
def OpSlot.init : OpSlot := ⟨.free, 0, 0, [], [], false⟩
def AccTile.init : AccTile := ⟨.free, 0, ⟨0, 0, 0, 0, 0⟩, 0, 0, 0, [], false, false⟩
def Quad.init : Quad := ⟨[], none, []⟩
def Join.init : Join :=
  ⟨.free, 0, 0, 0, 0, 0, 0, 0, 0, [], [], [], 0, 0, 0, 0, [], [], [], false, false, false, false, false⟩
def SpanPort.init : SpanPort := ⟨true, 0, [], [], []⟩
def TaskQueue.init : TaskQueue := ⟨none, false, [], [], []⟩
def Ingest.init : Ingest := ⟨[0, 0, 0, 0], false, 0, none, false, [], 0, 0, 0⟩
def EthPort.init : EthPort := ⟨0, [0, 0, 0, 0, 0, 0, 0, 0], 0, [], [], []⟩
def Mgmt.init : Mgmt :=
  ⟨false, false, false, 0, 0, 0, 0, 0, 0, List.replicate 512 0, List.replicate 512 0, [], List.replicate 9 0, List.replicate 17 0, 0, []⟩

/-- The blob the model boots under (R411; DESIGN CHOICE, log 5). -/
def Blob.init : Blob := ⟨31, [], List.range 576, [], [], 20, [], 0x7000000000000, 1, true, defaultCosts, [], [], [], true⟩

/-- A tile after reset under a blob. -/
def Tile.init (b : Blob) (k : Nat) : Tile where
  queues := []
  copy := []
  copyRun := none
  doneCount := 0
  slots := []
  accs := []
  matQ := []
  matFull := []
  matReserved := []
  mslotWait := []
  tlb := []
  handles := []
  dir := []
  stubs := []
  floor := 0
  point := none
  costs := b.tileCosts.getD k b.costs
  newCosts := none
  disabled := b.tileDisabled.getD k []
  drpTh := b.drpThs.getD k b.drpTh
  drpStr := 0
  drpTrips := 0
  drpFrom := none
  drpTold := []
  fenced := !b.tiles.contains k || b.fencedTiles.contains k
  errors := []
  slackIn := []

/-- A core after reset under a blob: its EXTID with BASE at 1, less what is fenced; a core that has lost BASE runs nothing (R54, R410). -/
def CoreSt.init (b : Blob) (k : Nat) : CoreSt :=
  let lost : BitVec 5 := b.lostExts.foldl (fun m e => if e.1 = k then m ||| BitVec.ofNat 5 e.2 else m) 0
  ⟨0, 0, (b.extids.getD k b.extid ||| 1) &&& ~~~lost, !lost.getLsbD 0, [], none, none, none⟩

/-- A package after device reset: time 0, 448 reserve shares, every other share Free, no partition (R22, R323, R394). -/
def Pkg.init : Pkg where
  ready := true
  time := 0
  reserve := 448
  freeShares := 65088
  clkplan := Blob.init.clkplan
  rrPart := []
  vectors := []
  mgmt := Mgmt.init
  spdm := []
  blob := Blob.init
  highestVersion := 1
  hostData := []
  replanned := 0

/-- A partition at the defaults of R417. -/
def Part.init : Part where
  tiles := []
  slots := 0
  allot := 0
  pfloor := 0
  slack := false
  root := 0
  handler := 0
  wdog := 0
  htabs := [0, 0, 0, 0, 0, 0, 0, 0]
  routes := []
  vstates := List.range 16
  ptepol := 0
  syscore := 0
  injShared := 0
  injSpan := 0
  ctxBase := 0
  ctxSize := 0
  pool := 0
  debt := 0
  slackOut := []
  seq := 0
  completions := []
  resetting := false
  rangeTab := []
  lmrec := List.replicate 16 0
  lmBusy := false
  lmDone := false
  lmReason := 0
  lmDrop := 0
  lmId := 0
  hpkt := List.replicate 8 0
  hpBusy := false
  hpResult := 0
  hpDoor := 0
  erBase := 0
  erSize := 0
  erNote := 0
  erCons := 0
  erIntc := false
  erSeq := 0
  held := []
  hdm := [(0, 0), (0, 0)]
  askDroop := false
  images := []

/-- A crew at its start (R324, R344). -/
def Crew.init (part launch own : Nat) : Crew :=
  ⟨part, launch, own, false, 0, none, 0x8000000000000000, false, [], false, false⟩

/-- A thread at its start (R63, R383): `g1`, `g2`, the entry and the handle table base are given. -/
def Thread.init (p : Pos) (part launch : Nat) (epid : BitVec 32) (entry g1 g2 htab : Word) : Thread where
  place := .slot p
  status := .ready
  wait := none
  g := ((Vector.replicate 64 0#64).set 1 g1).set 2 g2
  fe := BitVec.allOnes 64
  pend := 0
  badRegs := 0
  h := Vector.replicate 8 0
  pc := entry
  tstat := 0
  epc := 0
  ecause := 0
  eval := 0
  estat := 0
  fctl := 0
  fmt := 0
  mstat := 0
  tlog := 0
  htab := htab
  epid := epid
  part := part
  launch := launch
  start := p
  crew := p.crewRef launch
  vlen := 0
  claim := .none
  savedVlen := 0
  v := Vector.replicate 32 []
  m := Vector.replicate 8 []
  lastIssue := none
  notBefore := 0
  pfx := 0
  afterPfx := false
  issuedPc := 0
  issuedPfx := 0
  parkedAt := 0
  relaxed := []
  lost := []
  posted := 0
  sfuLeft := 0
  inbox := []
  streams := Vector.replicate 4 none
  groups := Vector.replicate 4 none
  queues := Vector.replicate 4 none
  task := none
  join := none
  kill := .none
  holdCount := 0
  swapReq := false
  haltReq := false
  haltBrk := false
  brkHalt := false
  swapTo := none
  arriving := none
  migT := none
  appt := 0
  visitor := 0
  visitorPool := false
  vmemPass := 0
  vmemRead := []
  tail := none
  codeFrom := 0

/-- The machine right after device reset: no thread, no partition, memory unwritten, every FE bit empty (R12, R13, R411). -/
def State.reset : State where
  mem := []
  fe := []
  poison := []
  threads := []
  nextTid := 0
  feWaiters := []
  lockWaiters := []
  cores := []
  quads := []
  tiles := []
  joins := []
  keyReqs := []
  taskQueues := []
  gens := []
  learned := []
  reqs := []
  ports := []
  merges := []
  msgs := []
  groups := []
  contribs := []
  crews := []
  loans := []
  transits := []
  cycles := []
  subs := []
  launches := []
  parts := []
  pkgs := [(0, Pkg.init)]
  eth := []
  sysEvents := []
  agenda := []
  focus := []
  cur := none
  cut := 0
  bundle := 0
  obj := .none
  fresh := 0

end Sys2Proof.Machine
end

