-- ==== Sys2Proof/Machine/Ops.lean ====
section
/-!
DEFINITION. Machine/Ops.lean: the named operations over memory, FE bits, registers, waits, translation and exceptions that every
meaning calls.
-/
namespace Sys2Proof.Machine
open Sys2Proof

/-! ### Words (R35, R36) -/

/-- A 64-bit word with bits `h` to `l` replaced by the low bits of `v`. -/
def putBits (w : Word) (h l v : Nat) : Word :=
  BitVec.ofNat 64 (w.toNat - bits w.toNat h l * 2 ^ l + v % 2 ^ (h + 1 - l) * 2 ^ l)

/-- `sext(x, n)` (R36). -/
def sext (x n : Nat) : Word := BitVec.ofInt 64 (sgn n x)

/-- A word from a natural number, modulo 2⁶⁴. -/
def word (n : Nat) : Word := BitVec.ofNat 64 n

/-- All ones. -/
def ones64 : Word := BitVec.allOnes 64

/-- `0x8000_0000_0000_0000 | reason`. -/
def refusalWord (r : Nat) : Word := word (2 ^ 63 + r)

/-- A register of `old` lanes seen at `new` lanes: kept below both, zero above (R190). -/
def resizeTo {α : Type} (zero : α) (new : Nat) (l : List α) : List α := l.take new ++ List.replicate (new - l.length) zero

/-! ### Memory: a rising list of (address, byte), a byte that is 0 unlisted (R5, R131; log 1) -/

/-- What an address that nothing has written reads as (log 1). -/
def unlistedByte : Byte := 0

def memGet : List Host.Cell → Nat → Byte
  | [], _ => unlistedByte
  | (a', b) :: m, a => if a = a' then b else if a < a' then unlistedByte else memGet m a

def memSet : List Host.Cell → Nat → Byte → List Host.Cell
  | [], a, b => if b = unlistedByte then [] else [(a, b)]
  | (a', b') :: m, a, b =>
    if a < a' then (if b = unlistedByte then (a', b') :: m else (a, b) :: (a', b') :: m)
    else if a = a' then (if b = unlistedByte then m else (a, b) :: m)
    else (a', b') :: memSet m a b

/-- The canonical form: addresses strictly rising, no entry equal to what an unlisted address reads as. -/
def memWf : List Host.Cell → Bool
  | [] => true
  | [(_, b)] => b != unlistedByte
  | (a, b) :: (a', b') :: m => b != unlistedByte && (a < a' && memWf ((a', b') :: m))

/-- Little-endian value of the `n` bytes at `a` (R5). -/
def memRead (m : List Host.Cell) (a : Nat) : Nat → Nat
  | 0 => 0
  | n + 1 => (memGet m a).toNat + 256 * memRead m (a + 1) n

/-- Writes the low `n` bytes of `v` at `a`, little-endian (R5). -/
def memWrite (m : List Host.Cell) (a : Nat) : Nat → Nat → List Host.Cell
  | 0, _ => m
  | n + 1, v => memWrite (memSet m a (BitVec.ofNat 8 v)) (a + 1) n (v / 256)

/-! ### FE bits of memory: the rising list of the numbers of full words (R12) -/

def feGet (l : List Nat) (w : Nat) : Bool := l.contains w

def feInsert : List Nat → Nat → List Nat
  | [], w => [w]
  | x :: l, w => if w < x then w :: x :: l else if w = x then x :: l else x :: feInsert l w

def feSet (l : List Nat) (w : Nat) (full : Bool) : List Nat := if full then feInsert l w else l.filter (· != w)

/-- The canonical form of the FE list: strictly rising. -/
def feWf : List Nat → Bool
  | [] => true
  | [_] => true
  | x :: y :: l => x < y && feWf (y :: l)

/-! ### Physical addresses (R422) and their place in the model's one memory -/

/-- What holds a physical address of device memory (R422). -/
inductive Region where
  | hbm
  | sram (die : Nat)
  | scratch (die tile : Nat)
  | tcm (die tile core off : Nat)
  | none
deriving DecidableEq, Repr

def regionOf (pa : Nat) : Region :=
  if pa < 0x0100_0000_0000 then (if pa < 0x00C0_0000_0000 then .hbm else .none)
  else if pa < 0x0200_0000_0000 then
    let o := pa - 0x0100_0000_0000
    if o / 0x0800_0000 < 4 ∧ o % 0x0800_0000 < 0x0600_0000 then .sram (o / 0x0800_0000) else .none
  else if pa < 0x0300_0000_0000 then
    let k := (pa - 0x0200_0000_0000) / 0x10_0000
    if k / 256 < 4 ∧ k % 256 < 144 then .scratch (k / 256) (k % 256) else .none
  else
    let k := (pa - 0x0300_0000_0000) / 0x8000
    if k / 2048 < 4 ∧ k / 8 % 256 < 144 then .tcm (k / 2048) (k / 8 % 256) (k % 8) ((pa - 0x0300_0000_0000) % 0x8000) else .none

/-- First physical address of the 2 KiB TCM area of a slot (R422). -/
def tcmBase (p : Pos) : Nat := 0x0300_0000_0000 + ((p.die * 256 + p.tile) * 8 + p.core) * 0x8000 + p.slot * 2048

/-- First physical address of a tile's scratchpad (R422). -/
def scratchBase (t : TileRef) : Nat := 0x0200_0000_0000 + (t.die * 256 + t.tile) * 0x10_0000

/-- Global address of byte `pa` of a package's device memory. -/
def devAddr (pkg pa : Nat) : Nat := pkg * 2 ^ 52 + pa

/-- Global address of byte `a` of the memory of a package's host (log 18). -/
def hostAddr (pkg a : Nat) : Nat := 2 ^ 63 + pkg * 2 ^ 52 + a

/-! ### Parts of the machine; an absent entry stands for the reset value -/

namespace State

def pkg (s : State) (p : Nat) : Pkg := s.pkgs.getD p Pkg.init
def updPkg (s : State) (p : Nat) (f : Pkg → Pkg) : State := { s with pkgs := s.pkgs.updD p Pkg.init f }
def part (s : State) (p : PartRef) : Part := s.parts.getD p Part.init
def updPart (s : State) (p : PartRef) (f : Part → Part) : State := { s with parts := s.parts.updD p Part.init f }
def tileReset (s : State) (t : TileRef) : Tile := Tile.init (s.pkg t.pkg).blob (t.die * 144 + t.tile)
def tile (s : State) (t : TileRef) : Tile := s.tiles.getD t (s.tileReset t)
def updTile (s : State) (t : TileRef) (f : Tile → Tile) : State := { s with tiles := s.tiles.updD t (s.tileReset t) f }
def coreReset (s : State) (c : CoreRef) : CoreSt := CoreSt.init (s.pkg c.pkg).blob ((c.die * 144 + c.tile) * 8 + c.core)
def core (s : State) (c : CoreRef) : CoreSt := s.cores.getD c (s.coreReset c)
def updCore (s : State) (c : CoreRef) (f : CoreSt → CoreSt) : State := { s with cores := s.cores.updD c (s.coreReset c) f }
def quad (s : State) (q : QuadRef) : Quad := s.quads.getD q Quad.init
def updQuad (s : State) (q : QuadRef) (f : Quad → Quad) : State := { s with quads := s.quads.updD q Quad.init f }
def thread? (s : State) (t : Nat) : Option Thread := s.threads.get? t
def updThread (s : State) (t : Nat) (f : Thread → Thread) : State := { s with threads := s.threads.upd t f }
def join (s : State) (d : DieRef) (k : Nat) : Join := s.joins.getD (d, k) Join.init
def updJoin (s : State) (d : DieRef) (k : Nat) (f : Join → Join) : State := { s with joins := s.joins.updD (d, k) Join.init f }
def taskQueue (s : State) (q : TaskQueueRef) : TaskQueue := s.taskQueues.getD q TaskQueue.init
def updTaskQueue (s : State) (q : TaskQueueRef) (f : TaskQueue → TaskQueue) : State :=
  { s with taskQueues := s.taskQueues.updD q TaskQueue.init f }
def port (s : State) (p : PortRef) : SpanPort := s.ports.getD p SpanPort.init
def updPort (s : State) (p : PortRef) (f : SpanPort → SpanPort) : State := { s with ports := s.ports.updD p SpanPort.init f }
def hwQueue (s : State) (t : TileRef) (q : Nat) : HwQueue := (s.tile t).queues.getD q HwQueue.init
def updHwQueue (s : State) (t : TileRef) (q : Nat) (f : HwQueue → HwQueue) : State :=
  s.updTile t (fun x => { x with queues := x.queues.updD q HwQueue.init f })
def group? (s : State) (part g : Nat) : Option Group := s.groups.get? (part, g)
def updGroup (s : State) (part g : Nat) (f : Group → Group) : State := { s with groups := s.groups.upd (part, g) f }
def crew? (s : State) (c : CrewRef) : Option Crew := s.crews.get? c
def updCrew (s : State) (c : CrewRef) (f : Crew → Crew) : State := { s with crews := s.crews.upd c f }

/-- Puts an event that has become due at the end of the turns to come (log 2). -/
def post (s : State) (i : Instr) (o : Obj) : State := { s with agenda := s.agenda ++ [.event i o] }

/-- A fresh number for a free value (log 2). -/
def tick (s : State) : State := { s with fresh := s.fresh + 1 }

def rd (s : State) (a n : Nat) : Nat := memRead s.mem a n
def rdWord (s : State) (a : Nat) : Word := word (memRead s.mem a 8)
/-- Whether the word at an address has an uncorrectable soft error (R142 rank 14). -/
def bad (s : State) (a : Nat) : Bool := s.poison.contains (a / 8)

end State

/-! ### Thread fields (R65, R67) -/

namespace Thread
/-- TSTAT.PRIV: 0 U, 1 S, 2 H. -/
def priv (t : Thread) : Nat := bits t.tstat.toNat 1 0
def qmode (t : Thread) : Bool := bitAt t.tstat.toNat 12
def tent (t : Thread) : Bool := bitAt t.tstat.toNat 13
def khold (t : Thread) : Bool := bitAt t.tstat.toNat 14
def rm (t : Thread) : Nat := bits t.fctl.toNat 2 0
def qrm (t : Thread) : Nat := bits t.fctl.toNat 6 4
def ftz (t : Thread) : Bool := bitAt t.fctl.toNat 8
def setTstat (t : Thread) (h l v : Nat) : Thread := { t with tstat := putBits t.tstat h l v }

/-- The position a thread stands at; a swapped context counts as on its home tile, a travelling one at its destination. -/
def pos (t : Thread) : Pos :=
  match t.place with
  | .slot p => p
  | .image h _ => ⟨h.pkg, h.die, h.tile, t.start.core, t.start.slot⟩
  | .flight _ d => d

/-- The slot a resident thread is in. -/
def slot? (t : Thread) : Option Pos :=
  match t.place with
  | .slot p => some p
  | _ => none

/-- Value of a general register; g0 is 0 (R63). -/
def reg (t : Thread) (r : Nat) : Word := if r = 0 then 0 else t.g.toArray.getD r 0

/-- FE bit of a general register; g0 reads full (R12). -/
def full (t : Thread) (r : Nat) : Bool := r = 0 || t.fe.getLsbD r

/-- Writes a general register and sets its FE bit full; a result owed to it has come (R13, R158). -/
def setReg (t : Thread) (r : Nat) (v : Word) : Thread :=
  if r = 0 then t
  else { t with
    g := t.g.setIfInBounds r v
    fe := t.fe ||| (1#64 <<< r)
    pend := t.pend &&& ~~~(1#64 <<< r)
    badRegs := t.badRegs &&& ~~~(1#64 <<< r) }

/-- Sets a register empty at the issue of an instruction whose result arrives later (R13). -/
def owe (t : Thread) (r : Nat) : Thread :=
  if r = 0 ∨ (48 ≤ r ∧ r ≤ 59) then t
  else { t with fe := t.fe &&& ~~~(1#64 <<< r), pend := t.pend ||| (1#64 <<< r) }

/-- Sets a register full again with its old value: the result it was owed will not come (R130). -/
def unowe (t : Thread) (r : Nat) : Thread :=
  if t.pend.getLsbD r then { t with fe := t.fe ||| (1#64 <<< r), pend := t.pend &&& ~~~(1#64 <<< r) } else t

/-- Whether messages to the thread are deferred (R150). -/
def defers (t : Thread) : Bool :=
  (t.priv != 0) || (t.slot?.isNone || (t.status == .entry || (t.status == .swapOut || (t.status == .swapIn || t.status == .halted))))
end Thread

/-! ### Configuration and routes (R350, R392) -/

/-- What a launch keeps of its partition's configuration (R392). -/
def Part.cfg (x : Part) : PartCfg := ⟨x.tiles, x.slots, x.root, x.handler, x.htabs, x.routes, x.ptepol, x.syscore⟩

/-- The configuration that holds for a launch on a package (R392): as it was when the launch was accepted. -/
def State.cfg (s : State) (pkg part launch : Nat) : PartCfg :=
  match (s.launches.get? launch).bind (fun x => x.cfgs.get? pkg) with
  | some c => c
  | none => (s.part ⟨pkg, part⟩).cfg

def State.cfgOf (s : State) (t : Thread) : PartCfg := s.cfg t.pos.pkg t.part t.launch

/-- The port that traffic of a launch leaves a package by: the first port of the route to `dest` that is up (R350). -/
def routePort (s : State) (pkg part launch dest : Nat) : Option PortRef :=
  let mask := (((s.cfg pkg part launch).routes.find? (fun r => r.1 == dest)).map (·.2)).getD 0
  ((List.range 12).filter (fun k => bitAt mask k && (s.port ⟨pkg, k⟩).up)).head?.map (fun k => ⟨pkg, k⟩)

/-- Whether traffic of a launch can go from one package to another now: at once on one package, else by a route (R350). -/
def routed (s : State) (pkg part launch dest : Nat) : Bool := pkg == dest || (routePort s pkg part launch dest).isSome

/-! ### Parking and waking (R60, R61) -/

/-- Reference time of a package in ns (R118 TIME). -/
def State.now (s : State) (pkg : Nat) : Nat := (s.pkg pkg).time

/-- The first own cycle of a slot from cycle `c` on (R57). -/
def ownFrom (slot c : Nat) : Nat := c + (slot + 16 - c % 16) % 16

/-- The next own cycle of a slot (R57). -/
def State.nextOwn (s : State) (p : Pos) : Nat := ownFrom p.slot (s.core p.coreRef).cycle

/-- A thread issues next at its slot's own cycle (R118, R143, R263, R383). -/
def holdOff (tid : Nat) (s : State) : State := s.updThread tid (fun t => { t with notBefore := s.nextOwn t.pos })

/-- Parks a resident thread on a condition. -/
def park (tid : Nat) (w : Wait) (s : State) : State :=
  s.updThread tid (fun t => { t with status := .parked, wait := some w, parkedAt := s.now t.pos.pkg })

/-- The condition a thread waits for is met: a resident parked thread will re-enter the rotation (R61), a swapped-out one is ready
when it is swapped in (R159), a halted one when it is resumed (R163). One whose bundle has SFU requests left waits for them too (R217). -/
def wake (tid : Nat) (s : State) : State :=
  match s.thread? tid with
  | none => s
  | some t =>
    if t.sfuLeft ≠ 0 ∧ t.status = .parked then s.updThread tid (fun t => { t with wait := some .sfu })
    else if t.status = .parked ∧ t.slot?.isSome then
      (s.updThread tid (fun t => { t with status := .waking, wait := none })).post .parkResume (.thread tid)
    else if t.status = .parked then s.updThread tid (fun t => { t with status := .ready, wait := none })
    else s.updThread tid (fun t => { t with wait := none })

/-- Wakes a thread if it waits for exactly `w`. -/
def wakeIf (w : Wait) (tid : Nat) (s : State) : State :=
  match s.thread? tid with
  | none => s
  | some t => if t.wait = some w then wake tid s else s

/-- The ids of the threads that satisfy `p`, oldest first. -/
def State.tids (s : State) (p : Thread → Bool) : List Nat := (s.threads.filter (fun x => p x.2)).map (·.1)

/-- Wakes every thread that satisfies `p`. -/
def wakeAll (p : Thread → Bool) (s : State) : State := (s.tids p).foldl (fun s t => wake t s) s

/-- The thread that stands in a slot. -/
def State.threadAt (s : State) (p : Pos) : Option Nat := (s.tids (fun t => t.place == .slot p)).head?

/-- A swap or a halt that waited is due again at a bundle boundary that may take it (R118 YIELD, R148, R157, R162). -/
def boundary (tid : Nat) (s : State) : State :=
  match s.thread? tid with
  | none => s
  | some t =>
    let s := if t.swapReq then s.post .swapStart (.thread tid) else s
    if t.haltReq then s.post .debugHalt (.thread tid) else s

/-- A kill that is held is due again (R148, R310). -/
def killBoundary (tid : Nat) (s : State) : State :=
  match s.thread? tid with
  | none => s
  | some t => if t.kill = .held then s.post .killTaken (.thread tid) else s

/-! ### General registers (R13, R14, R43, R126) -/

/-- Messages that wait for a thread to come to rest are delivered again (R359). -/
def repostMsgs (e : BitVec 32) (s : State) : State :=
  (s.msgs.filter (fun m => m.2.waiting && m.2.epid == e)).foldl (fun s m => s.post .messageDelivery (.num m.1)) s

/-- A waiting message may try again (R150): one from another package when slot 14 of its target's core comes to it. -/
def retryMsg (s : State) (m : Nat × Msg) : State :=
  if m.2.src.pkg = m.2.at_.pkg then s.post .inboxRetry (.num m.1) else { s with msgs := s.msgs.upd m.1 (fun x => { x with retry := true }) }

/-- An inbox entry of a thread has become free: waiting messages try again, in the order in which they came (R150). -/
def retryMsgs (e : BitVec 32) (s : State) : State := (s.msgs.filter (fun m => m.2.waiting && m.2.epid == e)).foldl retryMsg s

/-- Fills a plain register: the value is written, the register is full, a message held for it is delivered after it, and a thread
parked on it is readied (R13, R14, R126); a result owed to a swapped-out thread is written into its image (R159). -/
def regFill (tid r : Nat) (v : Word) (s : State) : State :=
  match s.thread? tid with
  | none => s
  | some t =>
    match t.place with
    | .image _ _ => s.post .owedResultWrite (.threadReg tid r v)
    | _ =>
      let s := match (t.inbox.filter (fun e => e.1 && e.2.1 == r)).getLast? with
        | none => s.updThread tid (·.setReg r v)
        | some e => retryMsgs t.epid (s.updThread tid (fun t =>
            { t.setReg r e.2.2 with inbox := t.inbox.filter (fun e => !(e.1 && e.2.1 == r)) }))
      wakeIf (.reg r) tid s

/-- Threads parked on a special-mapped register bound to a tile's hardware queue: `full` those that wait for room. -/
def queueWaiters (tl : TileRef) (q : Nat) (room : Bool) (t : Thread) : Bool :=
  t.pos.tileRef == tl &&
    match t.wait with
    | some (.reg r) => !room && (56 ≤ r && (r ≤ 59 && ((t.queues.toArray.getD (r - 56) none).map (·.queue) == some q)))
    | some (.queueFull r) => room && ((t.queues.toArray.getD (r - 56) none).map (·.queue) == some q)
    | some (.late r _) => room && ((t.queues.toArray.getD (r - 56) none).map (·.queue) == some q)
    | _ => false

/-- Push to the tile queue behind a bound queue register (R43, R129): one entry more, and readers of the queue are readied. -/
def queuePush (tid r : Nat) (v : Word) (s : State) : State :=
  match s.thread? tid with
  | none => s
  | some t =>
    match t.queues.toArray.getD (r - 56) none with
    | none => s
    | some b =>
      let tl := t.pos.tileRef
      wakeAll (queueWaiters tl b.queue false) (s.updHwQueue tl b.queue (fun q => { q with items := q.items ++ [v] }))

/-- Whether a round has every contribution it waits for (R362). -/
def roundComplete (g : Group) (r : Round) : Bool :=
  g.leaves.all (fun p => g.left.contains p || r.given.any (fun e => e.1 == p))

/-- Adds a contribution to round `i` of the rounds in flight. -/
def addGiven : List Round → Nat → Pos × Word → List Round
  | [], 0, e => [⟨[e], none⟩]
  | [], n + 1, e => ⟨[], none⟩ :: addGiven [] n e
  | r :: rs, 0, e => { r with given := r.given ++ [e] } :: rs
  | r :: rs, n + 1, e => r :: addGiven rs n e

/-- The oldest round of a group completes once it has every contribution (R362). -/
def postRound (part g : Nat) (s : State) : State :=
  match s.group? part g with
  | none => s
  | some gr =>
    match gr.rounds.head? with
    | none => s
    | some r => if roundComplete gr r then s.post .collectiveRoundComplete (.group part g) else s

/-- Adds a contribution to a round of a group, which may be complete with it (R362). -/
def giveRound (part g round : Nat) (e : Pos × Word) (s : State) : State :=
  match s.group? part g with
  | none => s
  | some x =>
    if round < x.first then s else
    let s := s.updGroup part g (fun x => { x with rounds := addGiven x.rounds (round - x.first) e })
    if round = x.first then postRound part g s else s

/-- The package of a launch's root routers: its first. -/
def State.rootPkg (s : State) (launch pkg : Nat) : Nat := ((s.launches.get? launch).bind (·.pkgs.head?)).getD pkg

/-- Contribution to the member's next round (R362); one that is no longer on the package of its leaf sends it there (R360), and one that
has no route to the root of its tree waits for it (R350, R374). -/
def groupContribute (tid r : Nat) (v : Word) (s : State) : State :=
  match s.thread? tid with
  | none => s
  | some t =>
    match t.groups.toArray.getD (r - 52) none with
    | none => s
    | some b =>
      let s := s.updThread tid (fun t => { t with groups := t.groups.setIfInBounds (r - 52) (some { b with sent := b.sent + 1 }) })
      if t.pos.pkg = t.start.pkg ∧ routed s t.start.pkg t.part t.launch (s.rootPkg t.launch t.start.pkg) = true then
        giveRound t.part b.group b.sent (t.start, v) s
      else ({ s.tick with contribs := s.contribs.set s.fresh ⟨t.part, b.group, b.sent, t.start, v, t.pos.pkg, t.launch, false⟩ }).post
        .groupContribute (.num s.fresh)

/-- The write action of a destination field (R43): g0 discards, g52 to g55 contribute, g56 to g59 push, every other is filled. -/
def regWrite (tid r : Nat) (v : Word) (s : State) : State :=
  if r = 0 then s
  else if 52 ≤ r ∧ r ≤ 55 then groupContribute tid r v s
  else if 56 ≤ r ∧ r ≤ 59 then queuePush tid r v s
  else regFill tid r v s

/-- The hardware queue behind a queue register. -/
def Thread.queueOf (t : Thread) (r : Nat) : Option Nat :=
  if 56 ≤ r ∧ r ≤ 59 then (t.queues.toArray.getD (r - 56) none).map (·.queue) else none

/-- How many registers of a list are bound to the queue behind `r`. -/
def Thread.sharing (t : Thread) (r : Nat) (rs : List Nat) : Nat := (rs.filter (fun x => (t.queueOf x).isSome && t.queueOf x == t.queueOf r)).length

/-- Whether the queue behind a queue register has no room for `n` entries and one more (R9: 64 entries). -/
def queueFullBy (s : State) (t : Thread) (n r : Nat) : Bool :=
  match t.queueOf r with
  | none => false
  | some q => 64 ≤ (s.hwQueue t.pos.tileRef q).items.length + n

/-- Whether the queue behind a queue register has no room. -/
def queueFull (s : State) (t : Thread) (r : Nat) : Bool := queueFullBy s t 0 r

/-- The first register of those that a bundle writes, in the order of its writes, whose queue has no room left for it (R43). The room
that the bundle's own read of a full queue would make does not count, which R43 leaves open (log 58). -/
def fullAmong (s : State) (t : Thread) : List Nat → List Nat → Option Nat
  | _, [] => none
  | before, d :: ds => if queueFullBy s t (t.sharing d before) d then some d else fullAmong s t (d :: before) ds

/-- A result that a waiting thread's request owes it is written and the thread readied (R15, R61); a result bound for a full queue
waits for room. -/
def finish (tid d : Nat) (v : Word) (s : State) : State :=
  match s.thread? tid with
  | none => s
  | some t =>
    if 56 ≤ d ∧ d ≤ 59 ∧ queueFull s t d = true then s.updThread tid (fun t => { t with wait := some (.late d v) })
    else wake tid (regWrite tid d v s)

/-- What a source field finds in a register (R41, R43): its value, nothing yet, or that it is bound to nothing. -/
inductive Source where
  | value (v : Word)
  | empty
  | unbound
deriving DecidableEq, Repr

/-- Looks at a source register without its read action (R41, R251, R362); a result of a member that has moved comes through Span (R360). -/
def sourceOf (s : State) (t : Thread) (r : Nat) : Source :=
  if r < 48 ∨ 59 < r then (if t.full r then .value (t.reg r) else .empty)
  else if r ≤ 51 then
    match t.streams.toArray.getD (r - 48) none with
    | none => .unbound
    | some b => match b.fifo with
      | [] => .empty
      | v :: _ => .value v
  else if r ≤ 55 then
    match t.groups.toArray.getD (r - 52) none with
    | none => .unbound
    | some b => match b.results with
      | v :: _ => if routed s t.pos.pkg t.part t.launch t.start.pkg then .value v else .empty
      | [] => if b.sent ≤ b.got then .unbound else .empty
  else
    match t.queues.toArray.getD (r - 56) none with
    | none => .unbound
    | some b => match (s.hwQueue t.pos.tileRef b.queue).items with
      | v :: _ => .value v
      | [] => .empty

/-- What a source field finds beside the distinct registers that the bundle names before it: those bound to one hardware queue read
successive entries (R41, R43). -/
def sourceAmong (s : State) (t : Thread) (before : List Nat) (r : Nat) : Source :=
  match t.queueOf r with
  | none => sourceOf s t r
  | some q => match (s.hwQueue t.pos.tileRef q).items.drop (t.sharing r (before.filter (· != r)).eraseDups) with
    | v :: _ => .value v
    | [] => .empty

/-- The read action of a stream register (R251): pops the oldest entry; the register unbinds itself with the last element, and a job
that waited for room goes on. -/
def streamPop (tid r : Nat) (s : State) : State :=
  match s.thread? tid with
  | none => s
  | some t =>
    match t.streams.toArray.getD (r - 48) none with
    | none => s
    | some b =>
      let rest := b.fifo.tail
      let s := s.updThread tid (fun t => { t with
        streams := t.streams.setIfInBounds (r - 48) (if rest.isEmpty && b.ended then none else some { b with fifo := rest }) })
      if b.fifo.length = 16 then s.post .copyChunk (.tile t.pos.tileRef) else s

/-- The read action of a group register (R362): takes the oldest unread result. -/
def groupRead (tid r : Nat) (s : State) : State :=
  s.updThread tid (fun t => match t.groups.toArray.getD (r - 52) none with
    | none => t
    | some b => { t with groups := t.groups.setIfInBounds (r - 52) (some { b with results := b.results.tail }) })

/-- The read action of a queue register (R43, R129): pops the oldest entry; writers that wait for room are readied, an MSTA whose
status waits for room among them. -/
def queuePop (tid r : Nat) (s : State) : State :=
  match s.thread? tid with
  | none => s
  | some t =>
    match t.queues.toArray.getD (r - 56) none with
    | none => s
    | some b =>
      let tl := t.pos.tileRef
      let s := s.updHwQueue tl b.queue (fun q => { q with items := q.items.tail })
      let s := if (s.tile tl).matQ.isEmpty then s else s.post .mstaService (.tile tl)
      let s := s.threads.foldl (fun s x => (x.2.relaxed.filter (fun a => 56 ≤ a.d && (a.d ≤ 59 &&
        (x.2.pos.tileRef == tl && (x.2.queues.toArray.getD (a.d - 56) none).map (·.queue) == some b.queue)))).foldl (fun s a =>
          s.post .relaxedReply (.threadNum x.1 a.id)) s) s
      (s.tids (queueWaiters tl b.queue true)).foldl (fun s w =>
        match s.thread? w with
        | some x => match x.wait with
          | some (.late d v) => finish w d v s
          | _ => wake w s
        | none => s) s

/-- The read action of a register named in a source field (R43, R44). -/
def readAction (tid r : Nat) (s : State) : State :=
  if r < 48 ∨ 59 < r then s
  else if r ≤ 51 then streamPop tid r s
  else if r ≤ 55 then groupRead tid r s
  else queuePop tid r s

/-! ### Translation (R151 to R156) -/

/-- A valid virtual address: bits 63:52 equal bit 51 (R151). -/
def vaOk (va : Nat) : Bool := bits va 63 52 == (if bitAt va 51 then 0xFFF else 0)

/-- The next table of an entry of level 1 or 2 (R152): V = 1, LEAF = 0, every other bit outside 47:11 zero. -/
def tableNext (e : Nat) : Option Nat := if e % 2048 = 1 ∧ e < 2 ^ 48 then some (bits e 47 11 * 2 ^ 15) else none

/-- A present leaf. -/
def isLeaf (e : Nat) : Bool := bitAt e 0 && bitAt e 8
def leafPS (e : Nat) : Bool := bitAt e 9
def leafAper (e : Nat) : Nat := bits e 59 58
def leafPeer (e : Nat) : Nat := bits e 57 48
def leafFE (e : Nat) : Bool := bitAt e 5

/-- The checks of a leaf that do not depend on the access (R152 to R155): `k` is log2 of the page size. -/
def leafOk (e k : Nat) : Bool :=
  isLeaf e && (bits e 11 10 == 0 && (leafAper e != 3 && ((leafAper e == 1 || leafPeer e == 0) &&
    (bits e 47 12 % 2 ^ (k - 16) == 0 && !(leafAper e == 2 && leafFE e)))))

/-- The page walk of a partition's tables (R151, R153): the leaf with its page and the table words read, or none for XLATE. -/
def walk (s : State) (root pkg part va : Nat) : Option TlbEntry :=
  let ent := fun a => s.rd (devAddr pkg a) 8
  let page := fun (k : Nat) (e : Nat) (ws : List Nat) =>
    if leafOk e k then some (⟨part, root, va / 2 ^ k * 2 ^ k, 2 ^ k, word e, ws.map (fun a => devAddr pkg a / 8)⟩ : TlbEntry) else none
  if vaOk va = false then none
  else
    let a1 := root + bits va 51 40 * 8
    match tableNext (ent a1) with
    | none => none
    | some t2 =>
      let g2 := t2 + bits va 39 28 / 4 * 4 * 8
      if isLeaf (ent g2) then (if leafPS (ent g2) then none else page 30 (ent g2) [a1, g2])
      else
        let a2 := t2 + bits va 39 28 * 8
        match tableNext (ent a2) with
        | none => none
        | some t3 =>
          let g3 := t3 + bits va 27 16 / 32 * 32 * 8
          if isLeaf (ent g3) && leafPS (ent g3) then page 21 (ent g3) [a1, g2, a2, g3]
          else
            let a3 := t3 + bits va 27 16 * 8
            if leafPS (ent a3) then none else page 16 (ent a3) [a1, g2, a2, g3, a3]

/-- Where an access lands: aperture (0 local, 1 peer, 2 host), package, physical address, leaf. -/
structure Target where
  aper : Nat
  pkg : Nat
  pa : Nat
  leaf : Nat
deriving DecidableEq, Repr

/-- Global address of a target; host aperture reaches the memory of the package's own host (log 18). -/
def Target.ga (t : Target) : Nat := if t.aper = 2 then hostAddr t.pkg t.pa else devAddr t.pkg t.pa

/-- Outcome of a translation. -/
inductive Xlat where
  | ok (t : Target)
  | miss
  | fault (cause : Nat)
deriving DecidableEq, Repr

/-- Fault codes (R66). -/
abbrev cILLOP := 0x01
abbrev cILLREG := 0x02
abbrev cPRIV := 0x03
abbrev cALIGN := 0x04
abbrev cXLATE := 0x05
abbrev cPERM := 0x06
abbrev cRAPERM := 0x07
abbrev cFEPAGE := 0x08
abbrev cECC := 0x09
abbrev cTENTOVF := 0x0A
abbrev cKHOLDLONG := 0x0B
abbrev cVNOCLAIM := 0x0C
abbrev cACCUNCFG := 0x0D
abbrev cSLOTFREE := 0x0E
abbrev cHANDLE := 0x0F
abbrev cRANGE := 0x10
abbrev cMIGFAIL := 0x11
abbrev cWDOG := 0x12
abbrev cRLOST := 0x13
abbrev cTRAP := 0x20
abbrev cBRK := 0x21

/-- The permission checks of a leaf (R155): kind 0 read, 1 write, 2 execute, 3 atomic or FE. -/
def leafPermits (e part priv kind : Nat) : Bool :=
  bits e 63 60 == part && ((priv != 0 || bitAt e 4) &&
    (if kind = 0 then bitAt e 1 else if kind = 1 then bitAt e 2 else if kind = 2 then bitAt e 3 else bitAt e 1 && bitAt e 2))

/-- Where an address lands through a leaf (R153, R154). -/
def leafTarget (pkg va : Nat) (e : TlbEntry) : Target :=
  let l := e.leaf.toNat
  let aper := if leafAper l = 1 ∧ leafPeer l = pkg then 0 else leafAper l
  ⟨aper, if aper = 1 then leafPeer l else pkg, bits l 47 12 * 2 ^ 16 + va % e.size, l⟩

/-- The access through a leaf: permission, then the physical address (R153 to R155). -/
def throughLeaf (pkg part priv va kind : Nat) (e : TlbEntry) : Xlat :=
  if leafPermits e.leaf.toNat part priv kind then .ok (leafTarget pkg va e) else .fault cPERM

/-- The cached leaf that covers an address (R156). -/
def tlbFind (s : State) (tl : TileRef) (root part va : Nat) : Option TlbEntry :=
  (s.tile tl).tlb.find? (fun e => e.part == part && (e.root == root && (e.va ≤ va && va < e.va + e.size)))

/-- Translation as the tile's TLB answers it: an invalid address, the cached leaf, or a miss (R151, R156). -/
def translateAt (s : State) (tl : TileRef) (root part priv va kind : Nat) : Xlat :=
  if vaOk va = false then .fault cXLATE
  else match tlbFind s tl root part va with
    | some e => throughLeaf tl.pkg part priv va kind e
    | none => .miss

/-- Translation by a thread (R36). -/
def translate (s : State) (t : Thread) (va kind : Nat) : Xlat := translateAt s t.pos.tileRef (s.cfgOf t).root t.part t.priv va kind

/-- Translation by an engine, which waits for the walk itself: the cached leaf, else the walk's (R156, R248). -/
def translateNow (s : State) (tl : TileRef) (root part priv va kind : Nat) : Xlat :=
  if vaOk va = false then .fault cXLATE
  else match tlbFind s tl root part va with
    | some e => throughLeaf tl.pkg part priv va kind e
    | none => match walk s root tl.pkg part va with
      | some e => throughLeaf tl.pkg part priv va kind e
      | none => .fault cXLATE

/-- Whether a word of memory is a table word that some TLB holds a leaf of (R156). -/
def tableCached (s : State) (w : Nat) : Bool := s.tiles.any (fun x => x.2.tlb.any (fun e => e.words.contains w))

/-! ### Exceptions (R142, R143) -/

/-- A thread takes a synchronous fault (R143): ESTAT, EPC, ECAUSE and EVAL are written, privilege rises, the pc goes to the
partition's handler or, at H, to the firmware entry, and the slot enters ENTRY. `epc` is the saved pc. -/
def Thread.trap (t : Thread) (handler firmware : Word) (cause info : Nat) (eval epc : Word) : Thread :=
  let flags := if t.pfx.getLsbD 4 then t.pfx.toNat % 16 else 0
  let saved := putBits (putBits t.tstat 4 4 (b2n (t.pfx.getLsbD 4))) 9 6 flags
  let priv' := if t.priv = 0 then 1 else 2
  { t with
    estat := saved
    epc := epc
    ecause := word (info * 256 + cause)
    eval := eval
    tstat := putBits (putBits (putBits (putBits t.tstat 1 0 priv') 4 4 0) 9 6 0) 13 13 0
    pc := if priv' = 1 then handler else firmware
    pfx := 0
    afterPfx := false
    vmemPass := 0
    vmemRead := []
    status := .entry
    wait := none }

/-- A thread leaves the line for matrix queue entries, if it stands in it: its reserved entry goes to the next (R266). -/
def leaveMatrixLine (tl : TileRef) (tid : Nat) (s : State) : State :=
  if (s.tile tl).matReserved.contains tid then s.updTile tl (fun x => { x with
    matReserved := x.matReserved.filter (· != tid) ++ x.matFull.take 1, matFull := x.matFull.tail })
  else if (s.tile tl).matFull.contains tid then s.updTile tl (fun x => { x with matFull := x.matFull.filter (· != tid) })
  else s

/-- The fault of a resident thread, with its 32 cycles in ENTRY to come (R60, R143); its bundle waits for no matrix entry any more. -/
def takeTrap (tid cause info : Nat) (eval epc : Word) (s : State) : State :=
  match s.thread? tid with
  | none => s
  | some t =>
    let p := t.pos.pkg
    ((leaveMatrixLine t.pos.tileRef tid s).updThread tid (fun t => t.trap (s.cfgOf t).handler (s.pkg p).blob.firmware cause info eval epc)).post
      .entryEnd (.thread tid)

/-- Return from a handler (R118, R145): TSTAT := ESTAT but for QMODE, which stays the copy of FCTL.QMODE, the pc is EPC, and a saved
prefix governs the bundle there again (R114). -/
def Thread.eret (t : Thread) : Thread :=
  let pf := if bitAt t.estat.toNat 4 then 16 + bits t.estat.toNat 9 6 else 0
  { t with tstat := putBits t.estat 12 12 (bits t.fctl.toNat 12 12), pc := t.epc, pfx := BitVec.ofNat 5 pf, afterPfx := false }

/-! ### Messages (R126, R150) -/

/-- A payload reaches a register of a thread that is not deferring: held while the register awaits a result, else written full. -/
def deliver (tid r : Nat) (v : Word) (s : State) : State :=
  match s.thread? tid with
  | none => s
  | some t =>
    if t.pend.getLsbD r then s.updThread tid (fun t => { t with inbox := t.inbox ++ [(true, r, v)] })
    else regFill tid r v s

/-- The deferred messages are delivered, oldest first, when the thread is back at U (R150); messages that waited for room follow. -/
def releaseInbox (tid : Nat) (s : State) : State :=
  match s.thread? tid with
  | none => s
  | some t =>
    let s := s.updThread tid (fun t => { t with inbox := t.inbox.filter (·.1) })
    let s := (t.inbox.filter (fun e => !e.1)).foldl (fun s e => deliver tid e.2.1 e.2.2 s) s
    retryMsgs t.epid s

/-! ### Context images (R158) -/

/-- First byte of a context image (R158): area `a` of the context memory of the partition, 160 KiB each (log 24). -/
def imageAddr (s : State) (pkg part a : Nat) : Nat := devAddr pkg ((s.part ⟨pkg, part⟩).ctxBase + a * 163840)

/-- The image of a swapped-out thread. -/
def imageOf (s : State) (t : Thread) : Option Nat :=
  match t.place with
  | .image h a => some (imageAddr s h.pkg t.part a)
  | _ => none

/-- Address of the TCM area of a thread, in its slot or in its image (R158). -/
def tcmOf (s : State) (t : Thread) : Nat :=
  match imageOf s t with
  | some b => b + 1024
  | none => devAddr t.pos.pkg (tcmBase t.pos)

/-- TLOG of a thread, live or in its image (R158). -/
def tlogOf (s : State) (t : Thread) : Word :=
  match imageOf s t with
  | some b => s.rdWord (b + 656)
  | none => t.tlog

/-- Changes TSTAT and TLOG of a thread, live or in its image (R158, R315). -/
def updLog (tid : Nat) (f : Word → Word) (g : Word → Word) (s : State) : State :=
  match s.thread? tid with
  | none => s
  | some t =>
    let s := s.updThread tid (fun t => { t with tstat := f t.tstat, tlog := g t.tlog })
    match imageOf s t with
    | none => s
    | some b => { s with mem := memWrite (memWrite s.mem (b + 592) 8 (f (s.rdWord (b + 592))).toNat) (b + 656) 8 (g (s.rdWord (b + 656))).toNat }

/-! ### Reply caches (R352) -/

/-- The port of the destination that keeps the entries of a request (log 10). -/
def replyPort (r : SpanReq) : PortRef := ⟨r.dest, r.src.port⟩

/-- The kind of an access as R352 has it: indivisible, which has an entry in the reply cache. -/
def AccOp.cached : AccOp → Bool
  | .load _ _ => false
  | .store _ => false
  | _ => true

def AccOp.isLoad : AccOp → Bool
  | .load _ _ => true
  | _ => false

/-- The entry of an access in the reply cache, or its store tag, with the time it is kept for: none yet while the access is parked. -/
def keepReply (q : Nat) (r : SpanReq) (v : Option Word) (s : State) : State :=
  if r.host || r.acc.op.isLoad then s
  else
    let e : ReplyEntry := ⟨q, if r.acc.op.cached then v else none, if v.isSome then s.now r.dest + 100000 else 0⟩
    s.updPort (replyPort r) (fun x => { x with replies := x.replies.filter (fun y => y.req != q) ++ [e] })

/-! ### Fills, waiters and locks at a word's point of coherence (R102, R108 to R110) -/

/-- A result of an indivisible access that waited at the word: for a thread of the package it reaches the register, for a round trip
it becomes the request's result, which the reply cache keeps, and its reply leaves (R102, R110, R352). -/
def deliverAt (tid d : Nat) (req : Option Nat) (v : Word) (s : State) : State :=
  match req with
  | none => finish tid d v s
  | some q =>
    let s := match s.reqs.get? q with
      | some r => keepReply q r (some v) s
      | none => s
    ({ s with reqs := s.reqs.upd q (fun r => { r with result := some v, waiting := false }) }).post .memoryReply (.num q)

/-- Serves the waiters of a word that has just been filled, in park order, up to the first LDC, which empties it (R102). -/
def serveFill (w : Nat) : List FeWaiter → State → State
  | [], s => s
  | x :: xs, s =>
    if x.word = w then
      let s := { s with feWaiters := s.feWaiters.erase x }
      let s := match x.job with
        | none => deliverAt x.tid x.d x.req (s.rdWord (8 * w)) s
        | some (tl, e) => (s.updTile tl (fun y => { y with copy := y.copy.upd e (fun c =>
            { c with job := c.job.map (fun j => { j with taken := j.taken.set w (s.rdWord (8 * w)) }) }) })).post .copyChunk (.tile tl)
      if x.consume then { s with fe := feSet s.fe w false } else serveFill w xs s
    else serveFill w xs s

/-- Sets the FE bit of word `w`; a fill serves its waiters (R13, R102). -/
def setFe (w : Nat) (full : Bool) (s : State) : State :=
  let s := { s with fe := feSet s.fe w full }
  if full then serveFill w s.feWaiters s else s

/-- A malformed lock word (R108). -/
def lockMalformed (w : Nat) : Bool :=
  bits w 63 48 != 0 || (bits w 30 26 != 0 || ((!bitAt w 31 && w != 0) || (bitAt w 31 && bits w 47 32 == 0)))

/-- What LOCK by crew `me` finds in a lock word (R109): the new word and the result, or nothing when it must wait. -/
def lockStep (w me : Nat) : Option (Nat × Word) :=
  if lockMalformed w then some (w, ones64)
  else if w = 0 then some (2 ^ 32 + 2 ^ 31 + me, 1)
  else if bits w 25 0 = me then
    (if bits w 47 32 = 0xFFFF then some (w, ones64) else some (w + 2 ^ 32, word (bits w 47 32 + 1)))
  else none

/-- What UNLK by crew `me` does to a lock word (R109): the new word and the result. -/
def unlockStep (w me : Nat) : Nat × Word :=
  if lockMalformed w ∨ w = 0 ∨ bits w 25 0 ≠ me then (w, ones64)
  else
    let c := bits w 47 32 - 1
    (if c = 0 then 0 else w - 2 ^ 32, word c)

/-- Global crew ID of the crew a thread started in (R17, R109). -/
def crewIdOf (s : State) (tid : Nat) : Nat := match s.thread? tid with | some t => t.crew.id26 | none => 0

/-- After a write to lock word `w` (R110): a free lock is granted to its oldest waiter, and every waiter of the crew that holds it is
served, oldest first. -/
def settleLock (w : Nat) : Nat → State → State
  | 0, s => s
  | n + 1, s =>
    match s.lockWaiters.find? (fun x => x.word == w && (let v := s.rd (8 * w) 8
        !lockMalformed v && (v == 0 || bits v 25 0 == crewIdOf s x.tid))) with
    | none => s
    | some x =>
      match lockStep (s.rd (8 * w) 8) (crewIdOf s x.tid) with
      | none => s
      | some (v', r) =>
        let s := { s with lockWaiters := s.lockWaiters.erase x, mem := memWrite s.mem (8 * w) 8 v' }
        settleLock w n (deliverAt x.tid x.d x.req r s)

/-- Writes `n` bytes at a global address, within one 64-bit word, and settles a lock that stands there (R99, R110). -/
def storeAt (a n v : Nat) (s : State) : State :=
  let s := { s with mem := memWrite s.mem a n v, poison := if n = 8 then s.poison.filter (· != a / 8) else s.poison }
  if s.lockWaiters.isEmpty then s else settleLock (a / 8) s.lockWaiters.length s

/-- Writes a whole word with its FE bit full, as engines do (R134). -/
def storeFull (w : Nat) (v : Nat) (s : State) : State := setFe w true (storeAt (8 * w) 8 v s)

/-! ### Undo log (R125) -/

/-- Whether the undo log has room for one more entry. -/
def logRoom (t : Thread) : Bool := bits t.tlog.toNat 42 32 + 16 ≤ bits t.tlog.toNat 26 16

/-- Appends the undo entry of a tentative store to word `w` at virtual address `va` (R125), to the area and TLOG of the thread's image
while it is swapped out (R315). -/
def logUndo (tid va w : Nat) (feOn : Bool) (s : State) : State :=
  match s.thread? tid with
  | none => s
  | some t =>
    let ptr := bits (tlogOf s t).toNat 42 32
    let a := tcmOf s t + ptr
    let addr := va / 8 * 8 + (if feOn then 2 + b2n (feGet s.fe w) else 0)
    let old := s.rd (8 * w) 8
    let s := storeAt a 8 addr s
    let s := storeAt (a + 8) 8 old s
    updLog tid id (fun l => putBits l 42 32 (ptr + 16)) s

end Sys2Proof.Machine
end

