-- ==== Sys2Proof/Machine/TrussOps.lean ====
section
/-!
DEFINITION. Machine/TrussOps.lean: share accounts, HELD, operating points and pools (20 R323 to R334, R339, R421).
-/
namespace Sys2Proof.Machine
open Sys2Proof

/-- The cores of a tile in core order. -/
def coresOf (t : TileRef) : List CoreRef := (List.range 8).map (fun k => ⟨t.pkg, t.die, t.tile, k⟩)

/-- Clock of a point in MHz (R325). -/
def pointMHz (p : Nat) : Nat := [400, 500, 600, 700, 800, 900, 1000, 1100, 1200, 1300, 1400, 1500, 1600, 1800, 2000, 2200].getD p 0

/-- The crew that a 26-bit global crew ID names (R17): the live one that started last, of those whose place has the ID. -/
def crewNamed (s : State) (n : Nat) : CrewRef :=
  match ((s.crews.filter (fun e => e.1.id26 == n && !e.2.retired)).getLast?) with
  | some e => e.1
  | none => ⟨n / 65536 % 1024, n / 4096 % 4, n / 16 % 256, n % 16, 0⟩

/-- The threads of a crew that have not retired. -/
def crewTids (s : State) (c : CrewRef) : List Nat := s.tids (fun t => t.crew == c)

/-- The resident threads of a crew (R329: wherever they are resident). -/
def crewResident (s : State) (c : CrewRef) : List Nat := s.tids (fun t => t.crew == c && t.slot?.isSome)

/-- The crew that holds a loan's shares: the last of its trail. -/
def Loan.holder (l : Loan) : CrewRef := (l.trail.getLast?).getD l.owner

/-- Own shares of a crew that are out on loan (R342 LENT). -/
def lentOf (s : State) (c : CrewRef) : Nat := ((s.loans.filter (fun l => l.owner == c)).map (·.amount)).sum

/-- Whether a loan's shares are in flight, to their target or to the pool (R333). -/
def Loan.inFlight (l : Loan) : Bool := l.at_ == .flight || l.at_ == .toPool

/-- Shares recorded as lent to a crew, surplus included; shares in flight count in no account (R341, R342 BORROWED). -/
def borrowedOf (s : State) (c : CrewRef) : Nat :=
  ((s.loans.filter (fun l => l.owner != c && (!l.inFlight && l.trail.contains c))).map (·.amount)).sum

/-- Own shares that a crew holds on its home tile: those neither lent nor held back in its pool (R323, R334). -/
def ownHeld (s : State) (c : CrewRef) : Nat :=
  match s.crew? c with
  | none => 0
  | some x => x.own - lentOf s c - x.away

/-- Shares a crew holds on its home tile: its own, and the borrowed shares credited there (R323). -/
def crewHeld (s : State) (c : CrewRef) : Nat :=
  ownHeld s c + ((s.loans.filter (fun l => l.owner != c && (l.at_ == .held && l.holder == c))).map (·.amount)).sum

/-- Visitor shares on a tile (R323, R334). -/
def visitorHeld (s : State) (tl : TileRef) : Nat :=
  ((s.threads.filter (fun x => x.2.slot?.map (·.tileRef) == some tl)).map (·.2.visitor)).sum

/-- Shares that a tile cannot debit yet, since its point cannot fall yet; they stay in its HELD (R333, R409). -/
def leavingShares (s : State) (tl : TileRef) : Nat :=
  ((s.loans.filter (fun l => l.leaves == some tl)).map (·.amount)).sum +
    ((s.transits.filter (fun e => e.2.leaves == some tl)).map (·.2.amount)).sum

/-- HELD of a tile without its floor draw and without what is about to leave it (R325). -/
def heldNoFloor (s : State) (tl : TileRef) : Nat :=
  ((s.crews.filter (fun x => x.1.tileRef == tl)).map (fun x => crewHeld s x.1)).sum + visitorHeld s tl +
    ((s.tile tl).slackIn.map (·.2)).sum

/-- HELD of a tile (R325, R327). -/
def held (s : State) (tl : TileRef) : Nat := heldNoFloor s tl + leavingShares s tl + (s.tile tl).floor

/-- Whether a clock lies, with its harmonics 1 to 7, clear of the bands of the plan (R408). -/
def clockClear (plan : List Word) (mhz : Nat) : Bool :=
  plan.all (fun b => !b.getLsbD 63 || [1, 2, 3, 4, 5, 6, 7].all (fun k =>
    !(bits b.toNat 14 0 ≤ k * mhz && k * mhz ≤ bits b.toNat 46 32)))

/-- Whether a point of a tile is enabled: by the clock plan (R408) and by its margin (R410). -/
def pointEnabled (s : State) (tl : TileRef) (p : Nat) : Bool :=
  clockClear (s.pkg tl.pkg).clkplan (pointMHz p) && !((s.tile tl).disabled.contains p)

/-- The cap of a tile: the lowest virtual state among its resident crews, with the physical point it maps to (R339). Where crews of two
partitions share that lowest state, the table of the first one's partition counts, which the rule leaves open (log 57). -/
def tileCap (s : State) (tl : TileRef) : Option (Nat × Nat) :=
  (s.crews.filterMap (fun x =>
    if x.1.tileRef = tl ∧ x.2.retired = false ∧ (crewResident s x.1).isEmpty = false then
      x.2.cap.map (fun v => (v, (s.part ⟨tl.pkg, x.2.part⟩).vstates.getD v 15)) else none)).foldl
    (fun a x => match a with
      | none => some x
      | some y => if x.1 < y.1 then some x else some y) none

/-- Cost of a point on a tile (R325). -/
def pointCost (s : State) (tl : TileRef) (p : Nat) : Nat := (s.tile tl).costs.getD p 0

/-- A fenced tile that no thread is left on is gated for good (R410). -/
def goneTile (s : State) (tl : TileRef) : Bool :=
  (s.tile tl).fenced && !s.threads.any (fun x => x.2.slot?.map (·.tileRef) == some tl)

/-- The highest enabled point that a number of shares pays for under the cap; none when the tile is gated (R326). -/
def bestPoint (s : State) (tl : TileRef) (shares : Nat) : Option Nat :=
  if goneTile s tl then none else
  let lim := ((tileCap s tl).map (·.2)).getD 15
  ((List.range 16).filter (fun p => p ≤ lim && (pointEnabled s tl p && pointCost s tl p ≤ shares))).getLast?

/-- The highest point that cap and clock plan allow, whatever is held (R332). -/
def topPoint (s : State) (tl : TileRef) : Option Nat := bestPoint s tl 1000000

/-- Rewritten costs apply from a tile's next point change (R325). -/
def adoptCosts (tl : TileRef) (s : State) : State :=
  s.updTile tl (fun x => { x with costs := x.newCosts.getD x.costs, newCosts := none })

/-- The lower of a point and the point that a tile may select; none is below every point. -/
def lowerPoint (p : Nat) : Option Nat → Option Nat
  | none => none
  | some q => some (min p q)

/-- The cycle that every core of a tile has reached. -/
def tileCycle (s : State) (tl : TileRef) : Nat := ((coresOf tl).map (fun c => (s.core c).cycle)).foldl max 0

/-- Whether a droop's stretched cycles hold the tile's point (R409). -/
def pointHeld (s : State) (tl : TileRef) : Bool :=
  match (s.tile tl).drpFrom with
  | some f => (s.tile tl).point.isSome && tileCycle s tl < f + 6
  | none => false

/-- A tile whose HELD has fallen, or that may select less, lowers its point (R333), unless a droop holds it (R409); the change adopts
rewritten costs (R325). -/
def dropPoint (tl : TileRef) (s : State) : State :=
  match (s.tile tl).point with
  | none => s
  | some p =>
    if pointHeld s tl || lowerPoint p (bestPoint s tl (held s tl)) = some p then s
    else
      let s := adoptCosts tl s
      s.updTile tl (fun x => { x with point := lowerPoint p (bestPoint s tl (held s tl)) })

/-! ### Shares in flight (R323, R333) -/

/-- The tile that shares which are to leave it wait on, while a droop holds its point (R333, R409; log 51). -/
def heldTile (s : State) (tl : TileRef) : Option TileRef := if pointHeld s tl then some tl else none

/-- The package of the account that shares go to. -/
def ShareDest.pkg : ShareDest → Nat
  | .pool p => p.pkg
  | .own c => c.pkg
  | .away c => c.pkg
  | .slack p _ => p.pkg
  | .floor tl => tl.pkg
  | .reserve k => k
  | .free k => k
  | .visitor _ c q => (q.map (·.pkg)).getD c.pkg

/-- Shares that an account has been debited are in flight to another; the tile they leave, if any, has lowered its point (R333). -/
def sendShares (src : Option TileRef) (n : Nat) (dest : ShareDest) (s : State) : State :=
  if n = 0 then s
  else
    let id := s.fresh
    let leaves := src.bind (heldTile s)
    let s := { s.tick with transits := s.transits.set id ⟨n, dest, leaves⟩ }
    let s := if leaves.isNone then s.post .shareCredit (.num id) else s
    match src with
    | some tl => dropPoint tl s
    | none => s

/-- Shares that reach a partition's pool pay its debt first (R421); the pool keeps the rest. Those of a partition that is gone are Free. -/
def creditPool (p : PartRef) (n : Nat) (s : State) : State :=
  if (s.parts.get? p).isNone then s.updPkg p.pkg (fun x => { x with freeShares := x.freeShares + n })
  else
    let d := min (s.part p).debt n
    (s.updPart p (fun x => { x with debt := x.debt - d, pool := x.pool + (n - d) })).updPkg p.pkg
      (fun x => { x with freeShares := x.freeShares + d })

/-- Takes up to `n` shares from a partition's pool. -/
def debitPool (p : PartRef) (n : Nat) (s : State) : State := s.updPart p (fun x => { x with pool := x.pool - n })

/-- Whether a loan's shares lie in a partition's pool as surplus: the pool of the crew that first lent them (R332). -/
def Loan.parkedAt (s : State) (p : PartRef) (l : Loan) : Bool :=
  l.at_ == .pool && (l.owner.pkg == p.pkg && ((s.crew? l.owner).map (·.part)) == some p.part)

/-- Surplus of some loans that lies in a partition's pool. -/
def parkedIn (s : State) (ls : List Loan) (p : PartRef) : Nat := ((ls.filter (fun l => l.parkedAt s p)).map (·.amount)).sum

/-- Surplus of loans and held-back shares that lie in a pool and pay for no new crew (R332, R334). -/
def poolReserved (s : State) (p : PartRef) : Nat :=
  parkedIn s s.loans p + ((s.crews.filter (fun x => x.1.pkg == p.pkg && x.2.part == p.part)).map (·.2.away)).sum

/-- The crew is blocked (R329) as last decided. -/
def crewBlocked (s : State) (c : CrewRef) : Bool := ((s.crew? c).map (·.blocked)).getD false

/-- Slack of a pool is taken back from the tiles that borrowed it, which lower their points and are debited first (R337). -/
def reclaimSlack (p : PartRef) (s : State) : State :=
  let out := (s.part p).slackOut
  out.foldl (fun s e => sendShares (some e.1) e.2 (.pool p)
    (s.updTile e.1 (fun x => { x with slackIn := x.slackIn.filter (fun y => y.1 != p.part) })))
    (s.updPart p (fun x => { x with slackOut := [] }))

/-- Tiles that a loan's shares have stood on. -/
def Loan.tiles (l : Loan) : List TileRef := (l.owner :: l.trail).map (·.tileRef)

/-- A loan whose shares set out from where they lie: `trail` is the way they will have come by. -/
def Loan.fly (s : State) (l : Loan) (trail : List CrewRef) (target : Party) (at_ : ShareAt) : Loan :=
  { l with trail := trail, target := target, at_ := at_, leaves := if l.at_ = .held then heldTile s l.holder.tileRef else none }

/-- Whether the pools hold the parked surplus that leaves them with new loans; slack that they have lent may be part of it. -/
def loansCovered (s : State) (new : List Loan) : Bool :=
  (s.parts.map (·.1)).all (fun p => parkedIn s s.loans p - parkedIn s new p ≤ (s.part p).pool)

/-- Replaces the loans: pools are debited for the surplus that leaves them, the tiles that held shares lower their points first, and
shares put in flight, which get numbers of their own, will be credited (R332, R333). -/
def setLoans (new : List Loan) (s : State) : State :=
  let old := s.loans
  let sets := fun (l : Loan) => l.inFlight && !old.contains l
  let s := (s.parts.map (·.1)).foldl (fun s p => debitPool p (parkedIn s old p - parkedIn s new p) s) s
  let new := new.zipIdx.map (fun x => if sets x.1 then { x.1 with id := s.fresh + x.2 } else x.1)
  let s := { s with loans := new, fresh := s.fresh + new.length }
  let s := (new.filter (fun l => sets l && l.leaves.isNone)).foldl (fun s l => s.post .shareCredit (.num l.id)) s
  ((old ++ new).filter (fun l => !(old.contains l && new.contains l))).flatMap Loan.tiles |>.eraseDups.foldl (fun s tl => dropPoint tl s) s

/-- Replaces the loans once the pools can pay: slack that they miss is taken back first (R337). -/
def moveLoans (new : List Loan) (s : State) : State :=
  if new = s.loans then s
  else if loansCovered s new then setLoans new s
  else ((s.parts.map (·.1)).filter (fun p => decide ((s.part p).pool < parkedIn s s.loans p - parkedIn s new p))).foldl
    (fun s p => reclaimSlack p s) s

/-- Whether `moveLoans` would do something. -/
def loansMovable (s : State) (new : List Loan) : Bool :=
  new != s.loans && (loansCovered s new || (s.parts.map (·.1)).any (fun p =>
    decide ((s.part p).pool < parkedIn s s.loans p - parkedIn s new p) && !(s.part p).slackOut.isEmpty))

/-- Whether a crew has retired. -/
def crewGone (s : State) (c : CrewRef) : Bool := ((s.crew? c).map (·.retired)).getD true

/-- A loan on whose way a crew has retired (R334): what that crew held or passed on goes back to the crew before it, and what a retired
crew lent goes home. Shares in flight follow when they have been credited (R333); surplus stays recorded against a retired target (R328). -/
def Loan.mend (s : State) (l : Loan) : Loan :=
  let back := fun (tr : List CrewRef) => let h := (tr.getLast?).getD l.owner
    l.fly s (if h = l.owner then [l.owner] else tr) (.crew h) .flight
  let tr := l.trail.takeWhile (fun c => !crewGone s c)
  let way := match l.target with
    | .crew d => if l.at_ = ShareAt.pool ∧ l.trail.getLast? = some d then l.trail.dropLast else l.trail
    | .span _ => l.trail
  if l.inFlight then l
  else if crewGone s l.owner then l.fly s [l.owner] (.crew l.owner) .flight
  else if way.any (crewGone s) then back tr
  else l

/-- The loans that retired crews leave. -/
def mended (s : State) : List Loan := s.loans.map (Loan.mend s)

/-- Own shares of a crew that is swapped out go to its pool, held back (R334, R347). -/
def holdBack (c : CrewRef) (s : State) : State :=
  sendShares (some c.tileRef) (ownHeld s c) (.away c) (s.updCrew c (fun x => { x with own := x.own - ownHeld s c }))

/-- Shares that reach a crew's own account: a crew that is swapped out has them held back, a retired one leaves them to its pool. -/
def creditOwn (c : CrewRef) (n : Nat) (s : State) : State :=
  match s.crew? c with
  | none => s.updPkg c.pkg (fun x => { x with freeShares := x.freeShares + n })
  | some x =>
    if x.retired then creditPool ⟨c.pkg, x.part⟩ n s
    else
      let s := s.updCrew c (fun x => { x with own := x.own + n })
      if x.heldBack then holdBack c s else s

/-- Shares held back reach the pool, whose debt they pay first (R421); a crew that is back meanwhile will be paid (R334). -/
def creditAway (c : CrewRef) (n : Nat) (s : State) : State :=
  match s.crew? c with
  | none => s.updPkg c.pkg (fun x => { x with freeShares := x.freeShares + n })
  | some x =>
    let p : PartRef := ⟨c.pkg, x.part⟩
    let k := n - min (s.part p).debt n
    creditPool p n (if x.retired then s else s.updCrew c (fun x => { x with
      own := x.own + k, away := x.away + k, waiting := x.waiting || !x.heldBack }))

/-- A loan's shares reach the pool of the crew that lent them, as surplus (R332); they pay the pool's debt first, and that crew's account
shrinks by as much (R421; log 35). -/
def parkLoan (l : Loan) (s : State) : State :=
  match s.crew? l.owner with
  | none => s.updPkg l.owner.pkg (fun x => { x with freeShares := x.freeShares + l.amount })
  | some o =>
    let p : PartRef := ⟨l.owner.pkg, o.part⟩
    let d := min (s.part p).debt l.amount
    let s := creditPool p l.amount (s.updCrew l.owner (fun o => { o with own := o.own - d }))
    if l.amount ≤ d then s else { s with loans := s.loans ++ [{ l with amount := l.amount - d, at_ := .pool, leaves := none }] }

/-- Visitor shares set out with a thread from the tile it stands on: they reach it where it stands next. -/
def carryShares (tid : Nat) (t : Thread) (n : Nat) (s : State) : State :=
  sendShares (some t.pos.tileRef) n (.visitor tid t.crew (if t.visitorPool then some ⟨t.pos.pkg, t.part⟩ else none))
    (s.updThread tid (fun t => { t with visitor := 0 }))

/-- Shares on their way to a thread can be credited now: it has come to rest, or has retired. -/
def postVisitor (tid : Nat) (s : State) : State :=
  (s.transits.filter (fun e => e.2.leaves.isNone && (match e.2.dest with | .visitor t _ _ => t == tid | _ => false))).foldl
    (fun s e => s.post .shareCredit (.num e.1)) s

/-- Visitor shares go back to the pool that paid them or to their crew's own account (R334). -/
def creditBack (c : CrewRef) (pool : Option PartRef) (n : Nat) (s : State) : State :=
  match pool with
  | some p => creditPool p n s
  | none => creditOwn c n s

/-- The shares of a retiring thread (R324, R334): visitor shares go back, and with the last thread of the crew its loans are repaid
and its own shares go to the pool. The thread itself has left the table. -/
def retireShares (tid : Nat) (t : Thread) (s : State) : State :=
  let p : PartRef := ⟨t.crew.pkg, t.part⟩
  let s := postVisitor tid (sendShares (some t.pos.tileRef) t.visitor
    (if t.visitorPool then .pool ⟨t.pos.pkg, t.part⟩ else .own t.crew) s)
  if (crewTids s t.crew).isEmpty ∧ (s.crew? t.crew).isSome then
    let parked := ((s.loans.filter (fun l => l.owner == t.crew && l.at_ == ShareAt.pool)).map (·.amount)).sum
    let s := { s with loans := s.loans.filter (fun l => !(l.owner == t.crew && l.at_ == ShareAt.pool)) }
    let s := s.updCrew t.crew (fun c => { c with own := c.own - parked - c.away, away := 0, retired := true, heldBack := false, waiting := false, cap := none })
    let s := moveLoans (mended s) s
    let n := ownHeld s t.crew
    sendShares (some t.crew.tileRef) n (.pool p) (s.updCrew t.crew (fun c => { c with own := c.own - n }))
  else s

/-- Shares of a thread that leaves its tile (R334): its portion of the crew's own shares, or the visitor shares it carries; across
packages they go to the source package's pool, and the thread asks the destination's pool for as many. -/
def leaveShares (tid : Nat) (t : Thread) (dst : Pos) (s : State) : State :=
  let home := t.crew.tileRef = t.pos.tileRef
  let own := ((s.crew? t.crew).map (·.own)).getD 0
  let n := if home then min (own / max 1 (crewResident s t.crew).length) (ownHeld s t.crew) else t.visitor
  let s := if home then s.updCrew t.crew (fun c => { c with own := c.own - n }) else s
  if dst.pkg = t.pos.pkg then carryShares tid t n s
  else
    let p : PartRef := ⟨t.pos.pkg, t.part⟩
    let s := postVisitor tid s
    let s := { s with transits := s.transits.map (fun (e : Nat × Transit) => match e.2.dest with
      | .visitor k _ _ => if k = tid then (e.1, { e.2 with dest := .pool p }) else e
      | _ => e) }
    sendShares (some t.pos.tileRef) n (.pool p) (s.updThread tid (fun t => { t with visitor := n }))

/-- Shares of a thread that has arrived on another tile (R334). Across packages the pool pays what it holds beyond the shares held back
for a swap-in and the surplus parked in it (log 51). -/
def arriveShares (tid : Nat) (src dst : Pos) (s : State) : State :=
  match s.thread? tid with
  | none => s
  | some t =>
    if src.pkg = dst.pkg then postVisitor tid s
    else
      let p : PartRef := ⟨dst.pkg, t.part⟩
      let n := min t.visitor ((s.part p).pool - poolReserved s p)
      let s := s.updThread tid (fun t => { t with visitor := 0, visitorPool := false })
      if t.crew.tileRef = dst.tileRef then s
      else sendShares none n (.visitor tid t.crew (some p)) (debitPool p n s)

end Sys2Proof.Machine
end

