-- ==== Sys2Proof/Machine/Units.lean ====
section
/-!
DEFINITION. Machine/Units.lean: what threads hold of the engines and how they give it back: lanes, operand slots, accumulator tiles,
copy jobs, group and queue bindings; and how a thread retires.
-/
namespace Sys2Proof.Machine
open Sys2Proof

/-- The quads of a tile. -/
def quadsOf (t : TileRef) : List QuadRef := [⟨t.pkg, t.die, t.tile, 0⟩, ⟨t.pkg, t.die, t.tile, 1⟩]

/-- A core takes part in the rotation of turns (log 2). -/
def addFocus (c : CoreRef) (s : State) : State := if s.focus.contains c then s else { s with focus := s.focus ++ [c] }

/-- An event reaches the core that its partition configures, whose slot 15 will work on it (R149; log 45). -/
def raiseSystem (e : SysEvent) (s : State) : State := addFocus e.core { s with sysEvents := s.sysEvents ++ [e] }

/-- The event that serves an entry of a matrix engine's queue. -/
def MatOp.event : MatOp → Instr
  | .mlda .. => .mldaService
  | .mma .. => .mmaStart
  | .mzero _ => .mzeroService
  | .msta .. => .mstaService

/-- The oldest entry of a matrix engine comes into service (R265). -/
def kickMatrix (tl : TileRef) (s : State) : State :=
  match (s.tile tl).matQ with
  | [] => s
  | e :: _ => s.post (if e.started then .mmaComplete else e.op.event) (.tile tl)

/-! ### Lane pool (R187 to R191) -/

/-- Changes the lanes a thread holds (R190). -/
def Thread.setVlen (t : Thread) (k : Nat) : Thread :=
  { t with vlen := k, v := t.v.map (resizeTo 0#32 k), m := t.m.map (resizeTo false k) }

/-- Whether a thread stands on a tile. -/
def onTile (tl : TileRef) (t : Thread) : Bool := t.slot?.map (·.tileRef) == some tl

/-- The core whose lane group a thread belongs to: that of its slot, and on its way to another core of its tile, where its claim is
negotiated again, that of the slot it comes from (R56, R188, R190; log 43). -/
def Thread.laneCore (t : Thread) : Option CoreRef :=
  match t.place with
  | .slot p => some p.coreRef
  | .image _ _ => none
  | .flight a b => if a.tileRef = b.tileRef then some a.coreRef else none

/-- G(c): the largest VLEN held on a core (R188), leaving out thread `me`. -/
def laneGroup (s : State) (c : CoreRef) (me : Nat) : Nat :=
  ((s.threads.filter (fun x => x.1 != me && x.2.laneCore == some c)).map (·.2.vlen)).foldl max 0

/-- Whether a core is counted in n: a thread of it is Held or Pending (R188). -/
def laneCounted (s : State) (c : CoreRef) : Bool :=
  s.threads.any (fun x => x.2.claim != .none && x.2.laneCore == some c)

/-- The lanes that a request `q` of a thread is granted now (R189). -/
def laneGrant (s : State) (tid : Nat) (t : Thread) (q : Nat) : Nat :=
  let p := t.pos
  let cores := (List.range 8).map (fun k => (⟨p.pkg, p.die, p.tile, k⟩ : CoreRef))
  let n := (cores.filter (fun c => c == p.coreRef || laneCounted s c)).length
  let tt := 256 / n / 8 * 8
  let a := 256 - ((cores.filter (· != p.coreRef)).map (fun c => laneGroup s c tid)).sum
  let f := 1048576 - 128 * ((s.threads.filter (fun x => x.1 != tid && x.2.laneCore.map (·.tileRef) == some p.tileRef)).map (·.2.vlen)).sum
  min (min q tt) (min a (f / 1024 * 8))

/-- A renegotiation point with request `q` (R189, R190). -/
def renegotiate (tid q : Nat) (s : State) : State :=
  match s.thread? tid with
  | none => s
  | some t =>
    let k := laneGrant s tid t q
    s.updThread tid (fun t => if 8 ≤ k then { t.setVlen k with claim := .held q } else { t.setVlen 0 with claim := .pending q })

/-- A swapped-in thread becomes READY: its lanes are renegotiated (R190, R191). -/
def restoreLanes (tid : Nat) (s : State) : State :=
  match s.thread? tid with
  | none => s
  | some t => if t.savedVlen = 0 then s else renegotiate tid t.savedVlen (s.updThread tid (fun t => { t with savedVlen := 0 }))

/-- The remembered request of a claim state (R188). -/
def Claim.request (c : Claim) : Option Nat :=
  match c with
  | Claim.none => Option.none
  | Claim.held q => some q
  | Claim.pending q => some q

/-- A claim or Pending state ends (R191). -/
def Thread.endClaim (t : Thread) : Thread := { t.setVlen 0 with claim := .none }

/-! ### Matrix resources (R258 to R263) -/

/-- Whether a queue entry names an operand slot. -/
def MatOp.usesSlot (k : Nat) : MatOp → Bool
  | .mlda s _ _ _ => s == k
  | .mma a b _ _ => a == k || b == k
  | _ => false

/-- Whether a queue entry names an accumulator tile (R263). -/
def MatOp.usesAcc (k : Nat) : MatOp → Bool
  | .mma _ _ t _ => t == k
  | .mzero t => t == k
  | .msta t _ _ _ => t == k
  | _ => false

def slotOf (s : State) (tl : TileRef) (k : Nat) : OpSlot := (s.tile tl).slots.getD k OpSlot.init
def setSlot (tl : TileRef) (k : Nat) (f : OpSlot → OpSlot) (s : State) : State :=
  s.updTile tl (fun x => { x with slots := x.slots.updD k OpSlot.init f })
def accOf (s : State) (tl : TileRef) (k : Nat) : AccTile := (s.tile tl).accs.getD k AccTile.init
def setAcc (tl : TileRef) (k : Nat) (f : AccTile → AccTile) (s : State) : State :=
  s.updTile tl (fun x => { x with accs := x.accs.updD k AccTile.init f })

/-- LOCK of an accumulator tile (R263). -/
def accLocked (s : State) (tl : TileRef) (k : Nat) : Bool :=
  (s.tile tl).matQ.any (fun e => e.op.usesAcc k) || (accOf s tl k).saving

/-- The release of a slot takes effect once no queued entry names it; the slot then goes to the oldest waiter (R260, R279). -/
def settleSlot (tl : TileRef) (k : Nat) (s : State) : State :=
  if (slotOf s tl k).releasing && !((s.tile tl).matQ.any (fun e => e.op.usesSlot k)) then
    match (s.tile tl).mslotWait with
    | [] => setSlot tl k (fun _ => OpSlot.init) s
    | (w, d) :: rest =>
      let s := setSlot tl k (fun _ => { OpSlot.init with state := .claimed, owner := w }) s
      finish w d (word k) (s.updTile tl (fun x => { x with mslotWait := rest }))
  else s

/-- Begins the release of a slot (R260). -/
def releaseSlot (tl : TileRef) (k : Nat) (s : State) : State := settleSlot tl k (setSlot tl k (fun x => { x with releasing := true }) s)

/-- Swap-ins on a tile that wait for its accumulator tiles look again (R264). -/
def pokeRestore (tl : TileRef) (s : State) : State :=
  (s.tids (fun t => t.status == .swapIn && t.swapTo.map (·.tileRef) == some tl)).foldl (fun s t => s.post .accumulatorRestore (.thread t)) s

/-- The release of an accumulator tile takes effect once no queued entry names it (R262). -/
def settleAcc (tl : TileRef) (k : Nat) (s : State) : State :=
  if (accOf s tl k).releasing && !accLocked s tl k then pokeRestore tl (setAcc tl k (fun _ => AccTile.init) s) else s

/-- Merges flags into FCTL (word 5 of CTL) or MSTAT (word 7) of a thread, live or in its image (R158, R184). -/
def mergeFlags (tid : Nat) (mstat : Bool) (f : Word) (s : State) : State :=
  match s.thread? tid with
  | none => s
  | some t =>
    let s := s.updThread tid (fun t => if mstat then { t with mstat := t.mstat ||| f } else { t with fctl := t.fctl ||| f })
    match imageOf s t with
    | none => s
    | some b =>
      let a := b + 592 + (if mstat then 56 else 40)
      { s with mem := memWrite s.mem a 8 (s.rdWord a ||| f).toNat }

/-- Begins the release of an accumulator tile (R262). -/
def releaseAcc (tl : TileRef) (k : Nat) (s : State) : State := settleAcc tl k (setAcc tl k (fun x => { x with releasing := true }) s)

/-- Operand slots that a thread owns on a tile. -/
def ownedSlots (s : State) (tl : TileRef) (tid : Nat) : List Nat :=
  (List.range 24).filter (fun k => (slotOf s tl k).state != .free && ((slotOf s tl k).owner == tid && !(slotOf s tl k).releasing))

/-- Accumulator tiles that a thread owns on a tile. -/
def ownedAccs (s : State) (tl : TileRef) (tid : Nat) : List Nat :=
  (List.range 8).filter (fun k => (accOf s tl k).state != .free && ((accOf s tl k).owner == tid && !(accOf s tl k).releasing))

/-- Every slot and tile of a thread begins its release (R275 kill and EXIT). -/
def releaseMatrix (tl : TileRef) (tid : Nat) (s : State) : State :=
  let s := (ownedSlots s tl tid).foldl (fun s k => releaseSlot tl k s) s
  (ownedAccs s tl tid).foldl (fun s k => releaseAcc tl k s) s

/-- Whether a thread holds a lane claim, an operand slot or an accumulator tile (R56, R128, R354). -/
def holdsResources (s : State) (tid : Nat) (t : Thread) : Bool :=
  t.claim matches .held _ || (!(ownedSlots s t.pos.tileRef tid).isEmpty || !(ownedAccs s t.pos.tileRef tid).isEmpty)

/-! ### Copy jobs (R248 to R252, R255) -/

/-- The jobs of a thread on its tile, with their entry numbers. -/
def jobsOf (s : State) (tl : TileRef) (tid : Nat) : List (Nat × CopyJob) :=
  (s.tile tl).copy.filterMap (fun x => match x.2.job with | some j => if j.tid = tid then some (x.1, j) else none | none => none)

/-- The TCM area that a thread's jobs may reach is that of the slot it has moved to (R148, R248). -/
def moveJobs (tl : TileRef) (tid : Nat) (p : Pos) (s : State) : State :=
  s.updTile tl (fun x => { x with copy := x.copy.map (fun (e : Nat × CopyEntry) =>
    (e.1, { e.2 with job := e.2.job.map (fun j => if j.tid = tid then { j with pos := p } else j) })) })

/-- Whether a thread has a job QUEUED or RUNNING. -/
def jobsPending (s : State) (tl : TileRef) (tid : Nat) : Bool := (jobsOf s tl tid).any (fun x => x.2.state != .done)

def updJob (tl : TileRef) (e : Nat) (f : CopyJob → CopyJob) (s : State) : State :=
  s.updTile tl (fun x => { x with copy := x.copy.upd e (fun c => { c with job := c.job.map f }) })

/-- Frees a queue entry, whose seq goes on; a CPY that waits for an entry is readied (R248, R252). -/
def freeEntry (tl : TileRef) (e : Nat) (s : State) : State :=
  let s := s.updTile tl (fun x => { x with copy := x.copy.upd e (fun c =>
    if c.job.isSome then { c with job := none, seq := if c.seq = 1023 then 1 else c.seq + 1 } else c) })
  wakeAll (fun t => t.wait == some .copyQueue && onTile tl t) s

/-- Frees the entries of a thread whose jobs ended with an error (R252: TEND, EXIT, kill). -/
def freeErrors (tl : TileRef) (tid : Nat) (s : State) : State :=
  ((jobsOf s tl tid).filter (fun x => x.2.state == .done && x.2.err != 0)).foldl (fun s x => freeEntry tl x.1 s) s

/-- Entries that the event ring has room for; none while it is not set up (R401). -/
def ringRoom (x : Part) : Nat := if 4 ≤ x.erSize ∧ x.erSize ≤ 16 then 2 ^ x.erSize - (x.erSeq - x.erCons) else 0

/-- Counts an event in the partition's fault reporting: an entry for the event ring, merged with one of its KIND that the ring holds
back (R395, R396, R401). -/
def reportFault (p : PartRef) (kind : Nat) (detail : List Word) (s : State) : State :=
  let isIt := fun (e : RingEntry) => e.ty == 3 && e.w0 == word kind
  let s := s.updPart p (fun x =>
    let back := x.held.drop (ringRoom x)
    if back.any isIt then
      { x with held := x.held.take (ringRoom x) ++ back.map (fun e => if isIt e then { e with w1 := e.w1 + 1 } else e) }
    else { x with held := x.held ++ [⟨3, s.now p.pkg, word kind, 1, detail⟩] })
  s.post .eventRingWrite (.part p)

/-- A launch's counter tree reports when nothing of it is outstanding (R388). -/
def launchProgress (l : Nat) (s : State) : State :=
  match s.launches.get? l with
  | none => s
  | some x => if x.started && (x.threads == 0 && x.packets == 0) then s.post .launchComplete (.num l) else s

/-- Counts a packet of a launch done or done-killed (R388). -/
def packetDone (l : Option Nat) (killed : Bool) (s : State) : State :=
  match l with
  | none => s
  | some l => launchProgress l { s with launches := s.launches.upd l (fun x =>
      { x with packets := x.packets - 1, nkill := x.nkill + b2n killed }) }

/-- The status word of a job (R249). -/
def jobStatus (j : CopyJob) : Word :=
  word ((match j.state with | .queued => 0 | .running => 1 | .done => 2) * 2 ^ 62 + j.err * 2 ^ 48 + b2n j.nv * 2 ^ 42 +
    b2n j.of * 2 ^ 41 + b2n j.nx * 2 ^ 40 + j.count)

/-- Whether every condition that FENCE's flags name holds (R111). -/
def fenceOk (s : State) (tid : Nat) (t : Thread) (f : Nat) : Bool :=
  (!bitAt f 0 || t.relaxed.isEmpty) && ((!bitAt f 1 || !jobsPending s t.pos.tileRef tid) && (!bitAt f 2 || t.posted == 0))

/-- A parked FENCE, or a bundle that waits as FENCE.H does, is readied when its conditions hold (R111, R113). -/
def checkFence (tid : Nat) (s : State) : State :=
  match s.thread? tid with
  | none => s
  | some t => match t.wait with
    | some (.fence f) => if fenceOk s tid t f then wake tid s else s
    | some .postH => if t.posted = 0 then wake tid s else s
    | some .drain => if t.relaxed.isEmpty then wake tid s else s
    | some .ninth => if t.relaxed.length < 8 then wake tid s else s
    | some .jobsDone => if jobsPending s t.pos.tileRef tid then s else wake tid s
    | some .copyQueue => wake tid s
    | _ => s

/-- Every CPW parked on the job of an entry receives its status, and the entry is then free (R249, R252). -/
def answerCpw (tl : TileRef) (e : Nat) (s : State) : State :=
  match (s.tile tl).copy.get? e with
  | none => s
  | some c => match c.job with
    | none => s
    | some j =>
      let ws := s.threads.filterMap (fun x => match x.2.wait with
        | some (.job d id tl') => if id = c.seq * 64 + e ∧ tl' = tl ∧ x.2.part = j.part then some (x.1, d) else none
        | _ => none)
      if ws.isEmpty then s else freeEntry tl e (ws.foldl (fun s w => finish w.1 w.2 (jobStatus j) s) s)

/-- The job of an entry. -/
def jobAt (s : State) (tl : TileRef) (e : Nat) : Option CopyJob := ((s.tile tl).copy.get? e).bind (·.job)

/-- An image shows its thread's last bundle not issued: the registers `ds` are owed nothing, and pc and prefix are at the bundle. -/
def imageBackOut (b : Nat) (t : Thread) (ds : List Nat) (s : State) : State :=
  let bit := ds.foldl (fun (m : Word) d => if d = 0 then m else m ||| (1#64 <<< d)) 0
  let ts := s.rdWord (b + 592)
  let ts := if t.issuedPfx.getLsbD 4 then putBits (putBits ts 4 4 1) 9 6 t.issuedPfx.toNat else ts
  let m := memWrite s.mem (b + 512) 8 (s.rdWord (b + 512) ||| bit).toNat
  let m := memWrite m (b + 520) 8 (s.rdWord (b + 520) &&& ~~~bit).toNat
  { s with mem := memWrite (memWrite m (b + 592) 8 ts.toNat) (b + 672) 8 t.issuedPc.toNat }

/-- The wait of a thread's issued bundle is withdrawn, and the bundle issues again, in its slot or after its swap-in; not before its SFU
requests have ended (R217). -/
def reissue (tid : Nat) (ds : List Nat) (s : State) : State :=
  match s.thread? tid with
  | none => s
  | some t =>
    let s := s.updThread tid (fun t => { ds.foldl (fun t d => t.unowe d) t with
      wait := if t.sfuLeft = 0 then none else some .sfu, pc := t.issuedPc, pfx := t.issuedPfx })
    match imageOf s t with
    | some b => (imageBackOut b t ds s).updThread tid (fun t => { t with status := if t.sfuLeft = 0 then .ready else .parked })
    | none => if t.status = .parked ∧ t.sfuLeft = 0 then (s.updThread tid (fun t => { t with status := .waking })).post .parkResume (.thread tid) else s

/-- Whether an address still leads to a word (R102); a word of a TCM area follows its thread to other places (R148). -/
def leadsTo (s : State) (pkg root part va w : Nat) : Bool :=
  match walk s root pkg part va with
  | some e =>
    let tg := leafTarget pkg va e
    tg.ga / 8 == w || (tg.aper == 0 && (match regionOf tg.pa with | .tcm _ _ _ _ => true | _ => false))
  | none => false

/-- Whether the page by which a waiter came is still mapped (R102). -/
def waiterMapped (s : State) (x : FeWaiter) : Bool :=
  match x.job with
  | some (tl, e) => match jobAt s tl e with
    | some j => leadsTo s tl.pkg (s.cfg tl.pkg j.part j.launch).root j.part x.va x.word
    | none => true
  | none => match s.thread? x.tid with
    | some t => leadsTo s t.pos.pkg (s.cfgOf t).root t.part x.va x.word
    | none => true

/-- The reply-cache entry of an access that waits at its word no longer is kept for 100 µs from now (R352). -/
def closeReply (s : State) (e : Nat × SpanReq) : State :=
  if e.2.waiting then s.updPort (replyPort e.2) (fun x => { x with
    replies := x.replies.map (fun y => if y.req = e.1 then { y with until_ := s.now e.2.dest + 100000 } else y) }) else s

/-- The waiters whose page has been unmapped are withdrawn (R102): a thread's bundle issues again, a job goes on (log 44). -/
def dropWaiters (s : State) : State :=
  let gone := s.feWaiters.filter (fun x => !waiterMapped s x)
  if gone.isEmpty then s
  else gone.foldl (fun s x =>
    let s := (s.reqs.filter (fun e => x.req == some e.1)).foldl closeReply s
    let s := { s with
      feWaiters := s.feWaiters.erase x
      reqs := s.reqs.filter (fun (e : Nat × SpanReq) => x.req != some e.1) }
    match x.job with
    | some (tl, _) => s.post .copyChunk (.tile tl)
    | none => reissue x.tid [x.d] s) s

/-- Waiters look again whether their pages are mapped, after a write that may have unmapped one (R102). -/
def recheckWaiters (s : State) : State := if s.feWaiters.isEmpty then s else dropWaiters s

/-- Drops the cached copies of a table word that has been written (R156), and the waiters that came by a page it no longer maps (R102). -/
def dropTlb (w : Nat) (s : State) : State :=
  let s := if tableCached s w then
      { s with tiles := s.tiles.map (fun (e : TileRef × Tile) => (e.1, { e.2 with tlb := e.2.tlb.filter (fun x => !x.words.contains w) })) }
    else s
  recheckWaiters s

/-! ### Vector accesses (R195 to R199) -/

/-- Stores the elements of a pass, in ascending element order (R199), with the coherence of translation (R156). -/
def storePass (data : List Lane) (b : Nat) (es : List (Nat × Nat)) (s : State) : State :=
  es.foldl (fun s e => dropTlb (e.2 / 8) (storeAt e.2 b ((data.getD e.1 0).toNat % 2 ^ (8 * b)) s)) s

/-- Loads the elements of a pass: lanes with what they read. -/
def loadPass (b : Nat) (es : List (Nat × Nat)) (s : State) : List (Nat × Lane) := es.map (fun e => (e.1, BitVec.ofNat 32 (s.rd e.2 b)))

/-- Lanes with those replaced that a load has read. -/
def mergeLanes (old : List Lane) (new : List (Nat × Lane)) : List Lane :=
  old.zipIdx.map (fun x => ((new.find? (fun e => e.1 == x.2)).map (·.2)).getD x.1)

/-- Writes a v register: lanes up to the VLEN that holds after the bundle. -/
def setV (tid vd : Nat) (ls : List Lane) (s : State) : State :=
  s.updThread tid (fun t => { t with v := t.v.setIfInBounds vd (resizeTo 0#32 t.vlen ls) })

/-- A pass is over: what a load has read stays hidden until the last pass writes its register (R198). -/
def endPass (tid : Nat) (x : VTail) (s : State) : State :=
  let s := s.updThread tid (fun t => { t with tail := none })
  match x.load, x.vd with
  | true, some vd => match s.thread? tid with
    | some t => setV tid vd (mergeLanes (resizeTo 0#32 t.vlen (t.v.toArray.getD vd [])) x.got) s
    | none => s
  | true, none => s.updThread tid (fun t => { t with vmemRead := t.vmemRead ++ x.got })
  | false, _ => s

/-- The next `n` elements of a thread's pass are accessed, in ascending element order (R199). -/
def tailStep (tid n : Nat) (s : State) : State :=
  match (s.thread? tid).bind (·.tail) with
  | none => s
  | some x =>
    let es := x.todo.take n
    let y := { x with todo := x.todo.drop n, got := x.got ++ (if x.load then loadPass x.size es s else []) }
    let s := if x.load then s else storePass x.data x.size es s
    if y.todo.isEmpty then endPass tid y s else s.updThread tid (fun t => { t with tail := some y })

/-- What is left of a thread's pass is accessed before anything else happens to the thread (R199). -/
def finishTail (tid : Nat) (s : State) : State := tailStep tid ((((s.thread? tid).bind (·.tail)).map (·.todo.length)).getD 0) s

/-- A pass of a vector access: all its elements, or as many as the turn cuts it to, and the others later (R199; log 41). -/
def passAccess (tid : Nat) (x : VTail) (s : State) : State :=
  tailStep tid (if s.cut = 0 then x.todo.length else s.cut) (s.updThread tid (fun t => { t with tail := some x }))

/-! ### Words of a TCM area that has moved (R138, R148, R255) -/

/-- Where a word of the 2 KiB area at `src` stands once the area is at `dst`. -/
def rehomeWord (src dst w : Nat) : Nat := if src / 8 ≤ w ∧ w < src / 8 + 256 then dst / 8 + (w - src / 8) else w

/-- A table keyed by such words. -/
def rehomeTab {α : Type} (src dst : Nat) (t : Tab Nat α) : Tab Nat α := t.map (fun (e : Nat × α) => (rehomeWord src dst e.1, e.2))

/-- A thread's TCM area has moved, to another slot, into its image or back: what waits at its words, the thread's own waits and those of
its jobs, and what its jobs have read and gathered of them, go with it (R130, R134, R138, R255). -/
def rehome (tl : TileRef) (tid src dst : Nat) (s : State) : State :=
  { s with
    feWaiters := s.feWaiters.map (fun (x : FeWaiter) => if x.tid = tid then { x with word := rehomeWord src dst x.word } else x)
    lockWaiters := s.lockWaiters.map (fun (x : LockWaiter) => if x.tid = tid then { x with word := rehomeWord src dst x.word } else x)
    : State }.updTile tl (fun x => { x with copy := x.copy.map (fun (e : Nat × CopyEntry) =>
      (e.1, { e.2 with job := e.2.job.map (fun j => if j.tid = tid then { j with
        taken := rehomeTab src dst j.taken, olds := rehomeTab src dst j.olds, pend := rehomeTab src dst j.pend } else j) })) })

/-- The bits of the bytes of a word that an overlapping job writes, of those in `m`; it leaves the others at what they held (R254; log 9). -/
def writtenBytes (m : Nat) : Nat → State → Nat × State
  | 0, s => (0, s)
  | n + 1, s =>
    let r := writtenBytes m n s
    let f := m &&& 255 * 2 ^ (8 * n)
    if f = 0 then r else ((if Config.copyOverlapOld r.2.fresh then r.1 else r.1 ||| f), r.2.tick)

/-- Writes one gathered destination word of a job, with its FE bit full for .F (R134, R248, R255); a word written whole loses a soft error
(R142). -/
def flushWord (tl : TileRef) (e : Nat) (s : State) (x : Nat × (Nat × Nat)) : State :=
  match jobAt s tl e with
  | none => s
  | some j =>
    let w := x.1
    let c := if j.overlap then writtenBytes x.2.1 8 s else (x.2.1, s)
    let old := s.rd (8 * w) 8
    let new := (old &&& (2 ^ 64 - 1 - c.1)) ||| (x.2.2 &&& c.1)
    let s := updJob tl e (fun j => { j with
      pend := j.pend.del w, olds := if (j.olds.get? w).isSome then j.olds else j.olds.set w (word old) }) c.2
    let bad := s.poison
    let s := dropTlb w (storeAt (8 * w) 8 new s)
    let s := if c.1 = 2 ^ 64 - 1 then s else { s with poison := bad }
    if j.fill && !j.noFill then setFe w true s else s

/-- Writes the gathered destination words of a job but those in `keep`: each word at one place (R134), all in one turn (log 63). -/
def flushJob (tl : TileRef) (e : Nat) (keep : List Nat) (s : State) : State :=
  match jobAt s tl e with
  | none => s
  | some j => (j.pend.filter (fun x => !keep.contains x.1)).foldl (flushWord tl e) s

/-- Whether something that a retired thread has started is still to take its place (R118, R137, R391): a copy job, a queued matrix entry,
a posted store or SEND. -/
def workLeft (s : State) (tid : Nat) : Bool :=
  s.tiles.any (fun x => x.2.copy.any (fun c => match c.2.job with | some j => j.tid == tid && j.state != .done | none => false) ||
    x.2.matQ.any (fun e => e.tid == tid)) ||
  (s.reqs.any (fun r => r.2.posted && r.2.acc.tid == tid) || s.msgs.any (fun m => m.2.posted == some tid))

/-- A retired thread that its launch still waits for is counted done once nothing of it is left (R118, R388, R391). -/
def settleLinger (tid : Nat) (s : State) : State :=
  match s.launches.find? (fun x => x.2.lingering.contains tid) with
  | none => s
  | some x =>
    if workLeft s tid then s
    else launchProgress x.1 { s with launches := s.launches.upd x.1 (fun l =>
      { l with threads := l.threads - 1, lingering := l.lingering.erase tid }) }

/-- A job reaches DONE (R249), what it has gathered written: CPW and FENCE.J waiters are readied, an error is reported, and an exited thread whose last job this was
is counted done (R118). -/
def jobDone (tl : TileRef) (e : Nat) (err : Nat) (s : State) : State :=
  let s := flushJob tl e [] s
  match jobAt s tl e with
  | none => s
  | some j =>
    let n := (s.tile tl).doneCount
    let s := (updJob tl e (fun j => { j with state := .done, err := err, doneAt := n }) s).updTile tl (fun x =>
      { x with doneCount := n + 1, copyRun := if x.copyRun = some e then none else x.copyRun })
    let s := { s with feWaiters := s.feWaiters.filter (fun x => x.job != some (tl, e)) }
    let s := if err = 0 then s else reportFault ⟨tl.pkg, j.part⟩ 3 [] s
    let s := answerCpw tl e s
    let s := if j.killed && err != 0 then freeEntry tl e s else s
    settleLinger j.tid ((s.tids (onTile tl)).foldl (fun s w => checkFence w s) s)

/-- Unbinds a stream register; a job still delivering to it ends with ERR = 8 (R251). -/
def unbindStream (tid k err : Nat) (s : State) : State :=
  match s.thread? tid with
  | none => s
  | some t =>
    match t.streams.toArray.getD k none with
    | none => s
    | some b =>
      let s := s.updThread tid (fun t => { t with streams := t.streams.setIfInBounds k none })
      let tl := t.pos.tileRef
      match ((s.tile tl).copy.get? b.entry) with
      | some c => match c.job with
        | some j => if c.seq = b.seq ∧ j.state ≠ .done ∧ j.tid = tid then jobDone tl b.entry err s else s
        | none => s
      | none => s

/-- The thread's jobs meet its kill (R21, R255): stream jobs and jobs that wait end with ERR = 7, the others set nothing full. -/
def killJobs (tl : TileRef) (tid : Nat) (s : State) : State :=
  let s := (jobsOf s tl tid).foldl (fun s x =>
    let s := updJob tl x.1 (fun j => { j with noFill := true, killed := true }) s
    if x.2.state ≠ .done ∧ (x.2.stream = true ∨ s.feWaiters.any (fun y => y.job == some (tl, x.1)) = true) then jobDone tl x.1 7 s else s) s
  freeErrors tl tid s

/-! ### Groups (R361, R371) -/

/-- A group closes when every leaf that bound has left and no round is in flight: its range entry goes (R361, R366). -/
def groupSettle (part g : Nat) (s : State) : State :=
  match s.group? part g with
  | none => s
  | some x =>
    if x.isOpen && (x.bound.isEmpty && (x.rounds.isEmpty && !s.contribs.any (fun e =>
        !e.2.down && (e.2.part == part && e.2.group == g)))) then
      let s := s.updGroup part g (fun x => { x with isOpen := false, left := [], first := 0 })
      let s := { s with parts := s.parts.map (fun (e : PartRef × Part) => if e.1.part = part then
        (e.1, { e.2 with rangeTab := e.2.rangeTab.filter (fun r => r.1 != g) }) else e) }
      { s with ports := s.ports.map (fun (e : PortRef × SpanPort) => (e.1, { e.2 with redSlots := e.2.redSlots.filter (· != (part, g)) })) }
    else s

/-- A leaf leaves a group: its results are discarded, its register unbound, and rounds that waited for it complete (R371). -/
def groupLeave (tid k : Nat) (s : State) : State :=
  match s.thread? tid with
  | none => s
  | some t =>
    match t.groups.toArray.getD k none with
    | none => s
    | some b =>
      let s := s.updThread tid (fun t => { t with groups := t.groups.setIfInBounds k none })
      let s := s.updGroup t.part b.group (fun g =>
        { g with bound := g.bound.filter (fun e => e.1 != t.start), left := g.left ++ [t.start] })
      let s := { s with contribs := s.contribs.filter (fun (e : Nat × Contribution) =>
        !(e.2.down && (e.2.part == t.part && (e.2.group == b.group && e.2.leaf == t.start)))) }
      groupSettle t.part b.group (postRound t.part b.group s)

/-! ### Task queues (R121 to R123, R385 to R387) -/

/-- The queue of a launch's binding for a thread: on the package where the thread started (log 22). -/
def bindingOf (x : Launch) (start : Pos) (b : Nat) : Option TaskQueueRef :=
  let e := bits (x.words.getD 4 0).toNat (8 * b + 7) (8 * b)
  if b < 8 ∧ bitAt (x.words.getD 3 0).toNat (46 + b) then some ⟨start.pkg, e / 64, e % 64⟩ else none

/-- Whether a thread holds a binding to a queue. -/
def bindsQueue (s : State) (q : TaskQueueRef) (t : Thread) : Bool :=
  match s.launches.get? t.launch with
  | none => false
  | some x => (List.range 8).any (fun b => bindingOf x t.start b == some q)

/-- The handle that a packet's handle field stands for (R386). -/
def packetHandle (pkg f : Nat) : Word := if f = 0 then 0 else word (pkg * 2 ^ 53 + bits f 41 18 * 2 ^ 29 + bits f 17 0)

/-- Handle field `k` of a packet: bytes 40 + 6k to 45 + 6k (R386). -/
def packetField (ws : List Word) (k : Nat) : Nat :=
  let n := (ws.getD 5 0).toNat + 2 ^ 64 * (ws.getD 6 0).toNat + 2 ^ 128 * (ws.getD 7 0).toNat
  bits n (48 * k + 47) (48 * k)

/-- The registers that TNEXT writes beside gd (R121). -/
def taskRegs : List Nat := [3, 4, 5, 6]

/-- Delivers a packet to a thread (R121): its task, arguments, handles and entry, and a renegotiation of its lanes. -/
def deliverPacket (tid d : Nat) (q : TaskQueueRef) (k : Packet) (s : State) : State :=
  let hs := (List.range 4).map (fun i => packetHandle q.pkg (packetField k.words i))
  let s := taskRegs.foldl (fun s r => regFill tid r (k.words.getD (r - 2) 0) s) s
  let s := s.updThread tid (fun t => { t with
    task := some k.launch
    h := (List.range 4).foldl (fun h i => h.setIfInBounds i (hs.getD i 0)) t.h })
  let s := finish tid d (k.words.getD 0 0) s
  match s.thread? tid with
  | none => s
  | some t => match t.claim.request with
    | some r => renegotiate tid r s
    | none => s

/-- TNEXT's answer of a closed queue (R121). -/
def answerClosed (tid d : Nat) (s : State) : State :=
  finish tid d 0 (s.updThread tid (fun t => taskRegs.foldl (fun t r => t.unowe r) t))

/-- Serves a queue until nothing more moves (R385, R387): a packet for the oldest waiter, room for the oldest poster, and the close of
an empty queue on which every thread that binds it waits. -/
def settleQueue (q : TaskQueueRef) : Nat → State → State
  | 0, s => s
  | n + 1, s =>
    let x := s.taskQueue q
    match x.packets, x.waiters, x.posters with
    | k :: ks, w :: ws, _ =>
      let s := s.updTaskQueue q (fun x => { x with packets := ks, waiters := ws })
      match (s.thread? w).bind (·.wait) with
      | some (.tnext d _) => settleQueue q n (deliverPacket w d q k s)
      | _ => settleQueue q n s
    | ks, ws, p :: ps =>
      if 256 ≤ ks.length then s
      else
        let s := s.updTaskQueue q (fun x => { x with posters := ps })
        match s.thread? p with
        | some t => match t.wait with
          | some (.tpost d _ pk) =>
            let s := s.updTaskQueue q (fun x => { x with packets := ks ++ [⟨pk, some t.launch⟩], waiters := ws })
            let s := { s with launches := s.launches.upd t.launch (fun l => { l with packets := l.packets + 1 }) }
            settleQueue q n (finish p d 0 s)
          | _ => settleQueue q n s
        | none => settleQueue q n s
    | [], w :: ws, [] =>
      if x.isOpen && s.threads.all (fun e => !bindsQueue s q e.2 || (match e.2.wait with | some (.tnext _ q') => q' == q | _ => false)) then
        let s := s.updTaskQueue q (fun x => { x with isOpen := false, waiters := [] })
        (w :: ws).foldl (fun s w => match (s.thread? w).bind (·.wait) with
          | some (.tnext d _) => answerClosed w d s
          | _ => s) s
      else s
    | _, [], [] => s

def serveQueue (q : TaskQueueRef) (s : State) : State :=
  let x := s.taskQueue q
  settleQueue q (x.packets.length + x.waiters.length + x.posters.length + 1) s

/-- Ends the current task of a thread as TEND does (R122, R252). -/
def endTask (tid : Nat) (s : State) : State :=
  match s.thread? tid with
  | none => s
  | some t =>
    let s := freeErrors t.pos.tileRef tid s
    match t.task with
    | none => s
    | some l => packetDone l false (s.updThread tid (fun t => { t with
        task := none, h := [0, 1, 2, 3].foldl (fun h i => h.setIfInBounds i 0) t.h }))

/-! ### Retirement (R118, R311) -/

/-- Every wait of a thread is withdrawn (R130 kill column): it stands in no queue of waiters and no round trip of its own waits. -/
def withdraw (tid : Nat) (s : State) : State :=
  let s := (s.reqs.filter (fun e => e.2.acc.tid == tid)).foldl closeReply s
  { s with
    feWaiters := s.feWaiters.filter (fun x => x.tid != tid || x.job.isSome)
    lockWaiters := s.lockWaiters.filter (fun x => x.tid != tid)
    taskQueues := s.taskQueues.map (fun (e : TaskQueueRef × TaskQueue) => (e.1, { e.2 with
      waiters := e.2.waiters.filter (· != tid), posters := e.2.posters.filter (· != tid) }))
    tiles := s.tiles.map (fun (e : TileRef × Tile) => (e.1, { e.2 with mslotWait := e.2.mslotWait.filter (fun x => x.1 != tid) }))
    joins := s.joins.map (fun (e : (DieRef × Nat) × Join) => (e.1, { e.2 with waiters := e.2.waiters.filter (fun x => x.1 != tid) }))
    reqs := s.reqs.filter (fun (e : Nat × SpanReq) => e.2.acc.tid != tid || !e.2.waiting)
    keyReqs := s.keyReqs.filter (fun (e : Nat × KeyReq) => e.2.tid != tid)
    subs := s.subs.filter (fun (e : Nat × Submission) => match e.2.src with | .thread t _ => t != tid | .host _ _ => true) }

/-- Discards the SFU requests of a thread: a queued one leaves the queue, one in service completes without effect (R220). -/
def discardSfu (tid : Nat) (s : State) : State :=
  { s with quads := s.quads.map (fun (e : QuadRef × Quad) => (e.1, { e.2 with
      queue := e.2.queue.filter (fun r => r.tid != tid)
      serving := e.2.serving.map (fun r => if r.tid = tid then { r with dead := true } else r) })) }

/-- A slot has become free: swap-ins, threads and launches that wait for one try again (R56, R128, R161, R382). -/
def slotFreed (s : State) : State :=
  let s := s.threads.foldl (fun s x => match x.2.swapTo with
    | some p => if x.2.status = .swapIn then s else s.post .swapInRequest (.place x.1 p)
    | none => s) s
  let s := (s.tids (fun t => t.wait == some .extmigSlot)).foldl (fun s t => s.post .extmigSlotRetry (.thread t)) s
  let s := (s.tids (fun t => t.wait == some .migSlot)).foldl (fun s t => s.post .migSlotRetry (.thread t)) s
  if s.launches.any (fun x => x.2.started == false) then s.post .launchClaim .none else s

/-- Swap-outs that wait for an image area try again. -/
def areaFreed (s : State) : State := (s.tids (fun t => t.status == .swapOut)).foldl (fun s t => s.post .swapOutDone (.thread t)) s

/-- Takes a retired thread out of its slot and counts it (R118, R311, R388): `killed` for retirement KILLED. Its launch waits on for what
the thread has started. -/
def removeThread (tid : Nat) (killed : Bool) (s : State) : State :=
  match s.thread? tid with
  | none => s
  | some t =>
    let tl := t.pos.tileRef
    let busy := workLeft s tid
    let s := leaveMatrixLine tl tid { s with threads := s.threads.del tid }
    let s := retireShares tid t s
    let s := match t.place with
      | .image h a => areaFreed (s.updPart ⟨h.pkg, t.part⟩ (fun x => { x with images := x.images.erase a }))
      | _ => s
    let s := s.updTile ⟨t.start.pkg, t.start.die, t.start.tile⟩ (fun x => { x with dir := x.dir.del t.epid })
    let s := match t.task with
      | some l => packetDone l killed s
      | none => s
    let s := { s with launches := s.launches.upd t.launch (fun l =>
      let l := { l with nkill := l.nkill + b2n killed }
      if busy then { l with lingering := l.lingering ++ [tid] } else { l with threads := l.threads - 1 }) }
    let s := if (s.tile tl).matQ.any (fun e => e.tid == tid) then s.post .mstaService (.tile tl) else s
    let s := ((s.taskQueues.filter (fun q => !q.2.waiters.isEmpty)).map (·.1)).foldl (fun s q => serveQueue q s) s
    slotFreed (repostMsgs t.epid (launchProgress t.launch s))

/-- Gives back everything a retiring thread holds (R118, R311 step 3): claim, slots, tiles, bindings. -/
def releaseAll (tid : Nat) (s : State) : State :=
  match s.thread? tid with
  | none => s
  | some t =>
    let tl := t.pos.tileRef
    let s := s.updThread tid (·.endClaim)
    let s := releaseMatrix tl tid s
    let s := (List.range 4).foldl (fun s k => unbindStream tid k 8 s) s
    let s := (List.range 4).foldl (fun s k => groupLeave tid k s) s
    s.updThread tid (fun t => { t with queues := Vector.replicate 4 none })

/-- EXIT's retirement (R118): the hold ends, the undo log is discarded, resources are released, error entries freed, the slot is FREE. -/
def exitThread (tid : Nat) (s : State) : State :=
  match s.thread? tid with
  | none => s
  | some t => removeThread tid false (freeErrors t.pos.tileRef tid (releaseAll tid s))

end Sys2Proof.Machine
end

