-- ==== Sys2Proof/Machine/Move.lean ====
section
/-!
DEFINITION. Machine/Move.lean: how a thread leaves its core: the searches for a slot, the departure of its packet and its arrival
(03 R56, 06 R95, R128, R420, 22 R354 to R357).
-/
namespace Sys2Proof.Machine
open Sys2Proof

/-! ### Free slots -/

/-- The tile at a place of the package grid (R10). -/
def gridTile (pkg row col : Nat) : TileRef := ⟨pkg, row / 12 * 2 + col / 12, row % 12 * 12 + col % 12⟩

/-- Fields of PLACE (R377). -/
def placeRows (w : Nat) : Nat := bits w 36 32
def placeCols (w : Nat) : Nat := bits w 41 37
def placeRow0 (w : Nat) : Nat := bits w 26 22
def placeCol0 (w : Nat) : Nat := bits w 31 27
def placeSlots (w : Nat) : List Nat := (List.range 16).filter (fun k => bitAt w k)

/-- The tiles of a rectangle on a package, by grid row, then column. -/
def rectTiles (w pkg : Nat) : List TileRef :=
  (List.range (placeRows w)).flatMap (fun r => (List.range (placeCols w)).map (fun c => gridTile pkg (placeRow0 w + r) (placeCol0 w + c)))

/-- Whether a launch takes a slot on the packages it names (R377). -/
def Launch.wants (x : Launch) (p : Pos) : Bool :=
  let w := (x.words.getD 3 0).toNat
  x.pkgs.contains p.pkg && ((placeSlots w).contains p.slot && (rectTiles w p.pkg).contains p.tileRef)

/-- Whether a launch that waits for its next package holds a slot that it has claimed (R382). -/
def claimHeld (s : State) (p : Pos) : Bool := s.launches.any (fun e => !e.2.started && (e.2.claimed.contains p.pkg && e.2.wants p))

/-- A slot with no thread in it, none on its way to it, held for no swap-in and claimed by no launch (R382). -/
def slotFree (s : State) (p : Pos) : Bool :=
  !claimHeld s p && !s.threads.any (fun x => x.2.swapTo == some p || (match x.2.place with
    | .slot q => q == p
    | .flight _ q => q == p
    | _ => false))

/-- Whether a package hosts a partition (R392). -/
def hosts (s : State) (pkg part : Nat) : Bool := (s.parts.get? ⟨pkg, part⟩).isSome && (s.pkgs.get? pkg).isSome

/-- The slot a thread takes on a core (R56, R355): the same number if it is free, else the lowest free one of the partition's set. -/
def slotOn (s : State) (c : CoreRef) (part launch same : Nat) : Option Nat :=
  let ok := fun k => bitAt (s.cfg c.pkg part launch).slots k && slotFree s (c.pos k)
  if same < 14 ∧ ok same then some same else ((List.range 14).filter ok).head?

/-- Whether a tile belongs to the partition's tile set and is not fenced (R392, R410). -/
def tileUsable (s : State) (t : TileRef) (part launch : Nat) : Bool :=
  (s.cfg t.pkg part launch).tiles.contains (t.die * 144 + t.tile) && !(s.tile t).fenced

def natDist (a b : Nat) : Nat := (a - b) + (b - a)

/-- Mesh steps between two tiles of the package grid (R10, R56). -/
def meshSteps (a b : TileRef) : Nat := natDist a.row b.row + natDist a.col b.col

/-- The least element of a list under a key, the first among equals. -/
def leastBy {α : Type} (key : α → Nat) : List α → Option α
  | [] => none
  | x :: xs => match leastBy key xs with
    | none => some x
    | some y => if key y < key x then some y else some x

/-- The tiles of a package in die and tile order. -/
def allTiles (pkg : Nat) : List TileRef := (List.range 576).map (fun k => ⟨pkg, k / 144, k % 144⟩)

/-- Whether a core lists every needed extension and runs threads (R54, R56). -/
def coreHas (s : State) (c : CoreRef) (exts : Nat) : Bool :=
  (s.core c).available && (exts &&& (s.core c).extid.toNat == exts)

/-- The first qualifying core with a free slot, nearest first (R56). -/
def extSearch (s : State) (t : Thread) (exts : Nat) (own : Bool) : Option Pos :=
  let p := t.pos
  let on := fun (c : CoreRef) => if coreHas s c exts then (slotOn s c t.part t.launch p.slot).map c.pos else none
  if own then ((coresOf p.tileRef).filter (· != p.coreRef)).findSome? on
  else
    let tiles := (allTiles p.pkg).filter (fun x => x != p.tileRef && (tileUsable s x t.part t.launch && (coresOf x).any (fun c => (on c).isSome)))
    (leastBy (meshSteps p.tileRef) tiles).bind (fun x => (coresOf x).findSome? on)

/-- Whether some core of the package, or of the own tile, qualifies for the needed extensions (R56). -/
def extQualifies (s : State) (t : Thread) (exts : Nat) (own : Bool) : Bool :=
  let p := t.pos
  if own then ((coresOf p.tileRef).filter (· != p.coreRef)).any (fun c => coreHas s c exts)
  else (allTiles p.pkg).any (fun x => x != p.tileRef && (tileUsable s x t.part t.launch && (coresOf x).any (fun c => coreHas s c exts)))

/-- Attachment of HBM controller or SRAM bank of a physical address, as a grid tile of its die (R422). -/
def attachment (pkg pa : Nat) : Option TileRef :=
  match regionOf pa with
  | .hbm =>
    let st := pa / (96 * 2 ^ 30)
    let d := st / 2
    some ⟨pkg, d, (if d < 2 then 0 else 11) * 12 + (2 + 7 * (st % 2))⟩
  | .sram d =>
    let b := (pa - 0x0100_0000_0000) % 0x0800_0000 / (8 * 2 ^ 20)
    some ⟨pkg, d, b * 12 + (if d % 2 = 0 then 11 else 0)⟩
  | .scratch d t => some ⟨pkg, d, t⟩
  | .tcm d t _ _ => some ⟨pkg, d, t⟩
  | .none => none

/-- The slot that a memory migration takes on a package (R355): on the die that holds the word the nearest tile with a free slot,
then the other dies in ascending order. `only` keeps to the first die (R128). -/
def memorySlot (s : State) (t : Thread) (pkg pa : Nat) (only : Bool) : Option Pos :=
  match attachment pkg pa with
  | none => none
  | some a =>
    let on := fun (c : CoreRef) => if (s.core c).available then (slotOn s c t.part t.launch t.pos.slot).map c.pos else none
    let onDie := fun (d : Nat) =>
      let tiles := ((List.range 144).map (fun k => (⟨pkg, d, k⟩ : TileRef))).filter (fun x =>
        tileUsable s x t.part t.launch && (coresOf x).any (fun c => (on c).isSome))
      (leastBy (meshSteps a) tiles).bind (fun x => (coresOf x).findSome? on)
    match onDie a.die with
    | some p => some p
    | none => if only then none else ([0, 1, 2, 3].filter (· != a.die)).findSome? onDie

/-- Copies the 2 KiB TCM area of a slot, bytes and FE bits, to that of another (R148, R356). -/
def copyTcm (src dst : Pos) (s : State) : State :=
  (List.range 256).foldl (fun s k =>
    let a := devAddr src.pkg (tcmBase src + 8 * k)
    let b := devAddr dst.pkg (tcmBase dst + 8 * k)
    let s := { s with mem := memWrite s.mem b 8 (s.rd a 8) }
    { s with fe := feSet s.fe (b / 8) (feGet s.fe (a / 8)) }) s

/-- DONE jobs of a thread that leaves its tile give their entries back (R255). -/
def dropJobs (tl : TileRef) (tid : Nat) (s : State) : State := (jobsOf s tl tid).foldl (fun s x => freeEntry tl x.1 s) s

/-- A thread leaves for another slot (R56, R356, R420): its packet and its TCM area travel, its slot is FREE, a stub stays at the
tile it leaves (R359), and it stands in no line of its tile (R266). `arriving` is the V slot of a MIG bundle. -/
def depart (tid : Nat) (dst : Pos) (arriving : Option Instr) (s : State) : State :=
  match s.thread? tid with
  | none => s
  | some t =>
    let src := t.pos
    let s := leaveMatrixLine src.tileRef tid s
    let s := if src.tileRef = dst.tileRef then s
      else
        let s := dropJobs src.tileRef tid (leaveShares tid t dst s)
        s.updTile src.tileRef (fun x => { x with
          stubs := (if 64 ≤ x.stubs.length then x.stubs.tail else x.stubs) ++ [⟨t.epid, dst, s.now src.pkg + 1000000⟩] })
    let s := moveJobs src.tileRef tid dst (copyTcm src dst s)
    let s := rehome src.tileRef tid (devAddr src.pkg (tcmBase src)) (devAddr dst.pkg (tcmBase dst)) s
    let s := s.updThread tid (fun t => { t with
      place := .flight src dst, arriving := arriving, status := .ready, wait := none, lastIssue := none, notBefore := 0, afterPfx := false })
    slotFreed (s.post .migrationArrival (.thread tid))

/-- An automatic migration begins (R357): its time is kept, and a second one within 4 µs suspends them for 64 µs. -/
def autoDepart (tid : Nat) (dst : Pos) (s : State) : State :=
  match s.thread? tid with
  | none => s
  | some t =>
    let now := s.now t.pos.pkg
    let soon := match t.migT with | some m => decide ((now : Int) < m + 4000) | none => false
    depart tid dst none (s.updThread tid (fun t => { t with migT := some (now : Int), appt := if soon then now + 64000 else t.appt }))

/-- The times that a thread carries to another package, where reference time has another value (R22, R118), follow the time elapsed
(R357). -/
def rebaseTimes (tid : Nat) (src dst : Pos) (s : State) : State :=
  if src.pkg = dst.pkg then s
  else
    let a := s.now src.pkg
    let b := s.now dst.pkg
    s.updThread tid (fun t => { t with
      migT := t.migT.map (fun m => m + (b : Int) - (a : Int)), appt := if t.appt ≤ a then 0 else b + (t.appt - a) })

/-- A lost relaxed access is reported once, at a bundle that needs it or the drain of the others (R351). -/
def reportLost (tid : Nat) (l : LostAccess) (pc : Word) (s : State) : State :=
  takeTrap tid cRLOST l.kind (word l.va) pc (s.updThread tid (fun t => { t with lost := t.lost.erase l }))

/-- What a move off its core waits for: a lost access is reported (R351), the relaxed accesses drain (R115), and off the tile the copy
jobs finish (R255). -/
def extDepart (tid : Nat) (t : Thread) (dst : Pos) (s : State) : State :=
  match t.lost with
  | l :: _ => reportLost tid l t.pc s
  | [] =>
    if ¬ t.relaxed.isEmpty then park tid .drain s
    else if dst.tileRef ≠ t.pos.tileRef ∧ jobsPending s t.pos.tileRef tid = true then park tid .jobsDone s
    else depart tid dst none s

/-- Outcome of the EXTMIG search (R56, R144): the state in which the thread has left or waits, or none for ILLOP. Bound queue registers do
not keep a thread from a move off its tile, and their bindings name the queues of the new tile then, which R56 leaves open (log 59). -/
def extMigrate (tid : Nat) (t : Thread) (exts : Nat) (s : State) : Option State :=
  let n := t.pfx.getLsbD 4 && t.pfx.getLsbD 2
  let off := !holdsResources s tid t && (!t.khold && (!n && t.streams.toList.all (·.isNone)))
  if t.priv ≠ 0 then none
  else match (extSearch s t exts true).or (if off then extSearch s t exts false else none) with
    | some d => some (extDepart tid t d s)
    | none =>
      if extQualifies s t exts true ∨ (off ∧ extQualifies s t exts false) then some (park tid .extmigSlot s) else none

end Sys2Proof.Machine
end

