-- ==== Sys2Proof/Machine/Flags.lean ====
section
/-!
DEFINITION. Machine/Flags.lean: the sticky flags of FCTL and MSTAT (R67, R68, R183, R184).
-/
namespace Sys2Proof.Machine
open Sys2Proof

/-- The FCTL bits of a set of flags (R67). -/
def flagBits (f : Flags) : Nat :=
  b2n f.nx * 2 ^ 16 + b2n f.uf * 2 ^ 17 + b2n f.of * 2 ^ 18 + b2n f.dz * 2 ^ 19 + b2n f.nv * 2 ^ 20 +
  b2n f.qinx * 2 ^ 24 + b2n f.qovf * 2 ^ 25 + b2n f.qinv * 2 ^ 26 + b2n f.qdz * 2 ^ 27

/-- The flags are ORed into FCTL: the device only sets them (R67, R184). -/
def Thread.raise (t : Thread) (f : Flags) : Thread := { t with fctl := t.fctl ||| word (flagBits f) }

/-- Merges the flags that a bundle raises (R184). -/
def raiseFlags (tid : Nat) (f : Flags) (s : State) : State := s.updThread tid (·.raise f)

/-- MSTAT bits (R68): SAT 0, NV 1, OF 2, NX 3, SKIP 4. -/
def mstatBits (sat nv of nx skip : Bool) : Nat := b2n sat + b2n nv * 2 + b2n of * 4 + b2n nx * 8 + b2n skip * 16

/-- The flags are ORed into MSTAT (R68, R282). -/
def Thread.raiseM (t : Thread) (m : Nat) : Thread := { t with mstat := t.mstat ||| word m }

/-- TSTAT.QMODE is the copy of FCTL.QMODE at all times (R65). -/
def Thread.setFctl (t : Thread) (v : Word) : Thread := { t with fctl := v, tstat := putBits t.tstat 12 12 (bits v.toNat 12 12) }

end Sys2Proof.Machine
end

