-- ==== Sys2Proof/Machine/Lanes.lean ====
section
/-!
DEFINITION. Machine/Lanes.lean: element arithmetic of vector lanes and of packed g registers, on plain lists of lanes
(spec 11_vector_pool R185, R192, R200 to R215).
-/
namespace Sys2Proof.Machine
open Sys2Proof

/-- The `total / w` elements of a word, element 0 lowest (R185). -/
def elemsOf (total w x : Nat) : List Nat := (List.range (total / w)).map (fun j => x / 2 ^ (w * j) % 2 ^ w)

/-- The word whose elements of width `w` are the list's (R185). -/
def ofElems (w : Nat) (es : List Nat) : Nat := es.foldr (fun e acc => acc * 2 ^ w + e % 2 ^ w) 0

def laneElems (w : Nat) (x : Lane) : List Nat := elemsOf 32 w x.toNat
def laneOf (w : Nat) (es : List Nat) : Lane := BitVec.ofNat 32 (ofElems w es)

/-- All elements of a register, in order (R192). -/
def regElems (w : Nat) (v : List Lane) : List Nat := (v.map (laneElems w)).flatten

/-- A list of elements cut into lanes, `n` lanes, missing elements 0. -/
def lanesOf (w n : Nat) (es : List Nat) : List Lane :=
  (List.range n).map (fun i => laneOf w ((List.range (32 / w)).map (fun j => es.getD (i * (32 / w) + j) 0)))

/-- Lanes the mask enables take the new value, the others keep the old (R193). -/
def blend : List Bool → List Lane → List Lane → List Lane
  | m :: ms, o :: os, n :: ns => (if m then n else o) :: blend ms os ns
  | _, os, _ => os

/-- The same for mask bits (VCMP, VFCMP: disabled lanes keep their old bit, R201). -/
def blendBits : List Bool → List Bool → List Bool → List Bool
  | m :: ms, o :: os, n :: ns => (if m then n else o) :: blendBits ms os ns
  | _, os, _ => os

def zip3 (f : Lane → Lane → Lane → Lane) : List Lane → List Lane → List Lane → List Lane
  | a :: as, b :: bs, c :: cs => f a b c :: zip3 f as bs cs
  | _, _, _ => []

/-- Element width of a VINT type code (R50): codes 0, 1 → 32; 2, 3 → 16; 4, 5 → 8. -/
def vintWidth (t : Nat) : Nat := if t ≤ 1 then 32 else if t ≤ 3 then 16 else 8
/-- The even codes are signed. -/
def vintSigned (t : Nat) : Bool := t % 2 == 0
/-- Float format of a VFLT type code (R50). -/
def vfltFmt (t : Nat) : FpFmt := if t = 0 then fp32 else if t = 1 then bf16 else fp16
/-- Element width of a permute type code (R50). -/
def permWidth (e : Nat) : Nat := if e = 0 then 32 else if e = 2 then 16 else 8

/-- Operations of the vector integer family (R200). -/
inductive VIntOp where
  | add | sub | mul | mulh | mac | and | or | xor | shl | shr | sar | min | max | abs
deriving DecidableEq, Repr

/-- One element result, kept modulo 2^w (R200). -/
def vintElem (op : VIntOp) (w : Nat) (sg : Bool) (a b c : Nat) : Nat :=
  let sa := sgn w a
  let sb := sgn w b
  let s := b % w
  match op with
  | .add => (a + b) % 2 ^ w
  | .sub => wrapN w ((a : Int) - b)
  | .mul => a * b % 2 ^ w
  | .mulh => if sg then wrapN w ((sa * sb).fdiv ((2 ^ w : Nat) : Int)) else a * b / 2 ^ w % 2 ^ w
  | .mac => (c + a * b) % 2 ^ w
  | .and => a &&& b
  | .or => a ||| b
  | .xor => a ^^^ b
  | .shl => a * 2 ^ s % 2 ^ w
  | .shr => a / 2 ^ s
  | .sar => wrapN w (sa.fdiv ((2 ^ s : Nat) : Int))
  | .min => if sg then (if sa ≤ sb then a else b) else (if a ≤ b then a else b)
  | .max => if sg then (if sb ≤ sa then a else b) else (if b ≤ a then a else b)
  | .abs => if sg then wrapN w (sa.natAbs : Int) else a

/-- Elementwise operation on one lane. -/
def laneMap3 (w : Nat) (f : Nat → Nat → Nat → Nat) (a b c : Lane) : Lane :=
  laneOf w ((List.range (32 / w)).map (fun j =>
    f ((laneElems w a).getD j 0) ((laneElems w b).getD j 0) ((laneElems w c).getD j 0)))

/-- A vector integer operation on whole registers (R200). -/
def vintRegs (op : VIntOp) (t : Nat) (a b c : List Lane) : List Lane :=
  zip3 (laneMap3 (vintWidth t) (vintElem op (vintWidth t) (vintSigned t))) a b c

/-- Integer comparison of VCMP: EQ 0, NE 1, LT 2, LE 3, GT 4, GE 5 (R201). -/
def intCond (cond : Nat) (a b : Int) : Bool :=
  match cond with
  | 0 => a == b
  | 1 => a != b
  | 2 => a < b
  | 3 => a ≤ b
  | 4 => b < a
  | _ => b ≤ a

/-- VCMP on registers (R201). -/
def vcmpRegs (t cond : Nat) (a b : List Lane) : List Bool :=
  List.zipWith (fun x y =>
    if vintSigned t then intCond cond (sgn 32 x.toNat) (sgn 32 y.toNat) else intCond cond x.toNat y.toNat) a b

/-- VSEL: the selector's 1 takes va, 0 takes vb (R201). -/
def vselRegs (m : List Bool) (a b : List Lane) : List Lane := blend m b a

/-- Elementwise float operation on one lane, with the flags of its elements. -/
def laneFp (w : Nat) (f : Nat → Nat → Nat → Nat × Flags) (a b c : Lane) : Lane × Flags :=
  let rs := (List.range (32 / w)).map (fun j =>
    f ((laneElems w a).getD j 0) ((laneElems w b).getD j 0) ((laneElems w c).getD j 0))
  (laneOf w (rs.map (·.1)), rs.foldl (fun x r => x.or r.2) noFlags)

/-- Masked float operation on registers: new lanes and the OR of the flags of the enabled lanes (R182, R193). -/
def vfpRegs (w : Nat) (f : Nat → Nat → Nat → Nat × Flags) :
    List Bool → List Lane → List Lane → List Lane → List Lane → List Lane × Flags
  | m :: ms, o :: os, a :: as, b :: bs, c :: cs =>
    let (ls, fl) := vfpRegs w f ms os as bs cs
    if m then let (x, g) := laneFp w f a b c; (x :: ls, g.or fl) else (o :: ls, fl)
  | _, os, _, _, _ => (os, noFlags)

/-- Operations of the vector float family on codes (R202). -/
inductive VFpOp where
  | add | sub | mul | fma | min | max
deriving DecidableEq, Repr

def vfpElem (op : VFpOp) (f : FpFmt) (rm : Rm) (ftz : Bool) (a b c : Nat) : Nat × Flags :=
  match op with
  | .add => f.add rm ftz a b
  | .sub => f.sub rm ftz a b
  | .mul => f.mul rm ftz a b
  | .fma => f.fma rm ftz false false a b c
  | .min => f.minMax false (f.flushIn ftz a) (f.flushIn ftz b)
  | .max => f.minMax true (f.flushIn ftz a) (f.flushIn ftz b)

/-- VFCMP: the new bits and the flags of the enabled lanes (R202). -/
def vfcmpRegs (cond : Nat) (ftz : Bool) : List Bool → List Bool → List Lane → List Lane → List Bool × Flags
  | m :: ms, o :: os, a :: as, b :: bs =>
    let (ls, fl) := vfcmpRegs cond ftz ms os as bs
    if m then
      let (x, g) := fp32.compare cond (fp32.flushIn ftz a.toNat) (fp32.flushIn ftz b.toNat)
      (x :: ls, g.or fl)
    else (o :: ls, fl)
  | _, os, _, _ => (os, noFlags)

/-- VFSCL element: `round (a · 2^k)` (R205). -/
def vfsclElem (f : FpFmt) (rm : Rm) (ftz : Bool) (k : Int) (a : Nat) : Nat × Flags :=
  let v := f.decode (f.flushIn ftz a)
  (f.nanRule [v]).getD (f.round rm ftz (v.xr.scale k))

/-- Kinds of VFCVT formats (R203). -/
inductive CvKind where
  | float (f : FpFmt)
  | int (w : Nat) (sg : Bool)
  | mx (e : ElFmt)
deriving DecidableEq, Repr

/-- The format of a VFCVT code 0 to 11 (R203). -/
def cvKind (c : Nat) : CvKind :=
  match c with
  | 0 => .float fp32
  | 1 => .float bf16
  | 2 => .float fp16
  | 3 => .int 32 true
  | 4 => .int 32 false
  | 5 => .int 16 true
  | 6 => .int 8 true
  | 7 => .mx (.float e4m3)
  | 8 => .mx (.float e5m2)
  | 10 => .mx .mxint8
  | _ => .mx (.float e2m1)

def CvKind.width : CvKind → Nat
  | .float f => f.width
  | .int w _ => w
  | .mx e => e.width

/-- Elements per lane of a code (R203). -/
def cvPerLane (c : Nat) : Nat := 32 / (cvKind c).width

/-- Whether a code is an MX format. -/
def cvIsMx (c : Nat) : Bool := match cvKind c with | .mx _ => true | _ => false

/-- The assigned (source, target, part) triples of VFCVT (R203). -/
def cvAssigned (src tgt p : Nat) : Bool :=
  if src = 11 then tgt == 0 && p ≤ 3
  else if 11 < src || 10 < tgt || src == tgt then false
  else if cvIsMx src && (cvIsMx tgt || (3 ≤ tgt && tgt ≤ 6)) then false
  else if cvIsMx tgt && 3 ≤ src && src ≤ 6 then false
  else
    let q := cvPerLane src / cvPerLane tgt
    if 1 < q then p < q && (p < 4) else p == 0

/-- Range of an integer kind. -/
def intLo (w : Nat) (sg : Bool) : Int := if sg then sMin w else 0
def intHi (w : Nat) (sg : Bool) : Int := if sg then sMax w else ((2 ^ w : Nat) : Int) - 1

/-- Value conversion between formats that are not both scalar MX: one element (R204). `s` is the block scale of an MX source. A float that
lies beyond an integer format gives its minimum or maximum with NV alone, as R177 says and R174 does not (log 54). -/
def cvElem (src tgt : CvKind) (rm : Rm) (ftz : Bool) (s x : Nat) : Nat × Flags :=
  match src, tgt with
  | .float f, .float t => t.convert rm ftz (f.decode (f.flushIn ftz x))
  | .float f, .int w sg =>
    let (z, fl) := toIntRange rm (intLo w sg) (intHi w sg) (f.decode (f.flushIn ftz x))
    (wrapN w z, fl)
  | .int w sg, .float t => t.round rm false (Xr.ofInt (if sg then sgn w x else (x : Int)))
  | .int w sg, .int w' sg' => (wrapN w' (satInt (if sg then sgn w x else (x : Int)) (intLo w' sg') (intHi w' sg')), noFlags)
  | .mx e, .float t => t.convert rm false (e.decodeScaled s x)
  | _, _ => (0, noFlags)

/-- Cuts a list into blocks of 32 (R204). -/
def blocks32 : Nat → List Nat → List (List Nat)
  | 0, _ => []
  | n + 1, xs => if xs.isEmpty then [] else xs.take 32 :: blocks32 n (xs.drop 32)

/-- VFCVT on a register of `n` lanes: the new lanes, the scale word of an MX target, and the flags (R204). -/
def vfcvtRegs (src tgt p rm : Nat) (ftz : Bool) (g : Nat) (a : List Lane) : List Lane × Nat × Flags :=
  let n := a.length
  let part := if src = 11 then p + 4 else p
  let es := cvPerLane src
  let et := cvPerLane tgt
  let cnt := n * min es et
  let xs := ((regElems (32 / es) a).drop (part * cnt)).take cnt
  match cvKind src, cvKind tgt with
  | .float f, .mx e =>
    let bs := (blocks32 xs.length xs).map (fun b => mxBlock e (b.map f.decode))
    (lanesOf (32 / et) n (bs.map (·.2.1)).flatten, ofElems 8 (bs.map (·.1)), bs.foldl (fun x b => x.or b.2.2) noFlags)
  | ks, kt =>
    let rs := xs.zipIdx.map (fun (x, k) => cvElem ks kt rm ftz (g / 2 ^ (8 * (k / 32)) % 256) x)
    (lanesOf (32 / et) n (rs.map (·.1)), 0, rs.foldl (fun x r => x.or r.2) noFlags)

/-- The complex product (R206). -/
def cmul (x y : Int × Int) : Int × Int := (x.1 * y.1 - x.2 * y.2, x.1 * y.2 + x.2 * y.1)

/-- A complex element of part width `w`: (re, im) (R169). -/
def cElem (w x : Nat) : Int × Int := (sgn w (x % 2 ^ w), sgn w (x / 2 ^ w))

/-- The code of a complex value, each part saturated to `w` bits (R169). -/
def cSat (w : Nat) (z : Int × Int) : Nat :=
  wrapN w (satInt z.1 (sMin w) (sMax w)) + 2 ^ w * wrapN w (satInt z.2 (sMin w) (sMax w))

/-- Part width of a VCMAC type code: .c16 0, .ci8 1, .ci4 2 (R50). -/
def cpxPart (t : Nat) : Nat := if t = 0 then 16 else if t = 1 then 8 else 4

/-- VCMAC on one lane (R206). -/
def vcmacLane (t : Nat) (a b c : Lane) : Lane :=
  let w := cpxPart t
  let ps := List.zipWith (fun x y => cmul (cElem w x) (cElem w y)) (laneElems (2 * w) a) (laneElems (2 * w) b)
  let z := ps.foldl (fun s p => (s.1 + p.1, s.2 + p.2)) (cElem 16 c.toNat)
  BitVec.ofNat 32 (cSat 16 z)

/-- VCCONJ on one lane (R206). -/
def vcconjLane (t : Nat) (a : Lane) : Lane :=
  let w := cpxPart t
  laneOf (2 * w) ((laneElems (2 * w) a).map (fun x => cSat w ((cElem w x).1, -(cElem w x).2)))

/-- VDOT4 (`w = 8`) and VDOT8 (`w = 4`) on one lane (R206). -/
def vdotLane (w : Nat) (sg : Bool) (a b c : Lane) : Lane :=
  let rd := fun x => if sg then sgn w x else (x : Int)
  let s := (List.zipWith (fun x y => rd x * rd y) (laneElems w a) (laneElems w b)).foldl (· + ·) 0
  BitVec.ofNat 32 (wrapN 32 ((c.toNat : Int) + s))

/-- VPERM (R208). -/
def vpermRegs (w : Nat) (a b : List Lane) : List Lane :=
  let es := regElems w a
  lanesOf w a.length ((regElems w b).map (fun i => es.getD i 0))

/-- VZIP `.lo` (h = 0) and `.hi` (h = 1) (R208). -/
def vzipRegs (w h : Nat) (a b : List Lane) : List Lane :=
  let ea := regElems w a
  let eb := regElems w b
  let n := ea.length
  lanesOf w a.length ((List.range n).map (fun i =>
    if i % 2 = 0 then ea.getD (h * n / 2 + i / 2) 0 else eb.getD (h * n / 2 + (i - 1) / 2) 0))

/-- VUNZIP `.ev` (h = 0) and `.od` (h = 1) (R208). -/
def vunzipRegs (w h : Nat) (a b : List Lane) : List Lane :=
  let es := regElems w a ++ regElems w b
  lanesOf w a.length ((List.range (regElems w a).length).map (fun i => es.getD (2 * i + h) 0))

/-- VSLIDE by `k` lanes (R209). -/
def vslideRegs (k : Int) (a : List Lane) : List Lane :=
  (List.range a.length).map (fun (i : Nat) =>
    let j := (i : Int) + k
    if 0 ≤ j then a.getD j.toNat 0 else 0)

/-- The elements that take part in a reduction, `none` for those of disabled lanes (R210). -/
def activeElems (w : Nat) (m : List Bool) (a : List Lane) : List (Option Nat) :=
  (List.zipWith (fun b x => (laneElems w x).map (fun e => if b then some e else none)) m a).flatten

/-- VRSUM (R210): a 64-bit value. -/
def vrsum (t : Nat) (m : List Bool) (a : List Lane) : Nat :=
  let w := vintWidth t
  let xs := (activeElems w m a).filterMap id
  wrapN 64 ((xs.map (fun x => if vintSigned t then sgn w x else (x : Int))).foldl (· + ·) 0)

/-- VRMAX and VRMIN (R210): with no element, the type's minimum or maximum. -/
def vrext (isMax : Bool) (t : Nat) (m : List Bool) (a : List Lane) : Nat :=
  let w := vintWidth t
  let sg := vintSigned t
  let xs := ((activeElems w m a).filterMap id).map (fun x => if sg then sgn w x else (x : Int))
  wrapN 64 (xs.foldl (fun acc x => if isMax then (if acc < x then x else acc) else (if x < acc then x else acc))
    (if isMax then intLo w sg else intHi w sg))

/-- One level of the VFRSUM tree (R210). -/
def frsumLevel (f : FpFmt) (rm : Rm) (ftz : Bool) : List (Option Nat) → List (Option Nat) × Flags
  | x :: y :: rest =>
    let (ls, fl) := frsumLevel f rm ftz rest
    match x, y with
    | some a, some b => let (s, g) := f.add rm ftz a b; (some s :: ls, g.or fl)
    | some a, none => (some a :: ls, fl)
    | none, b => (b :: ls, fl)
  | [x] => ([x], noFlags)
  | [] => ([], noFlags)

def frsumTree (f : FpFmt) (rm : Rm) (ftz : Bool) : Nat → List (Option Nat) → Flags → Option Nat × Flags
  | 0, xs, fl => (xs.headD none, fl)
  | k + 1, xs, fl =>
    if xs.length ≤ 1 then (xs.headD none, fl)
    else let (ys, g) := frsumLevel f rm ftz xs; frsumTree f rm ftz k ys (fl.or g)

/-- VFRSUM (R210). Padding the list to a power of two adds only absent elements at its end. -/
def vfrsum (t rm : Nat) (ftz : Bool) (m : List Bool) (a : List Lane) : Nat × Flags :=
  let f := vfltFmt t
  let xs := (activeElems f.width m a).map (fun o => o.map (f.flushIn ftz))
  let n := xs.length
  let padded := xs ++ List.replicate (2 ^ bitlen (n - 1) - n) none
  let (r, fl) := frsumTree f rm ftz padded.length padded noFlags
  (r.getD 0, fl)

/-! ### Packed operations in g registers (R212 to R215) -/

/-- The packed element formats of FMT.EF (R185). -/
inductive PackKind where
  | int (w : Nat)
  | scaled (e : ElFmt)
  | float (f : FpFmt)
  | cpx (part : Nat)
deriving DecidableEq, Repr

/-- The format of an EF code 0 to 9 (R185). -/
def packKind (ef : Nat) : PackKind :=
  match ef with
  | 0 => .int 8
  | 1 => .int 4
  | 2 => .scaled (.float e4m3)
  | 3 => .scaled (.float e5m2)
  | 4 => .scaled (.float e2m1)
  | 5 => .scaled .mxint8
  | 6 => .float bf16
  | 7 => .float fp16
  | 8 => .cpx 8
  | _ => .cpx 4

def PackKind.width : PackKind → Nat
  | .int w => w
  | .scaled e => e.width
  | .float f => f.width
  | .cpx p => 2 * p

/-- PADD 0, PSUB 1, PMUL 2, PMAX 3, PMIN 4 on integers. -/
def intOp (op : Nat) (a b : Int) : Int :=
  match op with
  | 0 => a + b
  | 1 => a - b
  | 2 => a * b
  | 3 => if a < b then b else a
  | _ => if b < a then b else a

/-- What NaN an element format writes (R213): canonical NaN, or 0 with NV for E2M1 and MXINT8. -/
def elNan (e : ElFmt) (sig : Bool) : Nat × Flags :=
  match e with
  | .float f => if f.kind = 2 then (0, flagNV) else (f.nanCode, { nv := sig })
  | _ => (0, flagNV)

/-- An exact result written into a scaled element format (R213): divided by the scale and saturated; an invalid operation
gives the format's NaN with NV. -/
def elDeliver (e : ElFmt) (rm s : Nat) (r : Option Xr) : Nat × Flags :=
  match r with
  | some x => e.roundSat rm (x.scale (127 - (s : Int)))
  | none => let (c, _) := elNan e true; (c, flagNV)

/-- The arithmetic of PADD, PSUB, PMUL on extended reals. -/
def xrOp (op rm : Nat) (x y : Xr) : Option Xr :=
  match op with
  | 0 => x.add rm y
  | 1 => x.add rm y.neg
  | _ => x.mul y

/-- One element of a scaled format (R213). -/
def packScaled (op rm s : Nat) (e : ElFmt) (a b : Nat) : Nat × Flags :=
  if s = 255 then elNan e false
  else
    match op, e with
    | 3, .float f => f.minMax true a b
    | 4, .float f => f.minMax false a b
    | 3, _ => (if sgn 8 a < sgn 8 b then b else a, noFlags)
    | 4, _ => (if sgn 8 b < sgn 8 a then b else a, noFlags)
    | _, _ =>
      let x := e.decodeScaled s a
      let y := e.decodeScaled s b
      match e with
      | .float f =>
        (f.nanRule [e.decode a, e.decode b]).getD (elDeliver e rm s (xrOp op rm x.xr y.xr))
      | _ => elDeliver e rm s (xrOp op rm x.xr y.xr)

/-- One element of PADD, PSUB, PMUL, PMAX, PMIN (R213). -/
def packElem (op rm s : Nat) (k : PackKind) (a b : Nat) : Nat × Flags :=
  match k with
  | .int w => (wrapN w (satInt (intOp op (sgn w a) (sgn w b)) (sMin w) (sMax w)), noFlags)
  | .scaled e => packScaled op rm s e a b
  | .float f =>
    match op with
    | 0 => f.add rm false a b
    | 1 => f.sub rm false a b
    | 2 => f.mul rm false a b
    | 3 => f.minMax true a b
    | _ => f.minMax false a b
  | .cpx p =>
    let x := cElem p a
    let y := cElem p b
    (cSat p (match op with
      | 0 => (x.1 + y.1, x.2 + y.2)
      | 1 => (x.1 - y.1, x.2 - y.2)
      | _ => cmul x y), noFlags)

/-- PADD to PMIN on whole registers (R213). -/
def packRegs (op rm s ef a b : Nat) : Nat × Flags :=
  let k := packKind ef
  let rs := List.zipWith (packElem op rm s k) (elemsOf 64 k.width a) (elemsOf 64 k.width b)
  (ofElems k.width (rs.map (·.1)), rs.foldl (fun x r => x.or r.2) noFlags)

/-- The exact sum of products of extended reals; `none` when any product or sum is invalid (R214). -/
def xrDot : List (Xr × Xr) → Option Xr → Option Xr
  | [], acc => acc
  | (x, y) :: rest, acc =>
    match acc, x.mul y with
    | some s, some p => xrDot rest (s.add 0 p)
    | _, _ => none

/-- Element values of a packed register of a float format (R212, R214). -/
def packVals (k : PackKind) (s x : Nat) : List FpVal :=
  (elemsOf 64 k.width x).map (fun c =>
    match k with
    | .scaled e => e.decodeScaled s c
    | .float f => f.decode c
    | .int w => .num (Xr.ofInt (sgn w c))
    | .cpx _ => .num (.fin false 0 1))

/-- PDOT (R214); called for real formats only. -/
def pdot (rm s ef a b : Nat) : Nat × Flags :=
  match packKind ef with
  | .int w =>
    (wrapN 64 ((List.zipWith (fun x y => sgn w x * sgn w y) (elemsOf 64 w a) (elemsOf 64 w b)).foldl (· + ·) 0), noFlags)
  | k =>
    let xs := packVals k s a
    let ys := packVals k s b
    if xs.any FpVal.isNan || ys.any FpVal.isNan then (0x7FC00000, flagNV)
    else
      match xrDot (List.zipWith (fun x y => (x.xr, y.xr)) xs ys) (some (.fin false 0 1)) with
      | none => (0x7FC00000, flagNV)
      | some r =>
        -- a sum of zero takes the sign R176 gives it: −0 only under RDN with terms of both signs
        match r with
        | .fin _ 0 _ =>
          let neg := List.zipWith (fun (x y : FpVal) => x.xr.isNeg != y.xr.isNeg) xs ys
          let z := if neg.all id then true else if neg.all (!·) then false else rm == 2
          (fp32.withSign z 0, noFlags)
        | _ => fp32.round rm false r

/-- PCDOT: the exact complex sum as C32 (R214). -/
def pcdot (ef a b : Nat) : Nat :=
  let p := match packKind ef with | .cpx p => p | _ => 8
  let z := (List.zipWith (fun x y => cmul (cElem p x) (cElem p y)) (elemsOf 64 (2 * p) a) (elemsOf 64 (2 * p) b)).foldl
    (fun s q => (s.1 + q.1, s.2 + q.2)) ((0, 0) : Int × Int)
  wrapN 32 z.1 + 2 ^ 32 * wrapN 32 z.2

/-- An FP32 value packed into an integer element of `w` bits (R215): a finite one beyond the format saturates to ±max with OF and NX, as R174
states for conversions, a NaN or an infinity gives what R177 says of them (log 54). -/
def packInt (rm w : Nat) (v : FpVal) : Nat × Flags :=
  match v with
  | .num (.fin neg n d) =>
    let (z, inexact) := roundToInt rm neg n d
    if z < sMin w then (wrapN w (-sMax w), { of := true, nx := true })
    else if sMax w < z then (wrapN w (sMax w), { of := true, nx := true })
    else (wrapN w z, { nx := inexact })
  | _ => let (z, fl) := toIntRange rm (sMin w) (sMax w) v; (wrapN w z, fl)

/-- One FP32 value packed into an element of the packed format (R215). -/
def packIn (k : PackKind) (rm s x : Nat) : Nat × Flags :=
  let v := fp32.decode x
  match k with
  | .int w => packInt rm w v
  | .float f => f.convert rm false v
  | .cpx p => packInt rm p v
  | .scaled e =>
    if s = 255 then elNan e false
    else match v with
      | .nan _ _ _ sig => elNan e sig
      | .num y => elDeliver e rm s (some y)

/-- PCVT (R215): `gd` old, `ga`, control word `gb`. -/
def pcvt (rm s ef gd ga gb : Nat) : Nat × Flags :=
  let k := packKind ef
  let dir := gb % 2
  let p := gb / 2 % 16
  let parts := match k with | .cpx q => 64 / (2 * q) | _ => 64 / k.width / 2
  -- width of one half of a part
  let w := match k with | .cpx q => q | _ => k.width
  if gb / 32 ≠ 0 ∨ parts ≤ p then (2 ^ 64 - 1, noFlags)
  else
    let lo := ga / 2 ^ (2 * w * p) % 2 ^ w
    let hi := ga / 2 ^ (2 * w * p + w) % 2 ^ w
    if dir = 0 then
      let conv := fun c => match k with
        | .scaled e => fp32.convert rm false (e.decodeScaled s c)
        | .float f => fp32.convert rm false (f.decode c)
        | _ => fp32.round rm false (Xr.ofInt (sgn w c))
      let (x, f1) := conv lo
      let (y, f2) := conv hi
      (x + 2 ^ 32 * y, f1.or f2)
    else
      let (x, f1) := packIn k rm s (ga % 2 ^ 32)
      let (y, f2) := packIn k rm s (ga / 2 ^ 32)
      let sh := 2 * w * p
      let kept := gd - gd / 2 ^ sh % 2 ^ (2 * w) * 2 ^ sh
      (kept + (x + 2 ^ w * y) * 2 ^ sh, f1.or f2)

end Sys2Proof.Machine
end

