-- ==== Sys2Proof/Machine/Operands.lean ====
section
/-!
DEFINITION. Machine/Operands.lean: what an instruction reads, writes, needs and does (the parts of an entry of the spec), and how
its operand fields are read when its bundle issues (R41 to R44).
-/
namespace Sys2Proof.Machine
open Sys2Proof

/-- The issue of a bundle: the issuing thread as it stands before the bundle, and the values of the special-mapped registers, read
once (R41, R44). -/
structure Ctx where
  tid : Nat
  pre : Thread
  vals : List (Nat × Word)
  bundle : Word

namespace Ctx
/-- Value of a g field (R41, R44). -/
def g (c : Ctx) (r : BitVec 6) : Word :=
  if 48 ≤ r.toNat ∧ r.toNat ≤ 59 then (((c.vals.find? (fun x => x.1 == r.toNat)).map (·.2)).getD 0) else c.pre.reg r.toNat
/-- The pending prefix flags .R, .T, .N, .H (R53, R113). -/
def pfxR (c : Ctx) : Bool := c.pre.pfx.getLsbD 4 && c.pre.pfx.getLsbD 0
def pfxT (c : Ctx) : Bool := c.pre.pfx.getLsbD 4 && c.pre.pfx.getLsbD 1
def pfxN (c : Ctx) : Bool := c.pre.pfx.getLsbD 4 && c.pre.pfx.getLsbD 2
def pfxH (c : Ctx) : Bool := c.pre.pfx.getLsbD 4 && c.pre.pfx.getLsbD 3
/-- Lanes of a v register: VLEN of them (R192). -/
def v (c : Ctx) (r : Nat) : List Lane := resizeTo 0#32 c.pre.vlen (c.pre.v.toArray.getD r [])
/-- Lanes of a mask: m0 is every lane, whatever it holds (R42, R193). -/
def m (c : Ctx) (k : Nat) : List Bool := if k = 0 then List.replicate c.pre.vlen true else resizeTo false c.pre.vlen (c.pre.m.toArray.getD k [])
/-- Lanes of a mask register as data (R211). -/
def mreg (c : Ctx) (k : Nat) : List Bool := if k = 0 then List.replicate c.pre.vlen true else resizeTo false c.pre.vlen (c.pre.m.toArray.getD k [])
end Ctx

/-- What the checks of an instruction find: it goes on, it takes a fault of a rank of R142, or the bundle does not issue and the
state changes in another way (it parks, loses its cycle, or its thread moves); a wait for what may turn out to be a fault has that
fault's rank. -/
inductive Verdict where
  | ok
  | fault (rank cause info : Nat) (eval : Word)
  | divert (rank : Nat) (s : State)

/-- A wait or move that every fault goes before. -/
def Verdict.wait (s : State) : Verdict := .divert 100 s

/-- The rank of a verdict: what is not ok counts before what is. -/
def Verdict.rank : Verdict → Nat
  | .ok => 101
  | .fault r _ _ _ => r
  | .divert r _ => r

/-- The verdict on two things (R142): the one of the lower rank, the first on a tie. -/
def worst (a b : Verdict) : Verdict := if b.rank < a.rank then b else a

/-- The verdict of lowest rank, the first among equals (R142, R197). -/
def worstOf (vs : List Verdict) : Verdict := vs.foldl worst .ok

/-- The parts of an instruction's entry: source g fields in ascending bit order, written registers (R52), extensions (R55), a
decode check that depends on the mode, register-class checks (step 7), faults and waits before issue, effect, FCTL flags. -/
structure Sem where
  srcs : List (BitVec 6) := []
  wg : List Nat := []
  wv : List Nat := []
  wm : List Nat := []
  wh : List Nat := []
  exts : Ctx → State → Nat := fun _ _ => 1
  illop : Thread → Bool := fun _ => false
  illreg : Ctx → State → Option Nat := fun _ _ => none
  check : Ctx → State → Verdict := fun _ _ => .ok
  run : Ctx → State → State := fun _ s => s
  flags : Ctx → Flags := fun _ => noFlags

/-- Extension bits (R54). -/
abbrev extBASE := 1
abbrev extVEC := 2
abbrev extMAT := 4
abbrev extRAT := 8
abbrev extCPLX := 16

/-- An instruction that computes one g register from g registers (R71). -/
def semReg (srcs : List (BitVec 6)) (d : BitVec 6) (f : Ctx → Word) : Sem :=
  { srcs := srcs, wg := [d.toNat], run := fun c s => regWrite c.tid d.toNat (f c) s }

/-- The first source register that yields nothing yet (R41), after those named before it; one that is bound to nothing is refused later,
at step 7. -/
def firstEmpty (s : State) (t : Thread) : List Nat → List (BitVec 6) → Option (BitVec 6)
  | _, [] => none
  | before, r :: rs => if sourceAmong s t before r.toNat == .empty then some r else firstEmpty s t (before ++ [r.toNat]) rs

/-- The values of the special-mapped registers that a bundle names, each read once, after those named before them (R44). -/
def valsFrom (s : State) (t : Thread) : List Nat → List (BitVec 6) → List (Nat × Word)
  | _, [] => []
  | before, r :: rs =>
    let more := valsFrom s t (before ++ [r.toNat]) rs
    if 48 ≤ r.toNat ∧ r.toNat ≤ 59 then (match sourceAmong s t before r.toNat with | .value v => (r.toNat, v) :: more | _ => more) else more

/-- The values of the special-mapped registers that a bundle names. -/
def specialVals (s : State) (t : Thread) (rs : List (BitVec 6)) : List (Nat × Word) := valsFrom s t [] rs

/-- Step 7 for a source field: a register that is bound to nothing (R43, R129, R251, R362). -/
def srcIllreg (s : State) (t : Thread) (r : BitVec 6) : Bool := sourceOf s t r.toNat == .unbound

/-- Step 7 for a destination field: g48 to g51, an unbound g52 to g59, a fifth unread round (R43, R98, R362). -/
def dstIllreg (t : Thread) (d : Nat) : Bool :=
  if d < 48 ∨ 59 < d then false
  else if d ≤ 51 then true
  else if d ≤ 55 then
    match t.groups.toArray.getD (d - 52) none with
    | none => true
    | some b => 4 ≤ (b.sent - b.got) + b.results.length
  else (t.queues.toArray.getD (d - 56) none).isNone

/-- Whether a written set shares a register with another (R52); writes to g0 never conflict. -/
def Sem.conflict (a b : Sem) : Bool :=
  a.wg.any (fun r => r != 0 && b.wg.contains r) || (a.wv.any b.wv.contains || (a.wm.any b.wm.contains || a.wh.any b.wh.contains))

end Sys2Proof.Machine
end

