-- ==== Sys2Proof/Machine/Issue.lean ====
section
/-!
DEFINITION. Machine/Issue.lean: how a bundle issues: the checks of R51 from step 5 on, sources, extensions, register classes, fault
priority, read actions, and the effects of both slots (03 R41, R44, R51, R52, 08 R142).
-/
namespace Sys2Proof.Machine
open Sys2Proof

/-- The register of a slot that fails step 7 of R51, if any: a class check of the entry, then destination, then sources, an order that the
spec leaves open (log 53). -/
def illregOf (x : Sem) (c : Ctx) (s : State) : Option Nat :=
  match x.illreg c s with
  | some r => some r
  | none => match x.wg.find? (dstIllreg c.pre) with
    | some r => some r
    | none => (x.srcs.find? (srcIllreg s c.pre)).map (·.toNat)

/-- What every issued bundle does to its thread before its slots act: the pc is past it, the prefix is spent (R113), the hold counts
it (R313), and the cycle is its last issue (R58). -/
def Thread.issued (t : Thread) (cycle : Nat) : Thread :=
  { t with
    pc := t.pc + 8
    issuedPc := t.pc
    issuedPfx := t.pfx
    pfx := 0
    afterPfx := false
    notBefore := 0
    vmemPass := 0
    vmemRead := []
    lastIssue := some cycle
    holdCount := if t.khold then t.holdCount + 1 else t.holdCount }

/-- The bundle issues: read actions (R44), the V slot, the S slot (R41), the flags (R184). -/
def commit (c : Ctx) (si vi : Sem) (s : State) : State :=
  let s := (c.vals.map (·.1)).eraseDups.foldl (fun s r => readAction c.tid r s) s
  let s := s.updThread c.tid (fun t => t.issued ((s.core c.pre.pos.coreRef).cycle - 1))
  let s := si.run c (vi.run c s)
  let f := (vi.flags c).or (si.flags c)
  if f = noFlags then s else raiseFlags c.tid f s

/-- The g registers a slot names: a read or write of g52 to g59 waits for the relaxed accesses (R132). -/
def Sem.shared (x : Sem) : List Nat := x.srcs.map (·.toNat) ++ x.wg

/-- An uncorrectable soft error in a source register (R142 rank 14). -/
def regEcc (t : Thread) (rs : List (BitVec 6)) : Verdict :=
  match rs.find? (fun r => t.badRegs.getLsbD r.toNat) with
  | some r => .fault 14 cECC 0 (word (0xFFFFFFFFFFFFFF00 + r.toNat))
  | none => .ok

/-- A bundle of a READY resident thread from step 5 of R51 on. -/
def issueThread (tid : Nat) (t : Thread) (si vi : Sem) (s : State) : State :=
  let srcs := si.srcs ++ vi.srcs
  let c : Ctx := ⟨tid, t, specialVals s t srcs, s.bundle⟩
  if si.illop t || (vi.illop t || si.conflict vi) then takeTrap tid cILLOP 0 s.bundle t.pc s
  else match firstEmpty s t [] srcs with
  | some r =>
    match t.lost.find? (fun l => l.d == r.toNat) with
    | some l => reportLost tid l t.pc s
    | none => park tid (.reg r.toNat) s
  | none =>
    let need := si.exts c s ||| vi.exts c s
    if need &&& (s.core t.pos.coreRef).extid.toNat ≠ need then
      (extMigrate tid t need s).getD (takeTrap tid cILLOP 0 s.bundle t.pc s)
    else match (illregOf si c s).or (illregOf vi c s) with
    | some r => takeTrap tid cILLREG 0 (word r) t.pc s
    | none =>
      match worst (worst (si.check c s) (vi.check c s)) (regEcc t srcs) with
      | .fault _ cause info eval =>
        let s := if cause = cRLOST then s.updThread tid (fun t => { t with lost := t.lost.tail }) else if cause = cBRK then s.tick else s
        takeTrap tid cause info eval t.pc s
      | .divert _ s' => s'
      | .ok =>
        match fullAmong s t [] (vi.wg ++ si.wg) with
        | some d => park tid (.queueFull d) s
        | none =>
          if (si.shared ++ vi.shared).any (fun r => 52 ≤ r && r ≤ 59) then
            match t.lost with
            | l :: _ => reportLost tid l t.pc s
            | [] => if t.relaxed.isEmpty then commit c si vi s else park tid .drain s
          else commit c si vi s

/-- The slot that holds no instruction. -/
def semNop : Sem := { exts := fun _ _ => 0 }

/-- Issues a bundle of the thread whose turn it is. -/
def issue (si vi : Sem) (s : State) : Host.Outcome State Fault Refusal :=
  match s.cur with
  | none => .next s
  | some tid =>
    match s.thread? tid with
    | none => .next s
    | some t => .next (if t.status = .ready ∧ t.slot?.isSome then issueThread tid t si vi s else s)

/-- An S-slot instruction beside VNOP. -/
def issueS (x : Sem) (s : State) : Host.Outcome State Fault Refusal := issue x semNop s

/-- A V-slot instruction beside SNOP. -/
def issueV (x : Sem) (s : State) : Host.Outcome State Fault Refusal := issue semNop x s

/-! ### Events -/

/-- An event on the object its turn names; an event that is not enabled changes nothing (log 15). -/
def onThread (s : State) (f : Nat → Thread → State) : Host.Outcome State Fault Refusal :=
  match s.obj with
  | .thread tid => match s.thread? tid with
    | some t => .next (f tid t)
    | none => .next s
  | _ => .next s

end Sys2Proof.Machine
end

