-- ==== Sys2Proof/Machine/Access.lean ====
section
/-!
DEFINITION. Machine/Access.lean: one memory access of a thread: its checks in the order of R142, its route (R95), what it does at the
word's point of coherence (R99 to R109), relaxed accesses (R115) and round trips (R351).
-/
namespace Sys2Proof.Machine
open Sys2Proof

/-! ### At the point of coherence -/

/-- The value an AMO writes (R105): op, width in bits, old value, operand. -/
def amoNew (op n o b : Nat) : Nat :=
  match op with
  | 0 => (o + b) % 2 ^ n
  | 1 => o &&& b
  | 2 => o ||| b
  | 3 => o ^^^ b
  | 4 => if sgn n o ≤ sgn n b then o else b
  | 5 => if sgn n b ≤ sgn n o then o else b
  | 6 => min o b
  | 7 => max o b
  | _ => b

/-- The value a FAMO writes (R107). -/
def famoNew (op : Nat) (f : FpFmt) (o b : Nat) : Nat :=
  match op with
  | 0 => (f.add 0 false o b).1
  | 1 => (f.minMax false o b).1
  | _ => (f.minMax true o b).1

/-- Performs an access at its word: the state after it, and its result; none when it waits at the word (R101, R109). A fixed-latency
access is performed in the turn in which its bundle issues, so that every later turn of the tile sees it: R69 leaves open what a bundle
1 to 7 cycles later sees (log 13). -/
def perform (a : Access) (req : Option Nat) (s : State) : State × Option Word :=
  let w := a.pa / 8
  let s := if a.tent then logUndo a.tid a.va w a.fePage s else s
  match a.op with
  | .load n sg => (s, some (if sg then sext (s.rd a.pa n) (8 * n) else word (s.rd a.pa n)))
  | .store n => (storeAt a.pa n a.a.toNat s, some 0)
  | .lds =>
    if feGet s.fe w then (s, some (s.rdWord a.pa))
    else ({ s with feWaiters := s.feWaiters ++ [⟨a.tid, w, a.va, a.d, false, req, none⟩] }, none)
  | .ldc =>
    if feGet s.fe w then (setFe w false s, some (s.rdWord a.pa))
    else ({ s with feWaiters := s.feWaiters ++ [⟨a.tid, w, a.va, a.d, true, req, none⟩] }, none)
  | .stf => (setFe w true (storeAt a.pa 8 a.a.toNat s), some 0)
  | .feset => (setFe w true s, some 0)
  | .feclr => (setFe w false s, some 0)
  | .fetst => (s, some (word (b2n (feGet s.fe w))))
  | .amo op n _ =>
    let o := s.rd a.pa n
    (storeAt a.pa n (amoNew op (8 * n) o (a.a.toNat % 2 ^ (8 * n))) s, some (sext o (8 * n)))
  | .cas n =>
    let o := s.rd a.pa n
    (if o = a.b.toNat % 2 ^ (8 * n) then storeAt a.pa n a.a.toNat s else s, some (sext o (8 * n)))
  | .famo op dbl =>
    let n := if dbl then 8 else 4
    let o := s.rd a.pa n
    (storeAt a.pa n (famoNew op (if dbl then fp64 else fp32) o (a.a.toNat % 2 ^ (8 * n))) s, some (word o))
  | .lock =>
    match lockStep (s.rd a.pa 8) (crewIdOf s a.tid) with
    | some (v, r) => (storeAt a.pa 8 v s, some r)
    | none => ({ s with lockWaiters := s.lockWaiters ++ [⟨a.tid, w, a.d, req⟩] }, none)
  | .unlk =>
    let (v, r) := unlockStep (s.rd a.pa 8) (crewIdOf s a.tid)
    (storeAt a.pa 8 v s, some r)

/-- Whether an access may write its word. -/
def AccOp.writes : AccOp → Bool
  | .load _ _ => false
  | .lds => false
  | .ldc => false
  | .feset => false
  | .feclr => false
  | .fetst => false
  | _ => true

/-- An access at its word, with the coherence of translation (R156). -/
def performAt (a : Access) (req : Option Nat) (s : State) : State × Option Word :=
  let x := perform a req s
  if a.op.writes then (dropTlb (a.pa / 8) x.1, x.2) else x

/-- Whether an access reads its word. -/
def AccOp.reads : AccOp → Bool
  | .store _ => false
  | .stf => false
  | .feset => false
  | .feclr => false
  | .fetst => false
  | _ => true

/-! ### What an instruction asks of memory -/

/-- An instruction's access: address, width, kind (0 read, 1 write, 3 atomic or FE), operation, destination, operands, and its class:
indivisible (R96), FE operation, tentative form (R125), relaxable (R113). -/
structure MemReq where
  ea : Word
  bytes : Nat
  kind : Nat
  op : AccOp
  d : Nat := 0
  a : Word := 0
  b : Word := 0
  ind : Bool := false
  fe : Bool := false
  store : Bool := false
  relax : Bool := false

/-- Whether the access is a relaxed one (R113, R115). -/
def MemReq.relaxed (q : MemReq) (c : Ctx) : Bool := q.relax && (c.pfxR && !(c.pfxT || c.pfxH))

/-- Whether the store is tentative (R125, R144). -/
def MemReq.tentative (q : MemReq) (c : Ctx) (tg : Target) : Bool :=
  q.store && (c.pre.priv == 0 && ((c.pfxT || c.pre.tent) && tg.aper != 2))

/-- Whether a thread may reach a target at all (R95, R422): its own TCM area, its tile's scratchpad, shared memory, host. -/
def reachable (t : Thread) (tg : Target) : Bool :=
  tg.aper == 2 ||
    match regionOf tg.pa with
    | .hbm => true
    | .sram _ => true
    | .scratch d k => tg.aper == 0 && (d == t.pos.die && k == t.pos.tile)
    | .tcm _ _ _ _ => tg.aper == 0 && (tcmBase t.pos ≤ tg.pa && tg.pa < tcmBase t.pos + 2048)
    | .none => false

/-- Own TCM and scratchpad complete at fixed latency (R62, R95). -/
def fixedLatency (tg : Target) : Bool :=
  tg.aper == 0 && (match regionOf tg.pa with | .scratch _ _ => true | .tcm _ _ _ _ => true | _ => false)

/-- Whether a relaxed access leaves its thread at issue: one at fixed latency completes there (R62, R95). -/
def MemReq.outstanding (q : MemReq) (c : Ctx) (tg : Target) : Bool := q.relaxed c && !fixedLatency tg

/-- Whether a byte lies in an area of the collective range table (R366). -/
def inRange (s : State) (part : Nat) (tg : Target) : Bool :=
  tg.aper != 2 && (s.part ⟨tg.pkg, part⟩).rangeTab.any (fun r => r.2 / 4096 == tg.pa / 4096)

/-- The slot an access migrates its thread to, when every condition of R354 holds. -/
def migrateTo (q : MemReq) (c : Ctx) (s : State) (tg : Target) : Option Pos :=
  let t := c.pre
  if tg.aper = 1 ∧ bitAt tg.leaf 6 = true ∧ c.pfxN = false ∧ (q.relax && c.pfxR) = false ∧ (q.store && c.pfxT) = false ∧
      t.priv = 0 ∧ t.tent = false ∧ holdsResources s c.tid t = false ∧ t.khold = false ∧
      t.queues.toList.all (·.isNone) = true ∧ t.streams.toList.all (·.isNone) = true ∧
      hosts s tg.pkg t.part = true ∧ t.appt ≤ s.now t.pos.pkg then
    memorySlot s t tg.pkg tg.pa false
  else none

/-- The walk of a missed translation is asked for and the thread parks (R156). -/
def missPark (tid : Nat) (va kind : Nat) (s : State) : State := (park tid (.walk va kind) s).post .tlbWalkDone (.threadNum tid va)

/-- Waits of a thread before an access that is not relaxed, a fence or a move: a lost relaxed access is reported (R351), the
outstanding ones are drained (R115). -/
def drainCheck (c : Ctx) (s : State) : Verdict :=
  match c.pre.lost with
  | l :: _ => .fault 15 cRLOST l.kind (word l.va)
  | [] => if c.pre.relaxed.isEmpty then .ok else .wait (park c.tid .drain s)

/-- Faults and waits of an access in the rank order of R142, and its migration (R95). -/
def memCheck (q : MemReq) (c : Ctx) (s : State) : Verdict :=
  if q.ea.toNat % q.bytes ≠ 0 then .fault 6 cALIGN q.kind q.ea
  else match translate s c.pre q.ea.toNat q.kind with
  | .miss => .divert 7 (missPark c.tid q.ea.toNat q.kind s)
  | .fault cause => .fault (if cause = cXLATE then 7 else 8) cause q.kind q.ea
  | .ok tg =>
    let mig := migrateTo q c s tg
    if reachable c.pre tg = false then .fault 8 cPERM q.kind q.ea
    else if q.ind ∧ mig.isNone ∧ (tg.aper = 2 ∨ (tg.aper = 1 ∧ bitAt tg.leaf 7 = false)) then .fault 9 cRAPERM 3 q.ea
    else if q.fe ∧ leafFE tg.leaf = false then .fault 10 cFEPAGE 3 q.ea
    else if (!q.ind || q.relaxed c) ∧ inRange s c.pre.part tg then .fault 11 cRANGE q.kind q.ea
    else if q.tentative c tg ∧
        bits c.pre.tlog.toNat 26 16 < bits c.pre.tlog.toNat 42 32 + 16 * ((c.pre.relaxed.filter (·.tent)).length + 1) then
      .fault 12 cTENTOVF 1 q.ea
    else if q.op.reads ∧ s.bad tg.ga = true then .fault 14 cECC q.kind q.ea
    else match mig with
    | some dst =>
      match drainCheck c s with
      | .ok => .wait (if jobsPending s c.pre.pos.tileRef c.tid then park c.tid .jobsDone s else autoDepart c.tid dst s)
      | v => v
    | none =>
      if q.relaxed c then (if q.outstanding c tg ∧ 8 ≤ c.pre.relaxed.length then .wait (park c.tid .ninth s) else .ok)
      else match drainCheck c s with
      | .ok => if c.pfxH ∧ c.pre.posted ≠ 0 then .wait (park c.tid .postH s) else .ok
      | v => v

/-! ### Records -/

/-- The first verdict that is not ok. -/
def firstVerdict : List Verdict → Verdict
  | [] => .ok
  | .ok :: vs => firstVerdict vs
  | v :: _ => v

/-- Translation of one address that an instruction reads (kind 0) beside its own access. -/
def readCheck (c : Ctx) (s : State) (va : Word) : Verdict :=
  match translate s c.pre va.toNat 0 with
  | .miss => .divert 7 (missPark c.tid va.toNat 0 s)
  | .fault cause => .fault (if cause = cXLATE then 7 else 8) cause 0 va
  | .ok tg =>
    if reachable c.pre tg = false then .fault 8 cPERM 0 va
    else match (List.range 8).find? (fun k => s.bad (tg.ga + 8 * k)) with
    | some k => .fault 14 cECC 0 (va + word (8 * k))
    | none => .ok

/-- A record of `n` 64-byte lines that an instruction reads through the thread's translation (R97, R119, R123): of the faults of its
lines the lowest rank counts, and a line whose translation is missing may have the fault of rank 7 (R142). -/
def recordCheck (c : Ctx) (s : State) (ea : Word) (n : Nat) : Verdict :=
  if ea.toNat % 64 ≠ 0 then .fault 6 cALIGN 0 ea
  else worstOf ((List.range n).map (fun k => readCheck c s (ea + word (64 * k))))

/-- The words of a record whose lines translate. -/
def readRecord (s : State) (t : Thread) (ea : Word) (n : Nat) : List Word :=
  (List.range (8 * n)).map (fun k => match translate s t (ea + word (8 * k)).toNat 0 with
    | .ok tg => s.rdWord tg.ga
    | _ => 0)

/-! ### Sealed handles (R241 to R243) -/

/-- Address of the table entry of a handle, on a package (R242). -/
def handleAddr (pkg : Nat) (htab h : Word) : Nat := devAddr pkg (htab.toNat + bits h.toNat 13 12 * 0x40000 + bits h.toNat 11 0 * 64)

/-- The conditions of a live handle that do not read its entry (R242). -/
def handleFits (t : Thread) (h : Word) : Bool :=
  bits h.toNat 63 63 == 0 && (bits h.toNat 28 18 == 0 && (bits h.toNat 62 53 == t.pos.pkg && (bits h.toNat 17 14 == t.part &&
    (bits h.toNat 52 29 != 0 && bits t.htab.toNat 51 6 != 0))))

/-- Whether a handle is live for a thread (R242). -/
def handleLive (s : State) (t : Thread) (h : Word) : Bool :=
  handleFits t h && (let e := (s.rdWord (handleAddr t.pos.pkg t.htab h + 56)).toNat
    bitAt e 63 && (bits e 23 0 == bits h.toNat 52 29))

/-- The sealed record of a handle. -/
def handleRecord (s : State) (t : Thread) (h : Word) : List Word :=
  (List.range 8).map (fun k => s.rdWord (handleAddr t.pos.pkg t.htab h + 8 * k))

/-- An engine's use of a handle (R242, R243): the fault of a dead one, the wait for an entry that the tile does not hold. -/
def handleCheck (c : Ctx) (s : State) (h : Word) : Verdict :=
  if handleFits c.pre h = false then .fault 5 cHANDLE 0 h
  else if (s.tile c.pre.pos.tileRef).handles.contains (handleAddr c.pre.pos.pkg c.pre.htab h) then
    (if handleLive s c.pre h then .ok else .fault 5 cHANDLE 0 h)
  else .divert 5 ((park c.tid (.handle h) s).post .handleCacheFill (.threadNum c.tid (handleAddr c.pre.pos.pkg c.pre.htab h)))

/-! ### Round trips (R351) -/

/-- A port gives a request its sequence number (R351): none while the next one was sent within the last 100 µs. -/
def takeSeq (s : State) (p : PortRef) : Option Nat :=
  let x := s.port p
  let n := x.nextSeq % 2 ^ 20
  match x.used.get? n with
  | some _ => none
  | none => some n

/-- Whether an earlier relaxed access of the thread to the same 64-bit word is outstanding (R115). -/
def relaxedBefore (t : Thread) (a : Access) : Bool :=
  (t.relaxed.takeWhile (fun x => x.id != a.id)).any (fun x => x.pa / 8 == a.pa / 8)

/-- Whether a request must not leave yet: an earlier relaxed access of its thread to the same word is outstanding (R115, R132). -/
def waitsTurn (s : State) (r : SpanReq) : Bool :=
  r.relaxed && ((s.thread? r.acc.tid).map (fun t => relaxedBefore t r.acc)).getD false

/-- A request is on its way: what is known of it changes, and it reaches its destination in a later turn. -/
def launchReq (q : Nat) (f : SpanReq → SpanReq) (s : State) : State :=
  ({ s with reqs := s.reqs.upd q (fun r => { f r with held := false, sent := s.now r.src.pkg }) }).post .remoteRequest (.num q)

/-- Sends a request, or holds it at its port until its turn, a route and a number are there (R350, R351). -/
def sendReq (q : Nat) (s : State) : State :=
  match s.reqs.get? q with
  | none => s
  | some r =>
    if waitsTurn s r then s
    else if r.host then launchReq q id s
    else match s.thread? r.acc.tid with
    | none => s
    | some t =>
      match routePort s r.src.pkg t.part t.launch r.dest with
      | none => s
      | some p => if r.tagged then launchReq q id s
        else match takeSeq s p with
        | none => { s with reqs := s.reqs.upd q (fun r => { r with src := p }) }
        | some n =>
          let s := s.updPort p (fun x => { x with nextSeq := (n + 1) % 2 ^ 20, used := x.used.set n (s.now r.src.pkg) })
          launchReq q (fun r => { r with src := p, seq := n, tagged := true }) s

/-- A new request for an access through Span, or to the host's memory. -/
def newReq (a : Access) (tg : Target) (relaxed posted : Bool) (src : Nat) (s : State) : State :=
  let r : SpanReq := ⟨a, ⟨src, 0⟩, tg.pkg, 0, tg.aper == 2, relaxed, posted, true, false, 0, 0, false, false, none⟩
  sendReq a.id { s with reqs := s.reqs.set a.id r }

/-- An access that leaves its thread at issue (R115): the thread goes on, and a store to host aperture is posted (R136). Such a store and
the thread's relaxed accesses to other words take their places in any order: of R132 and R136 the model follows R132 (log 60). -/
def runRelaxed (q : MemReq) (c : Ctx) (tg : Target) (a : Access) (s : State) : State :=
  let post := tg.aper == 2 && q.store
  let s := s.updThread c.tid (fun t => { t.owe q.d with relaxed := t.relaxed ++ [a], posted := t.posted + b2n post })
  if tg.aper = 0 then s.post .relaxedReply (.threadNum c.tid a.id) else newReq a tg true post c.pre.pos.pkg s

/-- An access to local memory: at fixed latency it completes at once, else its reply is to come, or it waits at its word; a write to a
table word waits for the drop of the translations drawn from it (R62, R95, R156). -/
def runLocal (q : MemReq) (c : Ctx) (tg : Target) (a : Access) (s : State) : State :=
  let table := q.op.writes && tableCached s (a.pa / 8)
  let x := perform a none s
  match (if q.op.writes && !table then recheckWaiters x.1 else x.1), x.2 with
  | s, some v =>
    if fixedLatency tg && !table then regWrite c.tid q.d v s
    else
      let s := park c.tid (.reply q.d v) (s.updThread c.tid (·.owe q.d))
      if table then s.post .translationDropDone (.threadNum c.tid (a.pa / 8)) else s.post .memoryReply (.thread c.tid)
  | s, none => park c.tid (match q.op with | .lock => .lock | _ => .word) (s.updThread c.tid (·.owe q.d))

/-- An access to peer or host memory: a round trip for which the thread parks, or a posted store to the host (R95, R136, R351). -/
def runAway (q : MemReq) (c : Ctx) (tg : Target) (a : Access) (s : State) : State :=
  if tg.aper = 2 ∧ q.store = true ∧ c.pfxH = false then
    let s := newReq a tg false true c.pre.pos.pkg (s.updThread c.tid (fun t => { t with posted := t.posted + 1 }))
    (park c.tid (.reply 0 0) s).post .memoryReply (.thread c.tid)
  else newReq a tg false false c.pre.pos.pkg (park c.tid (.remote a.id) (s.updThread c.tid (·.owe q.d)))

/-- The access of a thread on its way (R62, R95, R115). -/
def memRun (q : MemReq) (c : Ctx) (s : State) : State :=
  match translate s c.pre q.ea.toNat q.kind with
  | .ok tg =>
    let a : Access := ⟨s.fresh, c.tid, q.op, q.ea.toNat, tg.ga, q.a, q.b, q.d, q.tentative c tg, leafFE tg.leaf⟩
    if q.outstanding c tg then runRelaxed q c tg a s.tick
    else if tg.aper = 0 then runLocal q c tg a s.tick
    else runAway q c tg a s.tick
  | _ => s

/-- The parts of a memory instruction. -/
def semMem (srcs : List (BitVec 6)) (wg : List Nat) (q : Ctx → MemReq) : Sem :=
  { srcs := srcs, wg := wg, check := fun c s => memCheck (q c) c s, run := fun c s => memRun (q c) c s }

end Sys2Proof.Machine
end

