-- ==== Sys2Proof/Machine/Coll.lean ====
section
/-!
DEFINITION. Machine/Coll.lean: collective groups: COPEN, CCLOSE, CWAIT and the completion of a round (22 R360 to R372, 23 R378).
-/
namespace Sys2Proof.Machine
open Sys2Proof

/-! ### Trees (R378) -/

/-- The routers of a launch's trees as its tree table defines them (R360, R378): at every tile with leaves, its cores as children; the
dispatcher chooses the parent ports (log 49). -/
def treeRouters (x : Launch) (n : Nat) : List Router :=
  let w := (x.words.getD 3 0).toNat
  let all := (List.range 64).flatMap (fun g =>
    let e := (x.trees.getD g 0).toNat
    if bitAt e 63 then x.pkgs.flatMap (fun p => (rectTiles w p).map (fun tl => (⟨g, tl, 0, bits e 7 0⟩ : Router))) else [])
  all.zipIdx.map (fun (r, i) => { r with parent := Config.parentPort (n + i) })

/-- The leaves of a group of a launch in tree order, from its routers; none when the launch defines no such group. -/
def treeLeaves (x : Launch) (g : Nat) : Option (List Pos) :=
  let slot := bits (x.trees.getD g 0).toNat 15 12
  match x.routers.filter (fun r => r.group == g) with
  | [] => none
  | rs => some (rs.flatMap (fun r => ((List.range 8).filter (fun c => bitAt r.children c)).map (fun c =>
      (⟨r.tile.pkg, r.tile.die, r.tile.tile, c, slot⟩ : Pos))))

/-! ### Combining (R363) -/

/-- One half or the whole of an integer step: OP SUM 0, MIN 1, MAX 2, AND 3, OR 4, XOR 5. -/
def collInt (op w a b : Nat) : Nat :=
  match op with
  | 0 => (a + b) % 2 ^ w
  | 1 => if sgn w a ≤ sgn w b then a else b
  | 2 => if sgn w b ≤ sgn w a then a else b
  | 3 => a &&& b
  | 4 => a ||| b
  | _ => a ^^^ b

/-- A float step. -/
def collFp (op : Nat) (f : FpFmt) (a b : Nat) : Nat :=
  match op with
  | 0 => if (f.decode a).isNan ∨ (f.decode b).isNan then f.nanCode else (f.add 0 false a b).1
  | 1 => (f.minMax false a b).1
  | _ => (f.minMax true a b).1

/-- A step on 64-bit contributions: TYPE I64 0, F64 1, I32X2 2, F32X2 3. -/
def collStep (op ty : Nat) (a b : Word) : Word :=
  let x := a.toNat
  let y := b.toNat
  let halves := fun (f : Nat → Nat → Nat) => word (f (x % 2 ^ 32) (y % 2 ^ 32) + 2 ^ 32 * f (x / 2 ^ 32) (y / 2 ^ 32))
  match ty with
  | 0 => word (collInt op 64 x y)
  | 1 => word (collFp op fp64 x y)
  | 2 => halves (collInt op 32)
  | _ => halves (collFp op fp32)

/-- A lone contribution, rounded as the steps round. -/
def collOne (op ty : Nat) (a : Word) : Word :=
  let one := fun (f : FpFmt) (x : Nat) => if op = 0 then (if (f.decode x).isNan then f.nanCode else x) else collFp op f x x
  match ty with
  | 1 => word (one fp64 a.toNat)
  | 3 => word (one fp32 (a.toNat % 2 ^ 32) + 2 ^ 32 * one fp32 (a.toNat / 2 ^ 32))
  | _ => a

/-- Combines partial results two at a time, in an order the spec leaves open (log 10). -/
def combineFree (op ty : Nat) : Nat → List Word → Nat → Option Word
  | 0, ws, _ => ws.head?
  | n + 1, ws, k =>
    match ws with
    | [] => none
    | [w] => some w
    | _ =>
      let i := Config.combinePick k % ws.length
      let a := ws.getD i 0
      let rest := ws.eraseIdx i
      let j := Config.combinePick (k + 1) % rest.length
      combineFree op ty n (collStep op ty a (rest.getD j 0) :: rest.eraseIdx j) (k + 2)

/-- The result of a round, and how many free choices it used. -/
def roundResult (g : Group) (r : Round) (k : Nat) : Word × Nat :=
  let ws := r.given.map (·.2)
  if g.op = 6 then
    (match g.leaves.head?.bind (fun p => r.given.find? (fun e => e.1 == p)) with
     | some e => (e.2, 0)
     | none => (Config.bcastGone k, 1))
  else match ws with
  | [w] => (collOne g.op g.ty w, 0)
  | _ =>
    if g.ty % 2 = 1 then ((combineFree g.op g.ty ws.length ws k).getD 0, 2 * ws.length)
    else (ws.tail.foldl (collStep g.op g.ty) (ws.headD 0), 0)

/-! ### COPEN (R368 to R370) -/

/-- A malformed group or control word, or a combination that R363 or R364 does not permit. -/
def badControl (ga gb : Nat) : Bool :=
  let alg := bits gb 63 62
  let op := bits gb 61 58
  64 ≤ ga || (alg == 3 || (7 ≤ op || (bits gb 55 52 != 0 || (bits gb 11 0 != 0 ||
    ((3 ≤ op && (op ≤ 5 && bits gb 57 56 % 2 == 1)) || (alg == 0 && bits gb 51 12 != 0))))))

/-- Staging address of a control word. -/
def stagingVa (gb : Nat) : Nat := (sext (bits gb 51 12 * 4096) 52).toNat

/-- Whether the issuer may read and write the staging area, both its halves, on a local page without FE bits (R369 BUFPERM). -/
def stagingOk (s : State) (t : Thread) (va : Nat) : Bool :=
  [(0, 0), (0, 1), (2048, 0), (2048, 1)].all (fun x =>
    match translateNow s t.pos.tileRef (s.cfgOf t).root t.part t.priv ((va + x.1) % 2 ^ 64) x.2 with
    | .ok tg => tg.aper == 0 && (!leafFE tg.leaf && reachable t tg)
    | _ => false)

/-- Physical base of the staging area on a package, as the partition's tables there map it to the package's own memory (R154, R366). -/
def stagingPa (s : State) (pkg part launch va : Nat) : Option Nat :=
  (walk s (s.cfg pkg part launch).root pkg part va).bind (fun e =>
    let tg := leafTarget pkg va e
    if tg.aper = 0 then some tg.pa else none)

/-- The links that a SWITCH tree over several packages runs over: between its first package and each of the others (log 10). -/
def treeLinks (pkgs : List Nat) : List (Nat × Nat) :=
  match pkgs with
  | a :: bs => bs.flatMap (fun b => [(a, b), (b, a)])
  | [] => []

/-- The ports whose reduction slots such a tree needs (R364, R365). -/
def treePorts (s : State) (part launch : Nat) (pkgs : List Nat) : List PortRef :=
  ((treeLinks pkgs).filterMap (fun e => routePort s e.1 part launch e.2)).eraseDups

/-- Whether an open can reach the group's routers now (R350): those of a SWITCH tree at every port of it. -/
def treeRouted (s : State) (part launch : Nat) (pkgs : List Nat) (alg : Nat) : Bool :=
  alg != 0 || (treeLinks pkgs).all (fun e => routed s e.1 part launch e.2)

/-- What an open group holds in ports and range tables is given back. -/
def dropHoldings (part g : Nat) (s : State) : State :=
  { s with
    parts := s.parts.map (fun (e : PartRef × Part) => if e.1.part = part then
      (e.1, { e.2 with rangeTab := e.2.rangeTab.filter (fun r => r.1 != g) }) else e)
    ports := s.ports.map (fun (e : PortRef × SpanPort) => (e.1, { e.2 with redSlots := e.2.redSlots.filter (· != (part, g)) })) }

/-- Claims what the algorithm needs; a refusal's reason when it cannot. The entry of a package whose tables do not map the staging area
covers nothing there. -/
def claimHoldings (part launch g alg va : Nat) (pkgs : List Nat) (s : State) : Except Nat State :=
  if alg = 0 then
    let ps := treePorts s part launch pkgs
    if ps.any (fun p => 32 ≤ (s.port p).redSlots.length) then .error 1
    else .ok (ps.foldl (fun s p => s.updPort p (fun x => { x with redSlots := x.redSlots ++ [(part, g)] })) s)
  else if pkgs.any (fun p => 16 ≤ (s.part ⟨p, part⟩).rangeTab.length) then .error 6
  else .ok (pkgs.foldl (fun s p =>
    s.updPart ⟨p, part⟩ (fun x => { x with rangeTab := x.rangeTab ++ [(g, (stagingPa s p part launch va).getD (2 ^ 64))] })) s)

/-- COPEN's effect (R370): the state after it and the value of gd. -/
def openGroup (s : State) (tid : Nat) (t : Thread) (k : Nat) (ga gb : Word) : State × Word :=
  let g := ga.toNat
  let b := gb.toNat
  let alg := bits b 63 62
  let op := bits b 61 58
  let ty := bits b 57 56
  let va := stagingVa b
  let launch := s.launches.get? t.launch
  let leaves := launch.bind (fun x => treeLeaves x g)
  let cur := (s.group? t.part g).bind (fun x => if x.isOpen then some x else none)
  let begun := match cur with | some x => x.first != 0 || !x.rounds.isEmpty | none => false
  if (t.groups.toArray.getD k none).isSome then (s, refusalWord 5)
  else if badControl g b then (s, refusalWord 2)
  else match leaves with
  | none => (s, refusalWord 2)
  | some ls =>
    if !(ls.contains t.start) ∨ (match cur with | some x => x.bound.any (fun e => e.1 == t.start) | none => false) = true then (s, refusalWord 3)
    else if (match cur with
      | some x => x.op != op || (x.ty != ty || (x.buf.toNat != va || (begun && x.alg != alg)))
      | none => false) then (s, refusalWord 4)
    else
      let same := match cur with | some x => x.alg == alg | none => false
      let pkgs := (launch.map (·.pkgs)).getD []
      let holds := match cur with | some x => x.alg != 0 | none => false
      if alg ≠ 0 ∧ !holds ∧ !(stagingOk s t va) then (s, refusalWord 7)
      else match (if same || (alg != 0 && holds) then .ok s else claimHoldings t.part t.launch g alg va pkgs (dropHoldings t.part g s)) with
      | .error r => (s, refusalWord r)
      | .ok s =>
        let x : Group := match cur with
          | some x => { x with alg := alg, left := x.left.filter (· != t.start) }
          | none => ⟨t.launch, ls, true, op, ty, alg, word va, [], [], 0, []⟩
        let s := { s with groups := s.groups.set (t.part, g) { x with bound := x.bound ++ [(t.start, tid, k)] } }
        (s.updThread tid (fun t => { t with groups := t.groups.setIfInBounds k (some ⟨g, x.first, x.first, []⟩) }), 0)

/-- Whether a COPEN reaches every router that it concerns now. -/
def copenRouted (s : State) (t : Thread) (gb : Word) : Bool :=
  routed s t.pos.pkg t.part t.launch (s.rootPkg t.launch t.pos.pkg) &&
    treeRouted s t.part t.launch (((s.launches.get? t.launch).map (·.pkgs)).getD []) (bits gb.toNat 63 62)

/-- COPEN parks until the group's root has answered; a request for another package, or without a route, is on its way (R350, R351). -/
def semCopen (d a b : BitVec 6) (k : BitVec 2) : Sem :=
  { srcs := [a, b], wg := [d.toNat]
    run := fun c s =>
      let root := s.rootPkg c.pre.launch c.pre.pos.pkg
      let s0 := park c.tid .answer (s.updThread c.tid (·.owe d.toNat))
      if root = c.pre.pos.pkg ∧ copenRouted s c.pre (c.g b) = true then
        let x := openGroup s0 c.tid c.pre k.toNat (c.g a) (c.g b)
        finish c.tid d.toNat x.2 x.1
      else
        let q := s.fresh
        ({ s0.tick with keyReqs := s.keyReqs.set q ⟨c.tid, c.pre.part, d.toNat, ⟨root, 0, 0, 0⟩, .group k.toNat (c.g a) (c.g b)⟩ }).post
          .memoryReply (.num q) }

/-- A COPEN at the root of its group's tree; it waits while a router has no route. -/
def groupArrive (q : Nat) (r : KeyReq) (k : Nat) (ga gb : Word) (s : State) : State :=
  match s.thread? r.tid with
  | none => s
  | some t =>
    if copenRouted s t gb then
      let x := openGroup { s with keyReqs := s.keyReqs.del q } r.tid t k ga gb
      finish r.tid r.d x.2 x.1
    else s

/-! ### CCLOSE, CWAIT (R371, R372) -/

/-- Whether every round that a member has contributed to has completed. -/
def roundsDone (b : GroupBind) : Bool := b.sent ≤ b.got

/-- CCLOSE once its rounds are complete. -/
def closeGroup (tid d k : Nat) (s : State) : State := finish tid d 0 (groupLeave tid k s)

def semCclose (d : BitVec 6) (k : BitVec 2) : Sem :=
  { wg := [d.toNat]
    run := fun c s =>
      match (s.thread? c.tid).bind (fun t => t.groups.toArray.getD k.toNat none) with
      | none => regWrite c.tid d.toNat (refusalWord 8) s
      | some b =>
        if roundsDone b then regWrite c.tid d.toNat 0 (groupLeave c.tid k.toNat s)
        else park c.tid (.cclose d.toNat k.toNat) (s.updThread c.tid (·.owe d.toNat)) }

def semCwait (d : BitVec 6) (k : BitVec 2) : Sem :=
  { wg := [d.toNat]
    run := fun c s =>
      match (s.thread? c.tid).bind (fun t => t.groups.toArray.getD k.toNat none) with
      | none => regWrite c.tid d.toNat (refusalWord 8) s
      | some b =>
        if roundsDone b then regWrite c.tid d.toNat (word b.results.length) s
        else park c.tid (.cwait d.toNat k.toNat) (s.updThread c.tid (·.owe d.toNat)) }

/-! ### Rounds (R362) -/

/-- A result that comes due while its member is swapped out or halted stands in its image or its registers, FE bit full (R159, R362). -/
def showResult (tid r : Nat) (v : Word) (s : State) : State :=
  match s.thread? tid with
  | none => s
  | some t => match imageOf s t with
    | some b =>
      let m := memWrite s.mem (b + 8 * r) 8 v.toNat
      let m := memWrite m (b + 512) 8 (memRead m (b + 512) 8 ||| 2 ^ r)
      { s with mem := memWrite m (b + 520) 8 (memRead m (b + 520) 8 &&& (2 ^ 64 - 1 - 2 ^ r)) }
    | none => if t.status = .halted then s.updThread tid (·.setReg r v) else s

/-- A round's result reaches a member: its waits on the register, and CCLOSE and CWAIT, are served. -/
def giveResult (tid k : Nat) (v : Word) (s : State) : State :=
  match s.thread? tid with
  | none => s
  | some t =>
    match t.groups.toArray.getD k none with
    | none => s
    | some b =>
      let b := { b with got := b.got + 1, results := b.results ++ [v] }
      let s := showResult tid (52 + k) v (s.updThread tid (fun t => { t with groups := t.groups.setIfInBounds k (some b) }))
      match t.wait with
      | some (.reg r) => if r = 52 + k then wake tid s else s
      | some (.cwait d k') => if k' = k ∧ roundsDone b = true then finish tid d (word b.results.length) s else s
      | some (.cclose d k') => if k' = k ∧ roundsDone b = true then closeGroup tid d k s else s
      | _ => s

/-- A contribution reaches its leaf and from there the root of its tree, as far as there are routes (R350, R360). -/
def contributionUp (q : Nat) (x : Contribution) (s : State) : State :=
  if routed s x.from_ x.part x.launch x.leaf.pkg = false then s
  else if routed s x.leaf.pkg x.part x.launch (s.rootPkg x.launch x.leaf.pkg) = false then
    { s with contribs := s.contribs.upd q (fun y => { y with from_ := x.leaf.pkg }) }
  else groupSettle x.part x.group (giveRound x.part x.group x.round (x.leaf, x.val) { s with contribs := s.contribs.del q })

/-- The register of the member that is bound at a leaf of a group, with the number of the result that it takes next (R360, R362). -/
def nextResult (s : State) (part g : Nat) (leaf : Pos) : Option (Nat × Nat × Nat) :=
  ((s.group? part g).bind (fun x => x.bound.find? (fun e => e.1 == leaf))).bind (fun e =>
    (s.thread? e.2.1).bind (fun t => (t.groups.toArray.getD e.2.2 none).map (fun b => (e.2.1, e.2.2, b.got))))

/-- A result reaches its leaf, after those of the rounds before it; one whose member has left is discarded (R350, R362, R371). -/
def resultDown (q : Nat) (x : Contribution) (s : State) : State :=
  match nextResult s x.part x.group x.leaf with
  | none => { s with contribs := s.contribs.del q }
  | some (tid, k, n) =>
    if x.round < n then { s with contribs := s.contribs.del q }
    else if n < x.round ∨ routed s x.from_ x.part x.launch x.leaf.pkg = false then s
    else giveResult tid k x.val { s with contribs := s.contribs.del q }

/-- The result of a round leaves the root for a leaf: one that can reach it now does (R350, R362). -/
def sendResult (part g round launch : Nat) (v : Word) (s : State) (e : Pos × Nat × Nat) : State :=
  let root := s.rootPkg launch e.1.pkg
  let x : Contribution := ⟨part, g, round, e.1, v, root, launch, true⟩
  let early := s.contribs.any (fun y => y.2.down && (y.2.part == part && (y.2.group == g && y.2.leaf == e.1)))
  if early = false ∧ routed s root part launch e.1.pkg = true then giveResult e.2.1 e.2.2 v s
  else ({ s.tick with contribs := s.contribs.set s.fresh x }).post .groupContribute (.num s.fresh)

/-- COLLECTIVE_ROUND_COMPLETE (R362): the oldest round's result leaves for every leaf. What a TREE or RING group's service leaves in its
staging area is not said, and the model leaves the area as it is (R364; log 50). -/
def execCollectiveRoundComplete (s : State) : Host.Outcome State Fault Refusal :=
  match s.obj with
  | .group part g =>
    match s.group? part g with
    | none => .next s
    | some x =>
      match x.rounds with
      | [] => .next s
      | r :: rest =>
        if roundComplete x r then
          let v := roundResult x r s.fresh
          let s := ({ s with fresh := s.fresh + v.2 }).updGroup part g (fun x => { x with rounds := rest, first := x.first + 1 })
          let s := x.bound.foldl (sendResult part g x.first x.launch v.1) s
          .next (groupSettle part g (postRound part g s))
        else .next s
  | _ => .next s

/-- COPEN. -/
def execCopen (d a b : BitVec 6) (k : BitVec 2) (σ : State) : Host.Outcome State Fault Refusal := issueS (semCopen d a b k) σ
/-- CCLOSE. -/
def execCclose (d : BitVec 6) (k : BitVec 2) (σ : State) : Host.Outcome State Fault Refusal := issueS (semCclose d k) σ
/-- CWAIT. -/
def execCwait (d : BitVec 6) (k : BitVec 2) (σ : State) : Host.Outcome State Fault Refusal := issueS (semCwait d k) σ

end Sys2Proof.Machine
end

