-- ==== Sys2Proof/Machine/Control.lean ====
section
/-!
DEFINITION. Machine/Control.lean: branches, LOOP and jumps (05 R88 to R92), the empty slots and the prefix (03 R47, R49, 06 R113).
-/
namespace Sys2Proof.Machine
open Sys2Proof

/-- Sets the pc of a thread. -/
def setPc (tid : Nat) (v : Word) (s : State) : State := s.updThread tid (fun t => { t with pc := v })

/-- Target of a displacement in bundles from the branch bundle (R89 to R91). -/
def branchTarget (pc disp : Word) : Word := pc + disp * 8

/-- A conditional branch (R89). -/
def semBranch (a b : BitVec 6) (i : BitVec 14) (taken : Word → Word → Bool) : Sem :=
  { srcs := [a, b]
    run := fun c s => if taken (c.g a) (c.g b) then setPc c.tid (branchTarget c.pre.pc (i.signExtend 64)) s else s }

def semBeq (a b : BitVec 6) (i : BitVec 14) : Sem := semBranch a b i (fun x y => x == y)
def semBne (a b : BitVec 6) (i : BitVec 14) : Sem := semBranch a b i (fun x y => x != y)
def semBlt (a b : BitVec 6) (i : BitVec 14) : Sem := semBranch a b i (fun x y => x.slt y)
def semBge (a b : BitVec 6) (i : BitVec 14) : Sem := semBranch a b i (fun x y => !(x.slt y))
def semBltu (a b : BitVec 6) (i : BitVec 14) : Sem := semBranch a b i (fun x y => x.ult y)
def semBgeu (a b : BitVec 6) (i : BitVec 14) : Sem := semBranch a b i (fun x y => !(x.ult y))

/-- LOOP counts its register down and branches while it is not zero (R90). -/
def semLoop (a : BitVec 6) (i : BitVec 14) : Sem :=
  { srcs := [a], wg := [a.toNat]
    run := fun c s =>
      let s := regWrite c.tid a.toNat (c.g a - 1) s
      if c.g a - 1 ≠ 0 then setPc c.tid (branchTarget c.pre.pc (i.signExtend 64)) s else s }

def semJmp (i : BitVec 26) : Sem := { run := fun c s => setPc c.tid (branchTarget c.pre.pc (i.signExtend 64)) s }

/-- JAL links in g61 (R91). -/
def semJal (i : BitVec 26) : Sem :=
  { wg := [61]
    run := fun c s => setPc c.tid (branchTarget c.pre.pc (i.signExtend 64)) (regWrite c.tid 61 (c.pre.pc + 8) s) }

/-- JR (R92): a target whose bits 2:0 are not zero takes ALIGN. -/
def semJr (d a : BitVec 6) : Sem :=
  { srcs := [a], wg := [d.toNat]
    check := fun c _ => if (c.g a).toNat % 8 ≠ 0 then .fault 6 cALIGN 2 (c.g a) else .ok
    run := fun c s => setPc c.tid (c.g a) (regWrite c.tid d.toNat (c.pre.pc + 8) s) }

/-- SNOP and VNOP do nothing and need no extension (R47, R49, R55). -/
def semSnop : Sem := semNop
def semVnop : Sem := semNop

/-- PFX (R53, R113): its flags govern the thread's next bundle; a PFX that directly follows another is no instruction (R51 step 4). -/
def semPfx (f : BitVec 4) : Sem :=
  { illop := fun t => t.afterPfx
    run := fun c s => s.updThread c.tid (fun t => { t with pfx := 16#5 ||| f.setWidth 5, afterPfx := true }) }

/-- BEQ. -/
def execBeq (a b : BitVec 6) (i : BitVec 14) (σ : State) : Host.Outcome State Fault Refusal := issueS (semBeq a b i) σ
/-- BNE. -/
def execBne (a b : BitVec 6) (i : BitVec 14) (σ : State) : Host.Outcome State Fault Refusal := issueS (semBne a b i) σ
/-- BLT. -/
def execBlt (a b : BitVec 6) (i : BitVec 14) (σ : State) : Host.Outcome State Fault Refusal := issueS (semBlt a b i) σ
/-- BGE. -/
def execBge (a b : BitVec 6) (i : BitVec 14) (σ : State) : Host.Outcome State Fault Refusal := issueS (semBge a b i) σ
/-- BLTU. -/
def execBltu (a b : BitVec 6) (i : BitVec 14) (σ : State) : Host.Outcome State Fault Refusal := issueS (semBltu a b i) σ
/-- BGEU. -/
def execBgeu (a b : BitVec 6) (i : BitVec 14) (σ : State) : Host.Outcome State Fault Refusal := issueS (semBgeu a b i) σ
/-- LOOP. -/
def execLoop (a : BitVec 6) (i : BitVec 14) (σ : State) : Host.Outcome State Fault Refusal := issueS (semLoop a i) σ
/-- JMP. -/
def execJmp (i : BitVec 26) (σ : State) : Host.Outcome State Fault Refusal := issueS (semJmp i) σ
/-- JAL. -/
def execJal (i : BitVec 26) (σ : State) : Host.Outcome State Fault Refusal := issueS (semJal i) σ
/-- JR. -/
def execJr (d a : BitVec 6) (σ : State) : Host.Outcome State Fault Refusal := issueS (semJr d a) σ
/-- PFX. -/
def execPfx (f : BitVec 4) (σ : State) : Host.Outcome State Fault Refusal := issueS (semPfx f) σ
/-- SNOP. -/
def execSnop (σ : State) : Host.Outcome State Fault Refusal := issueS (semSnop) σ
/-- VNOP. -/
def execVnop (σ : State) : Host.Outcome State Fault Refusal := issueV (semVnop) σ

end Sys2Proof.Machine
end

