-- ==== Sys2Proof/Machine/CopyEngine.lean ====
section
/-!
DEFINITION. Machine/CopyEngine.lean: tensor records and the service of copy jobs by a tile's copy unit (14 R237 to R240, R248 to R254).
-/
namespace Sys2Proof.Machine
open Sys2Proof

/-! ### Records (R237 to R240) -/

/-- Class of an element format code (R238). -/
inductive CopyKind where
  | int (w : Nat)
  | mx (e : ElFmt)
  | float (f : FpFmt)
  | cpx (p : Nat)
deriving DecidableEq, Repr

def copyKind (code : Nat) : CopyKind :=
  match code with
  | 0 => .int 8
  | 1 => .int 4
  | 2 => .mx (.float e4m3)
  | 3 => .mx (.float e5m2)
  | 4 => .mx (.float e2m1)
  | 5 => .mx .mxint8
  | 6 => .float bf16
  | 7 => .float fp16
  | 8 => .cpx 8
  | 9 => .cpx 4
  | 10 => .float fp32
  | 11 => .int 32
  | _ => .cpx 16

/-- Bits of an element (R238). -/
def CopyKind.bits : CopyKind → Nat
  | .int w => w
  | .mx e => e.width
  | .float f => f.width
  | .cpx p => 2 * p

def CopyKind.isMx : CopyKind → Bool
  | .mx _ => true
  | _ => false

/-- Whether a format pair is convertible (R238). -/
def convertible (a b : CopyKind) : Bool :=
  match a, b with
  | .cpx _, .cpx _ => true
  | .cpx _, _ => false
  | _, .cpx _ => false
  | _, _ => true

/-- Dword `k` of a record. -/
def recWord (r : List Word) (k : Nat) : Nat := (r.getD k 0).toNat
def recSize (r : List Word) (k : Nat) : Nat := bits (recWord r 0) (16 * k + 15) (16 * k)
def recSfmt (r : List Word) : Nat := bits (recWord r 4) 3 0
def recDfmt (r : List Word) : Nat := bits (recWord r 4) 7 4
def recPrio (r : List Word) : Nat := bits (recWord r 4) 10 8
def recSsep (r : List Word) : Bool := bitAt (recWord r 4) 11
def recDsep (r : List Word) : Bool := bitAt (recWord r 4) 12
def recTotal (r : List Word) : Nat := recSize r 0 * recSize r 1 * recSize r 2 * recSize r 3

/-- Strides of dimensions 1 to 3 of the source and of the destination (R237). -/
def recSstr (r : List Word) : List Int :=
  [sgn 32 (bits (recWord r 1) 31 0), sgn 32 (bits (recWord r 1) 63 32), sgn 32 (bits (recWord r 2) 31 0)]
def recDstr (r : List Word) : List Int :=
  [sgn 32 (bits (recWord r 2) 63 32), sgn 32 (bits (recWord r 3) 31 0), sgn 32 (bits (recWord r 3) 63 32)]

/-- Alignment of a side: 4 for 4-byte elements, 2 for 2-byte ones, else 1 (R240 check 9). -/
def fmtAlign (code : Nat) : Nat := max 1 ((copyKind code).bits / 8)

/-- The reason code of a record that TSEAL refuses, from its contents: checks 4 to 9 of R240. -/
def recordRefusal (r : List Word) : Option Nat :=
  let s := copyKind (recSfmt r)
  let d := copyKind (recDfmt r)
  if recWord r 4 / 2 ^ 13 ≠ 0 ∨ recWord r 7 ≠ 0 ∨ (recSsep r = false ∧ recWord r 5 ≠ 0) ∨ (recDsep r = false ∧ recWord r 6 ≠ 0) then some 4
  else if 12 < recSfmt r ∨ 12 < recDfmt r then some 5
  else if convertible s d = false then some 6
  else if (List.range 4).any (fun k => recSize r k == 0) ∨ 2 ^ 32 - 1 < recTotal r then some 7
  else if ((s.isMx || d.isMx) && recSize r 0 % 32 != 0) ∨ ((s.bits == 4 || d.bits == 4) && recSize r 0 % 2 != 0) then some 8
  else if (recSstr r).any (fun x => x % (fmtAlign (recSfmt r) : Int) != 0) ∨
      (recDstr r).any (fun x => x % (fmtAlign (recDfmt r) : Int) != 0) then some 9
  else none

/-! ### Where elements lie (R239) -/

/-- One side of a record: base, strides, format, separate scales and their offset. -/
structure Side where
  base : Nat
  str : List Int
  kind : CopyKind
  sep : Bool
  off : Nat

def srcSide (r : List Word) (base : Word) : Side := ⟨base.toNat, recSstr r, copyKind (recSfmt r), recSsep r, recWord r 5⟩
def dstSide (r : List Word) (base : Word) : Side := ⟨base.toNat, recDstr r, copyKind (recDfmt r), recDsep r, recWord r 6⟩

/-- Index in dimension `k` of element `n` in element order. -/
def recIndex (r : List Word) (n k : Nat) : Nat :=
  match k with
  | 0 => n % recSize r 0
  | 1 => n / recSize r 0 % recSize r 1
  | 2 => n / (recSize r 0 * recSize r 1) % recSize r 2
  | _ => n / (recSize r 0 * recSize r 1 * recSize r 2)

def rowBase (r : List Word) (x : Side) (n : Nat) : Nat :=
  ((x.base : Int) + (recIndex r n 1 : Int) * x.str.getD 0 0 + (recIndex r n 2 : Int) * x.str.getD 1 0 +
    (recIndex r n 3 : Int) * x.str.getD 2 0) % ((2 ^ 64 : Nat) : Int) |>.toNat

/-- Bytes of the elements of a block (R239 K). -/
def blockBytes (k : CopyKind) : Nat := 4 * k.bits

/-- Address of element `n` on a side, and its bit position in the byte there. -/
def elemAddr (r : List Word) (x : Side) (n : Nat) : Nat × Nat :=
  let i := recIndex r n 0
  let b := x.kind.bits
  let at_ := if x.kind.isMx ∧ x.sep = false then i / 32 * (blockBytes x.kind + 1) + i % 32 * b / 8 else i * b / 8
  ((rowBase r x n + at_) % 2 ^ 64, i * b % 8)

/-- Address of the scale byte of element `n`'s block. -/
def scaleAddr (r : List Word) (x : Side) (n : Nat) : Nat :=
  let i := recIndex r n 0
  (if x.sep then
    let row := recIndex r n 1 + recSize r 1 * (recIndex r n 2 + recSize r 2 * recIndex r n 3)
    x.base + x.off + row * (recSize r 0 / 32) + i / 32
  else rowBase r x n + i / 32 * (blockBytes x.kind + 1) + blockBytes x.kind) % 2 ^ 64

/-! ### Conversion (R238) -/

/-- The value of an element code of a real format, under its block scale. -/
def copyValue (k : CopyKind) (s c : Nat) : FpVal :=
  match k with
  | .int w => .num (Xr.ofInt (sgn w c))
  | .mx e => e.decodeScaled s c
  | .float f => f.decode c
  | .cpx _ => .num (.fin false 0 1)

/-- To a float format under RNE; overflow of a finite value saturates (R238). -/
def copyToFloat (f : FpFmt) (v : FpVal) : Nat × Flags :=
  match v with
  | .num (.fin neg _ _) =>
    let x := f.convert 0 false v
    if x.2.of then (f.withSign neg f.maxCode, { of := true, nx := true }) else x
  | _ => f.convert 0 false v

/-- Conversion of one element to a format that is not MX. -/
def copyConvert (k d : CopyKind) (s c : Nat) : Nat × Flags :=
  if k = d then (c, noFlags)
  else match k, d with
  | .cpx p, .cpx q =>
    let z := cElem p c
    (cSat q z, { of := z.1 < sMin q || (sMax q < z.1 || (z.2 < sMin q || sMax q < z.2)) })
  | .int w, .int x =>
    let z := sgn w c
    (wrapN x (satInt z (sMin x) (sMax x)), { of := z < sMin x || sMax x < z })
  | _, .float f => copyToFloat f (copyValue k s c)
  | _, .int w =>
    let z := toIntRange 0 (sMin w) (sMax w) (copyValue k s c)
    (wrapN w z.1, z.2)
  | _, _ => (c, noFlags)

/-! ### A job's accesses (R248) -/

/-- Whether a place is one that a job of a tile may reach: its issuer's TCM area, the tile's scratchpad, shared memory, a peer, the host.
The area of a thread that has been killed in its image is, for a job of it that still runs, that of the slot it last stood in, which the
spec leaves open (log 61). -/
def jobReaches (tl : TileRef) (j : CopyJob) (tg : Target) : Bool :=
  tg.aper == 2 || (match regionOf tg.pa with
    | .hbm => true
    | .sram _ => true
    | .scratch d k => tg.aper == 0 && (d == tl.die && k == tl.tile)
    | .tcm _ _ _ _ => tg.aper == 0 && (tcmBase j.pos ≤ tg.pa && tg.pa < tcmBase j.pos + 2048)
    | .none => false)

/-- Where a word of a job lies: the issuer's own TCM area is in its image while it is swapped out (R158, R255), and at the slot that it
last stood in once it has been killed there (log 61). -/
def jobPlace (s : State) (j : CopyJob) (tg : Target) : Nat :=
  match regionOf tg.pa, (s.thread? j.tid).bind (imageOf s) with
  | .tcm _ _ _ _, some b => if tg.aper = 0 then b + 1024 + (tg.pa - tcmBase j.pos) else tg.ga
  | _, _ => tg.ga

/-- What a job's access leads to, or the ERR that ends it: kind 0 read, 1 write, 3 a .C read; `ind` for .F and .C. The tables are those of
the issuer's launch, the privilege the issuer's as it stands (R248, R392). -/
def jobTarget (s : State) (tl : TileRef) (j : CopyJob) (va kind : Nat) (ind : Bool) : Except Nat Target :=
  let pr := ((s.thread? j.tid).map (·.priv)).getD j.priv
  match translateNow s tl (s.cfg tl.pkg j.part j.launch).root j.part pr va kind with
  | .miss => .error 1
  | .fault c => .error (if c = cXLATE then 1 else 2)
  | .ok tg =>
    if jobReaches tl j tg = false then .error 2
    else if ind ∧ tg.aper = 1 ∧ bitAt tg.leaf 7 = false then .error 4
    else if ind ∧ leafFE tg.leaf = false then .error 3
    else if inRange s j.part tg then .error 6
    else if kind ≠ 1 ∧ s.bad (jobPlace s j tg) = true then .error 5
    else .ok tg

/-- Where a job's access lands, or the ERR that ends it. -/
def jobXlate (s : State) (tl : TileRef) (j : CopyJob) (va kind : Nat) (ind : Bool) : Except Nat Nat :=
  (jobTarget s tl j va kind ind).map (jobPlace s j)

/-- First and last byte, in global addresses, of every code and scale byte of one side of a job whose access passes. -/
def sideBytes (s : State) (tl : TileRef) (j : CopyJob) (source : Bool) : List (Nat × Nat) :=
  let x := if source then srcSide j.record j.src else dstSide j.record j.dst
  let ind := if source then j.consume else j.fill
  let span := fun va n => match jobXlate s tl j va (if source then (if j.consume then 3 else 0) else 1) ind with
    | .ok a => [(a, a + n)]
    | .error _ => []
  (List.range (recTotal j.record)).flatMap (fun n =>
    span (elemAddr j.record x n).1 (x.kind.bits / 8 - 1) ++ (if x.kind.isMx then span (scaleAddr j.record x n) 0 else []))

/-- Whether source and destination of a job share a byte (R254). -/
def jobOverlaps (s : State) (tl : TileRef) (j : CopyJob) : Bool :=
  !j.stream &&
    (let a := sideBytes s tl j true
     let b := sideBytes s tl j false
     let lo := fun (l : List (Nat × Nat)) => l.foldl (fun m x => min m x.1) (2 ^ 64)
     let hi := fun (l : List (Nat × Nat)) => l.foldl (fun m x => max m x.2) 0
     lo a ≤ hi b && (lo b ≤ hi a && a.any (fun x => b.any (fun y => x.1 ≤ y.2 && y.1 ≤ x.2))))

/-- Adds `n` bits at bit `sh` of the byte at `a` to the destination words that a job gathers, each to be written at one place (R134). -/
def gather (tl : TileRef) (e : Nat) (a sh n v : Nat) (s : State) : State :=
  let k := a % 8 * 8 + sh
  let f := (2 ^ n - 1) * 2 ^ k
  updJob tl e (fun j =>
    let x := j.pend.getD (a / 8) (0, 0)
    { j with pend := j.pend.set (a / 8) (x.1 ||| f, (x.2 &&& (2 ^ 64 - 1 - f)) ||| (v * 2 ^ k &&& f)) }) s

/-- Outcome of the service of one element, or of one block of an MX destination. -/
inductive Served where
  | moved (s : State)
  | blocked (s : State)
  | failed (s : State) (n err : Nat)

/-- Reads the source words of a job that it has not read yet, in order, each named with the address that leads to it; a .C read of an
empty word waits in the word's queue. -/
def takeWords (tl : TileRef) (e : Nat) : List (Nat × Nat) → State → State × Bool
  | [], s => (s, true)
  | (w, va) :: ws, s =>
    match jobAt s tl e with
    | none => (s, false)
    | some j =>
      if (j.taken.get? w).isSome then takeWords tl e ws s
      else if j.consume then
        if feGet s.fe w then
          takeWords tl e ws (updJob tl e (fun j => { j with taken := j.taken.set w (s.rdWord (8 * w)) }) (setFe w false s))
        else ({ s with feWaiters := s.feWaiters ++ [⟨j.tid, w, va, 0, true, none, some (tl, e)⟩] }, false)
      else match j.olds.get? w with
        | some old =>
          let v := if Config.copyOverlapOld s.fresh then old else s.rdWord (8 * w)
          takeWords tl e ws (updJob tl e (fun j => { j with taken := j.taken.set w v }) s.tick)
        | none => takeWords tl e ws (updJob tl e (fun j => { j with taken := j.taken.set w (s.rdWord (8 * w)) }) s)

/-- The elements served at once: one, or the rest of a destination block. -/
def unitOf (r : List Word) (n : Nat) : List Nat := if (copyKind (recDfmt r)).isMx then (List.range 32).map (n + ·) else [n]

/-- First element of a unit whose source or destination access fails, with its ERR; a failing scale byte counts for the first (R249). The
accesses of a unit are all looked at before any of its .C source words is consumed, which R249 leaves open (log 62). -/
def unitFault (s : State) (tl : TileRef) (j : CopyJob) (ns : List Nat) : Option (Nat × Nat) :=
  let src := srcSide j.record j.src
  let dst := dstSide j.record j.dst
  let x := fun va kind ind => match jobXlate s tl j va kind ind with
    | .error c => some c
    | .ok _ => none
  ns.zipIdx.findSome? (fun (n, k) =>
    let bad := (x (elemAddr j.record src n).1 (if j.consume then 3 else 0) j.consume).or (
      (if src.kind.isMx then x (scaleAddr j.record src n) (if j.consume then 3 else 0) j.consume else none).or (
      if j.stream then none else
        (x (elemAddr j.record dst n).1 1 j.fill).or (if dst.kind.isMx && k == 0 then x (scaleAddr j.record dst n) 1 j.fill else none)))
    bad.map (fun c => (n, c)))

/-- Global address behind an address of a job whose check passed. -/
def jobGa (s : State) (tl : TileRef) (j : CopyJob) (va kind : Nat) (ind : Bool) : Nat :=
  match jobXlate s tl j va kind ind with
  | .ok a => a
  | .error _ => 0

/-- `n` bits at bit `sh` of the byte at `a` of a job's source words. -/
def takenBits (j : CopyJob) (a sh n : Nat) : Nat := (j.taken.getD (a / 8) 0).toNat / 2 ^ (a % 8 * 8 + sh) % 2 ^ n

/-- Whether every access of a unit to another package has a route (R350). -/
def unitRouted (s : State) (tl : TileRef) (j : CopyJob) (ns : List Nat) : Bool :=
  let ok := fun va kind ind => match jobTarget s tl j va kind ind with
    | .ok tg => tg.aper != 1 || routed s tl.pkg j.part j.launch tg.pkg
    | .error _ => true
  let side := fun (x : Side) kind ind => ns.all (fun n => ok (elemAddr j.record x n).1 kind ind &&
    (!x.kind.isMx || ok (scaleAddr j.record x n) kind ind))
  side (srcSide j.record j.src) (if j.consume then 3 else 0) j.consume && (j.stream || side (dstSide j.record j.dst) 1 j.fill)

/-- Destination bits of a unit, scale byte included, or source bits for a stream job (R253). -/
def unitBits (j : CopyJob) : Nat :=
  let d := copyKind (recDfmt j.record)
  if j.stream then (copyKind (recSfmt j.record)).bits else if d.isMx then 32 * d.bits + 8 else d.bits

/-- Serves one unit of a job (R238, R248 to R250); a unit that fails consumes no .C source word (log 62). -/
def serveUnit (tl : TileRef) (e : Nat) (s : State) : Served :=
  match jobAt s tl e with
  | none => .blocked s
  | some j =>
    let r := j.record
    let ns := unitOf r j.count
    let src := srcSide r j.src
    let dst := dstSide r j.dst
    match unitFault s tl j ns with
    | some (n, err) => .failed s n err
    | none =>
      let rk := if j.consume then 3 else 0
      let ga := fun va => jobGa s tl j va rk j.consume
      let at_ := fun va => (ga va / 8, va)
      let words := ns.flatMap (fun n => at_ (elemAddr r src n).1 :: (if src.kind.isMx then [at_ (scaleAddr r src n)] else []))
      match takeWords tl e words s with
      | (s1, false) => .blocked s1
      | (s1, true) =>
        match jobAt s1 tl e with
        | none => .blocked s1
        | some j1 =>
          let code := fun n => takenBits j1 (ga (elemAddr r src n).1) (elemAddr r src n).2 src.kind.bits
          let scl := fun n => if src.kind.isMx then takenBits j1 (ga (scaleAddr r src n)) 0 8 else 127
          let n0 := j.count
          let (sc, cs, fl) : Nat × List Nat × Flags :=
            match dst.kind with
            | .mx d =>
              if src.kind = dst.kind then (scl n0, ns.map code, noFlags)
              else mxBlock d (ns.map (fun n => copyValue src.kind (scl n) (code n)))
            | d =>
              let x := copyConvert src.kind d (scl n0) (code n0)
              (0, [x.1], x.2)
          let s2 := updJob tl e (fun j => { j with
            count := j.count + ns.length, nv := j.nv || fl.nv, of := j.of || fl.of, nx := j.nx || fl.nx }) s1
          if j.stream then
            let k := j.bound.getD 0
            let v := word (cs.getD 0 0)
            let s3 := s2.updThread j.tid (fun t => { t with
              streams := t.streams.setIfInBounds k ((t.streams.toArray.getD k none).map (fun b => { b with fifo := b.fifo ++ [v] })) })
            .moved (wakeIf (.reg (48 + k)) j.tid s3)
          else
            let da := fun va => jobGa s tl j va 1 j.fill
            let s3 := (ns.zip cs).foldl (fun s x => gather tl e (da (elemAddr r dst x.1).1) (elemAddr r dst x.1).2 dst.kind.bits x.2 s) s2
            .moved (if dst.kind.isMx then gather tl e (da (scaleAddr r dst n0)) 0 8 sc s3 else s3)

/-! ### The unit (R253) -/

/-- Whether a job can make progress: not done, a stream job bound with room, no .C source word and no route awaited (R250, R253, R350). -/
def jobRunnable (s : State) (tl : TileRef) (e : Nat) (j : CopyJob) : Bool :=
  j.state != .done && (!s.feWaiters.any (fun x => x.job == some (tl, e)) &&
    (recTotal j.record ≤ j.count || unitRouted s tl j (unitOf j.record j.count)) &&
    (!j.stream || (match j.bound with
      | none => false
      | some k => match s.thread? j.tid with
        | none => false
        | some t => match t.streams.toArray.getD k none with
          | none => false
          | some b => b.fifo.length < 16)))

/-- Effective priority (R253). -/
def jobPriority (s : State) (tl : TileRef) (j : CopyJob) : Nat := min 7 (recPrio j.record + (s.now tl.pkg - j.issued) / 64000)

/-- The job that the unit picks for its next chunk: the highest effective priority, among equals the oldest (R253). -/
def pickJob (s : State) (tl : TileRef) : Option Nat :=
  let js := (s.tile tl).copy.filterMap (fun x => x.2.job.bind (fun j => if jobRunnable s tl x.1 j then some (x.1, j) else none))
  (leastBy (fun (x : Nat × CopyJob) => (7 - jobPriority s tl x.2) * 2 ^ 64 + x.2.age) js).map (·.1)

/-- The end of a job (R249, R251). -/
def endJob (tl : TileRef) (e err : Nat) (s : State) : State :=
  match jobAt s tl e with
  | none => s
  | some j =>
    let s := if j.stream && err == 0 then
        let k := j.bound.getD 0
        s.updThread j.tid (fun t => { t with
          streams := t.streams.setIfInBounds k ((t.streams.toArray.getD k none).map (fun b => { b with ended := true })) })
      else s
    jobDone tl e err s

/-- A chunk of a job: at most `left` bits (R253). -/
def chunkLoop (tl : TileRef) (e : Nat) : Nat → Nat → State → State
  | 0, _, s => s
  | n + 1, left, s =>
    match jobAt s tl e with
    | none => s
    | some j =>
      if recTotal j.record ≤ j.count then endJob tl e 0 s
      else if left < unitBits j ∨ jobRunnable s tl e j = false then s
      else match serveUnit tl e s with
      | .blocked s => s
      | .failed s k err => endJob tl e err (updJob tl e (fun j => { j with count := k }) s)
      | .moved s => chunkLoop tl e n (left - unitBits j) s

/-- The gathered words of a job that an element to come still adds to: they are not written yet (R134). -/
def wordsToCome (s : State) (tl : TileRef) (j : CopyJob) : List Nat :=
  let dst := dstSide j.record j.dst
  let w := fun va => jobGa s tl j va 1 j.fill / 8
  if j.pend.isEmpty then []
  else (List.range (recTotal j.record - j.count)).flatMap (fun k => w (elemAddr j.record dst (j.count + k)).1 ::
    (if dst.kind.isMx then [w (scaleAddr j.record dst (j.count + k))] else []))

/-- One chunk of the copy unit; it goes on while some job can. A gated tile's unit stands still (R253, R326). The words that a chunk
completes are all written in the turn of the chunk, so no other access falls between them: an order that R254 leaves open (log 63). -/
def copyChunkAt (tl : TileRef) (s : State) : State :=
  if (s.tile tl).point.isNone then s
  else match pickJob s tl with
  | none => s
  | some e =>
    let ov := match jobAt s tl e with | some j => jobOverlaps s tl j | none => false
    let s := (updJob tl e (fun j => { j with state := .running, overlap := ov }) s).updTile tl (fun x => { x with copyRun := some e })
    let s := chunkLoop tl e 1025 4096 s
    let s := match jobAt s tl e with
      | some j => flushJob tl e (wordsToCome s tl j) s
      | none => s
    if (pickJob s tl).isSome then s.post .copyChunk (.tile tl) else s

end Sys2Proof.Machine
end

