-- ==== Sys2Proof/Machine/Copy.lean ====
section
/-!
DEFINITION. Machine/Copy.lean: the copy group: jobs, status, streams, sealed handles, HMOV (14 R243 to R252).
-/
namespace Sys2Proof.Machine
open Sys2Proof

/-! ### CPY, CPW, CPQ, SBIND -/

/-- Value of an h register. -/
def Ctx.h (c : Ctx) (k : BitVec 3) : Word := c.pre.h.toArray.getD k.toNat 0

/-- Entries of the tile queue that hold no job. -/
def freeEntries (s : State) (tl : TileRef) : List Nat := (List.range 64).filter (fun e => (jobAt s tl e).isNone)

/-- The error-free DONE entry that completed earliest (R252). -/
def reclaimable (s : State) (tl : TileRef) : Option Nat :=
  (leastBy (fun (x : Nat × CopyJob) => x.2.doneAt)
    ((s.tile tl).copy.filterMap (fun x => x.2.job.bind (fun j => if j.state == .done && j.err == 0 then some (x.1, j) else none)))).map (·.1)

/-- Reason code of a stream job that is refused (R248): 2 for .F, 1 for an MX or 4-bit destination format. -/
def streamRefusal (r : List Word) (f : Bool) : Option Nat :=
  if f then some 2 else if (copyKind (recDfmt r)).isMx ∨ (copyKind (recDfmt r)).bits = 4 then some 1 else none

/-- Queues a job in an entry (R248). -/
def queueJob (c : Ctx) (d e : Nat) (r : List Word) (dst src : Word) (fill consume stream : Bool) (s : State) : State :=
  let tl := c.pre.pos.tileRef
  let j : CopyJob := ⟨.queued, c.tid, c.pre.part, c.pre.priv, r, dst, src, fill, consume, stream, none, false, false, s.now tl.pkg, 0, 0,
    false, false, false, s.fresh, [], [], [], 0, c.pre.pos, c.pre.launch, false⟩
  let s := s.tick.updTile tl (fun x => { x with copy := x.copy.updD e CopyEntry.init (fun k => { k with job := some j }) })
  regWrite c.tid d (word (((s.tile tl).copy.getD e CopyEntry.init).seq * 64 + e)) (s.post .copyChunk (.tile tl))

/-- CPY (R248). -/
def semCpy (d a b : BitVec 6) (h : BitVec 3) (f k : BitVec 1) : Sem :=
  { srcs := [a, b], wg := [d.toNat]
    check := fun c s =>
      let r := handleRecord s c.pre (c.h h)
      let stream := (c.g a) == 0
      firstVerdict [handleCheck c s (c.h h),
        if stream = false ∧ (c.g a).toNat % fmtAlign (recDfmt r) ≠ 0 then .fault 6 cALIGN 1 (c.g a) else .ok,
        if (c.g b).toNat % fmtAlign (recSfmt r) ≠ 0 then .fault 6 cALIGN 0 (c.g b) else .ok,
        drainCheck c s,
        if (stream && (streamRefusal r (f == 1#1)).isSome) || (!(freeEntries s c.pre.pos.tileRef).isEmpty ||
          (reclaimable s c.pre.pos.tileRef).isSome) then .ok else .wait (park c.tid .copyQueue s)]
    run := fun c s =>
      let tl := c.pre.pos.tileRef
      let r := handleRecord s c.pre (c.h h)
      let stream := (c.g a) == 0
      match (if stream then streamRefusal r (f == 1#1) else none) with
      | some x => regWrite c.tid d.toNat (refusalWord x) s
      | none =>
        let fr := freeEntries s tl
        if fr.isEmpty then
          match reclaimable s tl with
          | none => s
          | some e => queueJob c d.toNat e r (c.g a) (c.g b) (f == 1#1) (k == 1#1) stream (freeEntry tl e s)
        else
          queueJob c d.toNat (fr.getD (Config.copyEntry s.fresh % fr.length) 0) r (c.g a) (c.g b) (f == 1#1) (k == 1#1) stream s.tick }

/-- The job that an ID names for a thread on its tile (R249). -/
def jobOfId (s : State) (t : Thread) (id : Nat) : Option CopyJob :=
  match (s.tile t.pos.tileRef).copy.get? (id % 64) with
  | none => none
  | some c => match c.job with
    | none => none
    | some j => if c.seq = id / 64 ∧ j.part = t.part then some j else none

/-- The status of a job that has ended is handed out, and its entry is free (R252). -/
def takeStatus (c : Ctx) (d id : Nat) (j : CopyJob) (s : State) : State :=
  regWrite c.tid d (jobStatus j) (if j.state = .done then freeEntry c.pre.pos.tileRef (id % 64) s else s)

/-- STATE 3: no such job (R249). -/
def jobRetired : Word := 0xC000000000000000

/-- CPW (R249). -/
def semCpw (d a : BitVec 6) : Sem :=
  { srcs := [a], wg := [d.toNat]
    run := fun c s =>
      let id := (c.g a).toNat
      match jobOfId s c.pre id with
      | none => regWrite c.tid d.toNat jobRetired s
      | some j => if j.state = .done then takeStatus c d.toNat id j s
        else park c.tid (.job d.toNat id c.pre.pos.tileRef) (s.updThread c.tid (·.owe d.toNat)) }

/-- CPQ (R249). -/
def semCpq (d a : BitVec 6) : Sem :=
  { srcs := [a], wg := [d.toNat]
    run := fun c s =>
      match jobOfId s c.pre (c.g a).toNat with
      | none => regWrite c.tid d.toNat jobRetired s
      | some j => takeStatus c d.toNat (c.g a).toNat j s }

/-- SBIND (R251). -/
def semSbind (d a : BitVec 6) (k : BitVec 2) : Sem :=
  { srcs := [a], wg := [d.toNat]
    run := fun c s =>
      let id := (c.g a).toNat
      let tl := c.pre.pos.tileRef
      if id = 0 then regWrite c.tid d.toNat 0 (unbindStream c.tid k.toNat 8 s)
      else
        let bindable := match jobOfId s c.pre id with
          | none => 1
          | some j =>
            if j.state = .done ∨ j.tid ≠ c.tid then 1
            else if j.stream = false then 2
            else if j.bound.isSome then 3
            else if (c.pre.streams.toArray.getD k.toNat none).isSome then 4
            else 0
        if bindable = 0 then
          let s := updJob tl (id % 64) (fun j => { j with bound := some k.toNat }) s
          let s := s.updThread c.tid (fun t => { t with streams := t.streams.setIfInBounds k.toNat (some ⟨id % 64, id / 64, [], false⟩) })
          regWrite c.tid d.toNat 0 (s.post .copyChunk (.tile tl))
        else regWrite c.tid d.toNat (word bindable) s }

/-! ### TSEAL, TFREE, HMOV (R240, R245 to R247) -/

/-- The lowest entry from `i` on of a die's part of a handle table that is not live. -/
def freeHandle (s : State) (base : Nat) : Nat → Nat → Option Nat
  | 0, _ => none
  | n + 1, i => if bitAt (s.rdWord (base + i * 64 + 56)).toNat 63 then freeHandle s base n (i + 1) else some i

/-- TSEAL's checks and effect (R240, R245): the state after it and the value of gd. A record on another package is read at once, with or
without a route: R245 and R351 leave open what becomes of that read (log 65). -/
def sealRecord (s : State) (t : Thread) (ga : Word) : State × Word :=
  let p := t.pos
  let line := translateNow s p.tileRef (s.cfgOf t).root t.part t.priv ga.toNat 0
  if ga.toNat % 64 ≠ 0 then (s, refusalWord 1)
  else match line with
  | .ok tg =>
    if reachable t tg = false then (s, refusalWord 2)
    else if (List.range 8).any (fun k => s.bad (tg.ga + 8 * k)) = true then (s, refusalWord 3)
    else
      let r := (List.range 8).map (fun k => s.rdWord (tg.ga + 8 * k))
      match recordRefusal r with
      | some x => (s, refusalWord x)
      | none =>
        let base := devAddr p.pkg (t.htab.toNat + p.die * 0x40000)
        match (if bits t.htab.toNat 51 6 = 0 then none else freeHandle s base 4096 0) with
        | none => (s, refusalWord 10)
        | some i =>
          let e := base + i * 64
          let old := bits (s.rdWord (e + 56)).toNat 23 0
          let gen := if old = 0xFFFFFF then 1 else old + 1
          let s := (List.range 7).foldl (fun s k => storeAt (e + 8 * k) 8 (recWord r k) s) s
          (storeAt (e + 56) 8 (2 ^ 63 + gen) s,
            word (p.pkg * 2 ^ 53 + gen * 2 ^ 29 + t.part * 2 ^ 14 + p.die * 2 ^ 12 + i))
  | _ => (s, refusalWord 2)

/-- TSEAL parks until its handle is written (R245). -/
def semTseal (d a : BitVec 6) : Sem :=
  { srcs := [a], wg := [d.toNat]
    run := fun c s =>
      let x := sealRecord s c.pre (c.g a)
      finish c.tid d.toNat x.2 (park c.tid .answer (x.1.updThread c.tid (·.owe d.toNat))) }

/-- TFREE: a live handle's entry dies, and the thread parks until every cached copy is dropped (R243, R246). -/
def semTfree (d a : BitVec 6) : Sem :=
  { srcs := [a], wg := [d.toNat]
    run := fun c s =>
      let h := c.g a
      if handleLive s c.pre h then
        let e := handleAddr c.pre.pos.pkg c.pre.htab h
        let s := storeAt (e + 56) 8 (bits h.toNat 52 29) s
        (park c.tid .drop (s.updThread c.tid (·.owe d.toNat))).post .tfreeDropDone (.threadReg c.tid d.toNat (word e))
      else regWrite c.tid d.toNat 1 s }

def semHmovToH (a : BitVec 6) (h : BitVec 3) : Sem :=
  { srcs := [a], wh := [h.toNat]
    run := fun c s => s.updThread c.tid (fun t => { t with h := t.h.setIfInBounds h.toNat (c.g a) }) }
def semHmovFromH (d : BitVec 6) (h : BitVec 3) : Sem :=
  { wg := [d.toNat], run := fun c s => regWrite c.tid d.toNat (c.h h) s }

/-- COPY_CHUNK (R253): the copy unit of a tile copies one chunk. -/
def execCopyChunk (s : State) : Host.Outcome State Fault Refusal :=
  match s.obj with
  | .tile tl => .next (copyChunkAt tl s)
  | _ => .next s

/-- HANDLE_CACHE_FILL (R243): the tile holds the entry, and the thread goes on. -/
def execHandleCacheFill (s : State) : Host.Outcome State Fault Refusal :=
  match s.obj with
  | .threadNum tid a => match s.thread? tid with
    | some t => match t.wait with
      | some (.handle h) =>
        if handleAddr t.pos.pkg t.htab h = a then
          .next (wake tid (s.updTile t.pos.tileRef (fun x =>
            { x with handles := (if 32 ≤ x.handles.length then x.handles.tail else x.handles) ++ [a] })))
        else .next s
      | _ => .next s
    | none => .next s
  | _ => .next s

/-- TFREE_DROP_DONE (R243): every cached copy of the entry is dropped, and TFREE completes. -/
def execTfreeDropDone (s : State) : Host.Outcome State Fault Refusal :=
  match s.obj with
  | .threadReg tid d a =>
    match (s.thread? tid).bind (·.wait) with
    | some .drop =>
      let s := { s with tiles := s.tiles.map (fun (e : TileRef × Tile) => (e.1, { e.2 with handles := e.2.handles.filter (· != a.toNat) })) }
      .next (finish tid d 0 s)
    | _ => .next s
  | _ => .next s

/-- CPY. -/
def execCpy (d a b : BitVec 6) (h : BitVec 3) (f c : BitVec 1) (σ : State) : Host.Outcome State Fault Refusal := issueS (semCpy d a b h f c) σ
/-- CPW. -/
def execCpw (d a : BitVec 6) (σ : State) : Host.Outcome State Fault Refusal := issueS (semCpw d a) σ
/-- CPQ. -/
def execCpq (d a : BitVec 6) (σ : State) : Host.Outcome State Fault Refusal := issueS (semCpq d a) σ
/-- SBIND. -/
def execSbind (d a : BitVec 6) (s : BitVec 2) (σ : State) : Host.Outcome State Fault Refusal := issueS (semSbind d a s) σ
/-- TSEAL. -/
def execTseal (d a : BitVec 6) (σ : State) : Host.Outcome State Fault Refusal := issueS (semTseal d a) σ
/-- TFREE. -/
def execTfree (d a : BitVec 6) (σ : State) : Host.Outcome State Fault Refusal := issueS (semTfree d a) σ
/-- HMOV_TO_H. -/
def execHmovToH (a : BitVec 6) (h : BitVec 3) (σ : State) : Host.Outcome State Fault Refusal := issueS (semHmovToH a h) σ
/-- HMOV_FROM_H. -/
def execHmovFromH (d : BitVec 6) (h : BitVec 3) (σ : State) : Host.Outcome State Fault Refusal := issueS (semHmovFromH d h) σ

end Sys2Proof.Machine
end

