-- ==== Sys2Proof/Machine/RatNum.lean ====
section
/-!
DEFINITION. Machine/RatNum.lean: floating-slash rationals RAT32 and RAT64 and `round_rat`
(spec 12_sfu_rational R221 to R225, R231).
-/
namespace Sys2Proof.Machine
open Sys2Proof

/-- A rational format: payload width W, boundary bits and word width (R221). -/
structure RatFmt where
  w : Nat
  bBits : Nat
  width : Nat
deriving DecidableEq, Repr

def rat32 : RatFmt := ⟨26, 5, 32⟩
def rat64 : RatFmt := ⟨57, 6, 64⟩

/-- What a rational word reads as (R221). -/
inductive QVal where
  | nar
  | ill
  | inf (neg : Bool)
  | fin (neg : Bool) (num den : Nat)
deriving DecidableEq, Repr

/-- Reads a word: the first matching row of R221 decides. -/
def RatFmt.decode (f : RatFmt) (code : Nat) : QVal :=
  let s := bitAt code (f.width - 1)
  let b := bits code (f.width - 2) f.w
  let p := code % 2 ^ f.w
  let n := if b = 0 then 0 else p / 2 ^ (f.w - b)
  let d := if b = 0 then p else p % 2 ^ (f.w - b)
  if code % 2 ^ f.width = 0 then .nar
  else if b = 1 ∧ n = 1 ∧ d = 0 then .inf s
  else if b = 0 ∧ d = 1 then .fin false 0 1
  else if 1 ≤ b ∧ b ≤ f.w - 1 ∧ bitAt n (b - 1) ∧ 1 ≤ d ∧ Nat.gcd n d = 1 then .fin s n d
  else .ill

/-- Canonical code of a value of the value set (R222). -/
def RatFmt.encodeFin (f : RatFmt) (neg : Bool) (n d : Nat) : Nat :=
  if n = 0 then 1
  else let b := bitlen n
    b2n neg * 2 ^ (f.width - 1) + b * 2 ^ f.w + n * 2 ^ (f.w - b) + d

def RatFmt.infCode (f : RatFmt) (neg : Bool) : Nat := b2n neg * 2 ^ (f.width - 1) + 2 ^ f.w + 2 ^ (f.w - 1)

/-- The code the device writes for a value it passes through (R222). -/
def RatFmt.encode (f : RatFmt) : QVal → Nat
  | .nar => 0
  | .ill => 0
  | .inf s => f.infCode s
  | .fin s n d => f.encodeFin s n d

/-- `in_set` of R224 with budget `k` (k = W, or the budget of QBND). -/
def inSet (k p q : Nat) : Bool := bitlen p + bitlen q ≤ k

/-- An exact positive magnitude: `num/den`, or its square root when `root` (R223). -/
structure QMag where
  num : Nat
  den : Nat
  root : Bool
deriving DecidableEq, Repr

/-- `v < p/q`, exactly (on squares for a root, R223). -/
def QMag.ltFrac (v : QMag) (p q : Nat) : Bool :=
  if v.root then v.num * q * q < p * p * v.den else v.num * q < p * v.den

/-- `v = p/q`, exactly. -/
def QMag.eqFrac (v : QMag) (p q : Nat) : Bool :=
  if v.root then v.num * q * q == p * p * v.den else v.num * q == p * v.den

/-- The longest run of steps in one direction: the greatest number of steps below `2^i` for which `ok` holds (R224). -/
def longestRun (ok : Nat → Bool) : Nat → Nat → Nat
  | 0, acc => acc
  | i + 1, acc => if ok (acc + 2 ^ i) then longestRun ok i (acc + 2 ^ i) else longestRun ok i acc

/-- The neighbours `L = a/b`, `U = e/f` and the mediant that left the set (R224). -/
structure Neighbours where
  a : Nat
  b : Nat
  e : Nat
  f : Nat
  mp : Nat
  mq : Nat
deriving DecidableEq, Repr

/-- The descent of R224, a run of steps in one direction at a time; `fuel` runs. -/
def neighboursLoop (v : QMag) (k : Nat) : Nat → Nat → Nat → Nat → Nat → Neighbours
  | 0, a, b, e, f => ⟨a, b, e, f, a + e, b + f⟩
  | fuel + 1, a, b, e, f =>
    if inSet k (a + e) (b + f) then
      if v.ltFrac (a + e) (b + f) then
        let r := longestRun (fun j => inSet k (e + j * a) (f + j * b) && v.ltFrac (e + j * a) (f + j * b)) 65 0
        neighboursLoop v k fuel a b (e + r * a) (f + r * b)
      else
        let r := longestRun (fun j => inSet k (a + j * e) (b + j * f) && !(v.ltFrac (a + j * e) (b + j * f))) 65 0
        neighboursLoop v k fuel (a + r * e) (b + r * f) e f
    else ⟨a, b, e, f, a + e, b + f⟩

/-- The neighbours of a magnitude that is not in the value set (R224). -/
def neighbours (v : QMag) (k : Nat) : Neighbours := neighboursLoop v k 130 0 1 1 0

/-- The tie rule: the smaller denominator, then the even numerator; `true` picks L (R225). -/
def tieL (t : Neighbours) : Bool := if t.b = t.f then t.a % 2 == 0 else t.b < t.f

/-- Whether the mode delivers L for `v > 0` (R225); QRD and QRU exchange their roles for a negative result. -/
def picksL (mode : Nat) (neg : Bool) (v : QMag) (t : Neighbours) : Bool :=
  let mode := if neg then (if mode = 2 then 3 else if mode = 3 then 2 else mode) else mode
  match mode with
  | 0 => if t.f = 0 then false
         else let p := t.a * t.f + t.e * t.b
              let q := 2 * t.b * t.f
              if v.eqFrac p q then tieL t else v.ltFrac p q
  | 1 => if t.f = 0 then false
         else if v.eqFrac t.mp t.mq then tieL t else v.ltFrac t.mp t.mq
  | 2 => true
  | 3 => false
  | _ => true

/-- `round_rat` of a magnitude with sign under mode `qrm` and budget `k` (R223 to R225, R231). -/
def RatFmt.roundMag (f : RatFmt) (k qrm : Nat) (neg : Bool) (v : QMag) : Nat × Flags :=
  if v.num = 0 then (1, noFlags)
  else
    let g := Nat.gcd v.num v.den
    let n := v.num / g
    let d := v.den / g
    let rn := isqrt n
    let rd := isqrt d
    if v.root ∧ rn * rn = n ∧ rd * rd = d ∧ inSet k rn rd then (f.encodeFin neg rn rd, noFlags)
    else if !v.root ∧ inSet k n d then (f.encodeFin neg n d, noFlags)
    else
      let v : QMag := ⟨n, d, v.root⟩
      let t := neighbours v k
      let fl : Flags := { qinx := true, qovf := t.f == 0 }
      if picksL qrm neg v t then (f.encodeFin neg t.a t.b, fl)
      else if t.f = 0 then (f.infCode neg, fl)
      else (f.encodeFin neg t.e t.f, fl)

/-- The rational result of a class of operands (R223). -/
inductive QRes where
  | nar (inv : Bool)
  | inf (neg dz : Bool)
  | val (neg : Bool) (mag : QMag)
deriving DecidableEq, Repr

/-- Delivers a result in the format under QRM (R223). -/
def RatFmt.deliver (f : RatFmt) (qrm : Nat) : QRes → Nat × Flags
  | .nar inv => (0, { qinv := inv })
  | .inf neg dz => (f.infCode neg, { qdz := dz })
  | .val neg m => f.roundMag f.w qrm neg m

/-- NaR handling common to all arithmetic: an ill-formed operand gives NaR with QINV, a NaR gives NaR (R223). -/
def narOf (vs : List QVal) : Option QRes :=
  if vs.any (· == .ill) then some (.nar true) else if vs.any (· == .nar) then some (.nar false) else none

/-- The value as an extended real; called on ∞ and finite values only. -/
def QVal.xr : QVal → Xr
  | .inf s => .inf s
  | .fin s n d => .fin s n d
  | _ => .fin false 0 1

/-- An exact extended rational as a result; `none` is an invalid operation (R223). -/
def QRes.ofXr : Option Xr → QRes
  | none => .nar true
  | some (.inf s) => .inf s false
  | some (.fin s n d) => .val s ⟨n, d, false⟩

def qAdd (x y : QVal) : QRes := (narOf [x, y]).getD (QRes.ofXr (x.xr.add 0 y.xr))
def qSub (x y : QVal) : QRes := (narOf [x, y]).getD (QRes.ofXr (x.xr.add 0 y.xr.neg))
def qMul (x y : QVal) : QRes := (narOf [x, y]).getD (QRes.ofXr (x.xr.mul y.xr))

/-- Quotient: finite nonzero ÷ 0 and ∞ ÷ 0 take the sign of the dividend (R223). -/
def qDiv (x y : QVal) : QRes :=
  (narOf [x, y]).getD
    (match x, y with
     | .inf s, .inf _ => let _ := s; .nar true
     | .inf s, .fin t m _ => if m = 0 then .inf s false else .inf (s != t) false
     | .fin .., .inf _ => .val false ⟨0, 1, false⟩
     | .fin s n d, .fin t m e =>
       if m = 0 then (if n = 0 then .nar true else .inf s true) else .val (s != t) ⟨n * e, d * m, false⟩
     | _, _ => .nar true)

/-- `±(x × y) ± z`, exact product and sum (R223, R226). -/
def qFma (negP negC : Bool) (x y z : QVal) : QRes :=
  (narOf [x, y, z]).getD
    (match x.xr.mul y.xr with
     | none => .nar true
     | some p => QRes.ofXr ((if negP then p.neg else p).add 0 (if negC then z.xr.neg else z.xr)))

/-- Square root (R223). -/
def qSqrt (x : QVal) : QRes :=
  (narOf [x]).getD
    (match x with
     | .inf s => if s then .nar true else .inf false false
     | .fin s n d => if n = 0 then .val false ⟨0, 1, false⟩ else if s then .nar true else .val false ⟨n, d, true⟩
     | _ => .nar true)

/-- Minimum or maximum (R228). -/
def RatFmt.minMax (f : RatFmt) (isMax : Bool) (x y : QVal) : Nat × Flags :=
  let fl : Flags := { qinv := x == .ill || y == .ill }
  let nx := x == .ill || x == .nar
  let ny := y == .ill || y == .nar
  (if nx ∧ ny then 0
   else if nx then f.encode y
   else if ny then f.encode x
   else if isMax then (if x.xr.lt y.xr then f.encode y else f.encode x)
   else (if y.xr.lt x.xr then f.encode y else f.encode x), fl)

/-- FCMP in rational mode (R228). -/
def qCompare (cond : Nat) (x y : QVal) : Bool × Flags :=
  let ill := x == .ill || y == .ill
  let nar := ill || x == .nar || y == .nar
  if nar then (cond == 1 || cond == 6, { qinv := ill || (2 ≤ cond && cond ≤ 5) })
  else
    let lt := x.xr.lt y.xr
    let gt := y.xr.lt x.xr
    (match cond with
     | 0 => !lt && !gt
     | 1 => lt || gt
     | 2 => lt
     | 3 => !gt
     | 4 => gt
     | 5 => !lt
     | 6 => false
     | _ => true, noFlags)

/-- FSGN in rational mode: `a` is the word of ga, `b` that of gb (R228). Of gb it takes the sign bit alone: an ill-formed gb raises
nothing, which the rule leaves open (log 55). -/
def RatFmt.signOp (f : RatFmt) (k a b : Nat) : Nat × Flags :=
  let sa := bitAt a (f.width - 1)
  let sb := bitAt b (f.width - 1)
  let s := match k with | 0 => sb | 1 => !sb | _ => sa != sb
  match f.decode a with
  | .nar => (0, noFlags)
  | .ill => (0, { qinv := true })
  | .inf _ => (f.infCode s, noFlags)
  | .fin _ n d => (f.encodeFin s n d, noFlags)

/-- FCLASS in rational mode (R228). -/
def qClass : QVal → Nat
  | .inf s => if s then 1 else 2 ^ 7
  | .fin s n _ => if n = 0 then 2 ^ 4 else if s then 2 else 2 ^ 6
  | .nar => 2 ^ 10
  | .ill => 2 ^ 10 + 2 ^ 11

/-- Rational to an integer of range `lo` to `hi` under RM (R229). -/
def qToInt (rm : Rm) (lo hi : Int) : QVal → Int × Flags
  | .nar => (0, { qinv := true })
  | .ill => (0, { qinv := true })
  | .inf neg => (if neg then lo else hi, { qinv := true })
  | .fin neg n d =>
    let (z, inexact) := roundToInt rm neg n d
    if z < lo then (lo, { qinv := true }) else if hi < z then (hi, { qinv := true }) else (z, { qinx := inexact })

/-- Rational to float `.tof` (R229): an ill-formed word reads as NaR and raises QINV (R221). -/
def qToFloat (t : FpFmt) (rm : Rm) : QVal → Nat × Flags
  | .nar => (t.nanCode, flagNV)
  | .ill => (t.nanCode, { nv := true, qinv := true })
  | .inf neg => (t.withSign neg t.infCode, noFlags)
  | .fin neg n d => t.roundFin rm false neg n d false

/-- Float to rational `.frf` (R229). -/
def RatFmt.ofFloat (f : RatFmt) (qrm : Nat) : FpVal → Nat × Flags
  | .nan .. => (0, { qinv := true })
  | .num (.inf neg) => (f.infCode neg, noFlags)
  | .num (.fin neg n d) => f.roundMag f.w qrm neg ⟨n, d, false⟩

/-- Rational of an integer (R229 `.fri`, `.friu`). -/
def RatFmt.ofInt (f : RatFmt) (qrm : Nat) (z : Int) : Nat × Flags := f.roundMag f.w qrm (z < 0) ⟨z.natAbs, 1, false⟩

/-- A rational of another format rounded into this one (R229 `.cw`). -/
def RatFmt.ofQ (f : RatFmt) (qrm : Nat) : QVal → Nat × Flags
  | .nar => (0, noFlags)
  | .ill => (0, { qinv := true })
  | .inf s => (f.infCode s, noFlags)
  | .fin s n d => f.roundMag f.w qrm s ⟨n, d, false⟩

/-- QNUM (R231). -/
def qNum : QVal → Int × Flags
  | .fin s n _ => (if s then -(n : Int) else (n : Int), noFlags)
  | .inf s => (if s then -1 else 1, noFlags)
  | .nar => (0, noFlags)
  | .ill => (0, { qinv := true })

/-- QDEN (R231). -/
def qDen : QVal → Nat × Flags
  | .fin _ n d => (if n = 0 then 1 else d, noFlags)
  | .inf _ => (0, noFlags)
  | .nar => (0, noFlags)
  | .ill => (0, { qinv := true })

/-- QMAKE (R231). -/
def RatFmt.make (f : RatFmt) (qrm : Nat) (a b : Int) : Nat × Flags :=
  if b = 0 then (if a = 0 then (0, { qinv := true }) else (f.infCode (a < 0), { qdz := true }))
  else f.roundMag f.w qrm ((a < 0) != (b < 0)) ⟨a.natAbs, b.natAbs, false⟩

/-- QBND (R231): the budget is `sat(gb, 2, W)`. -/
def RatFmt.bound (f : RatFmt) (qrm : Nat) (x : QVal) (gb : Nat) : Nat × Flags :=
  let k := if gb < 2 then 2 else if f.w < gb then f.w else gb
  match x with
  | .nar => (0, noFlags)
  | .ill => (0, { qinv := true })
  | .inf s => (f.infCode s, noFlags)
  | .fin s n d => f.roundMag k qrm s ⟨n, d, false⟩

end Sys2Proof.Machine
end

