-- ==== Sys2Proof/Machine/TrussFlow.lean ====
section
/-!
DEFINITION. Machine/TrussFlow.lean: edges, blocked crews, how shares are lent, credited, repaid and recalled, floor draws, cycles and
slack (20 R323 to R337).
-/
namespace Sys2Proof.Machine
open Sys2Proof

/-! ### Edges (R20, R317, R328, R329, R344) -/

/-- The awaited party of a crew's LDS and LDC waits, seen from a die. -/
def wedgeParty (s : State) (t : Thread) : List Party :=
  let w := (((s.crew? t.crew).map Crew.wedge).getD 0x8000000000000000 : Word).toNat
  if bits w 63 62 = 0 then [.crew (crewNamed s (bits w 25 0))]
  else if bits w 63 62 = 1 then [.span t.pos.dieRef] else []

/-- Owner of the lock word that a thread is queued at. -/
def lockParty (s : State) (tid : Nat) : List Party :=
  match s.lockWaiters.find? (fun x => x.tid == tid) with
  | some x => [.crew (crewNamed s (bits (s.rd (8 * x.word) 8) 25 0))]
  | none => []

/-- Crews of threads. -/
def crewsOf (s : State) (ts : List Nat) : List Party := ts.filterMap (fun t => (s.thread? t).map (fun x => .crew x.crew))

/-- The parties that a parked thread's wait names (R20). A wait for a register that a relaxed remote access owes, and the drain of such
accesses, name no party: the rule does not speak of them (log 56). -/
def edgesOf (s : State) (tid : Nat) (t : Thread) : List Party :=
  match t.wait with
  | some (.joinWait _ j set) =>
    let x := s.join ⟨j.pkg, j.die⟩ j.slot
    if x.gen ≠ j.gen then []
    else if x.state = .opened then crewsOf s x.bound
    else if set then crewsOf s x.killed else []
  | some .lock => lockParty s tid
  | some .word => wedgeParty s t
  | some (.reg r) =>
    if 56 ≤ r ∧ r ≤ 59 then
      (match t.queues.toArray.getD (r - 56) none with
       | some b => (match b.producer with | some c => [.crew (crewNamed s c)] | none => [])
       | none => [])
    else []
  | some (.remote q) =>
    match s.reqs.get? q with
    | some r =>
      if r.waiting then (match r.acc.op with | .lock => lockParty s tid | _ => wedgeParty s t)
      else if r.host then [] else [.span t.pos.dieRef]
    | none => []
  | _ => []

/-- Rank of a party: crews by global ID, Span domains after them. -/
def partyRank : Party → Nat
  | .crew c => c.id26
  | .span d => 2 ^ 26 + d.pkg * 4 + d.die

def insertParty (p : Party) : List Party → List Party
  | [] => [p]
  | x :: xs => if partyRank p < partyRank x then p :: x :: xs else if p = x then x :: xs else x :: insertParty p xs

/-- The targets that the parked threads of a crew name, in order, its own crew left out (R328 to R330). -/
def targetsNow (s : State) (c : CrewRef) : List Party :=
  ((crewResident s c).flatMap (fun t => match s.thread? t with
    | some x => if x.status = .parked then edgesOf s t x else []
    | none => [])).foldl (fun ps p => if p = .crew c then ps else insertParty p ps) []

/-- Whether a crew is blocked (R329): one with a thread on its way into a slot is not (R60). -/
def blockedNow (s : State) (c : CrewRef) : Bool :=
  let ts := crewResident s c
  !ts.isEmpty && (!s.threads.any (fun x => x.2.crew == c && x.2.status == .swapIn) && (ts.all (fun t => ((s.thread? t).map (·.status)) == some .parked) && !(targetsNow s c).isEmpty))

/-! ### Cycles (R335, R336) -/

/-- Blocked crews that the edges of a blocked crew name. -/
def blockedTargets (s : State) (c : CrewRef) : List CrewRef :=
  match s.crew? c with
  | some x => if x.blocked then x.targets.filterMap (fun p => match p with
      | .crew d => if crewBlocked s d then some d else none
      | _ => none) else []
  | none => []

/-- The paths of edges from a crew back to `goal` through crews of higher ID than `goal` that are not on the path yet. -/
def cyclePaths (s : State) (goal : CrewRef) : Nat → List CrewRef → CrewRef → List (List CrewRef)
  | 0, _, _ => []
  | n + 1, seen, c =>
    (blockedTargets s c).flatMap (fun d =>
      if d = goal then [[c]]
      else if d.id26 < goal.id26 ∨ seen.contains d then []
      else (cyclePaths s goal n (d :: seen) d).map (c :: ·))

/-- Whether two paths run over the same crews. -/
def sameCrews (a b : List CrewRef) : Bool := a.all b.contains && b.all a.contains

/-- Paths over the same crews are one cycle: a cycle is a set of crews (R335). -/
def distinctCycles : List (List CrewRef) → List (List CrewRef)
  | [] => []
  | c :: cs => c :: (distinctCycles cs).filter (fun d => !sameCrews c d)

/-- The cycles that stand, each from its crew of lowest ID along the edges. -/
def cyclesNow (s : State) : List (List CrewRef) :=
  distinctCycles ((s.crews.filter (·.2.blocked)).flatMap (fun e => cyclePaths s e.1 (s.crews.length + 1) [e.1] e.1))

/-- Whether the edge from `c` to a party lies on a cycle: the party's crew reaches `c` again. -/
def onCycle (s : State) (c : CrewRef) : Party → Bool
  | .crew d => crewBlocked s d && reach (s.crews.length + 1) [d]
  | .span _ => false
where
  /-- Breadth-first closure over blocked crews. -/
  reach : Nat → List CrewRef → Bool
    | 0, ds => ds.contains c
    | n + 1, ds => ds.contains c || reach n (ds ++ (ds.flatMap (blockedTargets s)).filter (fun x => !ds.contains x)).eraseDups

/-! ### Lending (R330 to R332) -/

/-- The targets that a blocked crew lends to. -/
def lendTargets (s : State) (c : CrewRef) : List Party :=
  match s.crew? c with
  | some x => if x.blocked then x.targets.filter (fun p => !onCycle s c p) else []
  | none => []

/-- Whether a crew lies on a cycle of blocked crews. -/
def inCycle (s : State) (c : CrewRef) : Bool := (blockedTargets s c).any (fun d => onCycle s c (.crew d))

/-- Whether a crew has handed a loan's shares on, lent or passed, and they are not on their way back to it. -/
def Loan.handedOn (l : Loan) (c : CrewRef) : Bool := (l.owner == c || l.trail.contains c) && l.target != .crew c

/-- The party that a crew has handed a loan's shares to. -/
def Loan.hop (l : Loan) (c : CrewRef) : Party :=
  match (l.trail.dropWhile (· != c)).drop 1 with
  | d :: _ => .crew d
  | [] => l.target

/-- The way that a loan's shares have come to a crew. -/
def Loan.wayTo (l : Loan) (c : CrewRef) : List CrewRef := l.trail.takeWhile (· != c) ++ [c]

/-- Whether borrowed shares that have come to a crew by `way` are passed on to its targets (R331): the crew is on no cycle (R335), the
depth is below 8, no target lies on the way. -/
def mayPass (s : State) (c : CrewRef) (way : List CrewRef) (ts : List Party) : Bool :=
  !inCycle s c && (way.length ≤ 8 && ts.all (fun p => match p with | .crew d => !way.contains d | .span _ => true))

/-- Whether shares that a crew has handed on stay with the party that they were handed to (R330, R331, R334). -/
def Loan.stays (s : State) (l : Loan) (c : CrewRef) (ts : List Party) : Bool :=
  ts.contains (l.hop c) && (l.owner == c || mayPass s c (l.wayTo c) ts)

/-- Whether a loan's shares are borrowed shares of a crew that it lends too: on its tile, or on their way to it. -/
def Loan.passable (s : State) (l : Loan) (c : CrewRef) (ts : List Party) (at_ : ShareAt) : Bool :=
  l.at_ == at_ && (l.target == .crew c && (l.owner == c || mayPass s c (l.wayTo c) ts))

/-- Shares of a loan go back to a crew that has handed them on: to its own account, or credited to it as borrowed (R334). -/
def Loan.back (s : State) (c : CrewRef) (l : Loan) : Loan := l.fly s (l.wayTo c) (.crew c) .flight

/-- The loans with what a crew no longer lends or passes on taken back, but for shares in flight, which follow when they have been
credited (R333, R334). -/
def takenBack (s : State) (c : CrewRef) (ts : List Party) (ls : List Loan) : List Loan :=
  ls.map (fun l => if l.handedOn c && (!l.inFlight && !l.stays s c ts) then l.back s c else l)

/-- Equal portions of `total` shares, the remainder with the first target (R330). -/
def portions (total : Nat) (ts : List Party) : List (Party × Nat) :=
  ts.zipIdx.map (fun (p, i) => (p, total / ts.length + if i = 0 then total % ts.length else 0))

/-- Shares of a crew that some loans have handed to a party, those on their way included. -/
def handed (ls : List Loan) (c : CrewRef) (p : Party) : Nat :=
  ((ls.filter (fun l => l.handedOn c && l.hop c == p)).map (·.amount)).sum

/-- A target's portion shrinks by `n`: as many of its settled shares go back (R330). -/
def shrink (s : State) (c : CrewRef) (p : Party) : Nat → List Loan → List Loan
  | _, [] => []
  | n, l :: ls =>
    if n = 0 ∨ (l.handedOn c && (!l.inFlight && l.hop c == p)) = false then l :: shrink s c p n ls
    else if l.amount ≤ n then l.back s c :: shrink s c p (n - l.amount) ls
    else { l with amount := l.amount - n } :: { l.back s c with amount := n } :: ls

/-- A loan's shares lent to a target, on their way. -/
def Loan.onto (s : State) (l : Loan) (p : Party) : Loan :=
  l.fly s (match p with | .crew d => l.trail ++ [d] | .span _ => l.trail) p .flight

/-- Borrowed shares of a crew passed on to the targets as far as these need more, and what the targets then still need. -/
def passOn (s : State) (l : Loan) : List (Party × Nat) → List Loan × List (Party × Nat)
  | [] => ([l], [])
  | (p, n) :: ps =>
    if n = 0 then
      let r := passOn s l ps
      (r.1, (p, 0) :: r.2)
    else if l.amount ≤ n then ([l.onto s p], (p, n - l.amount) :: ps)
    else
      let r := passOn s { l with amount := l.amount - n } ps
      ({ l.onto s p with amount := n } :: r.1, (p, 0) :: r.2)

/-- Own shares of a crew lent to the targets as far as these need more, and what the targets then still need. -/
def lendOwn (s : State) (c : CrewRef) : Nat → List (Party × Nat) → List Loan × List (Party × Nat)
  | _, [] => ([], [])
  | own, (p, n) :: ps =>
    let m := min own n
    let r := lendOwn s c (own - m) ps
    ((if m = 0 then [] else [{ (⟨s.fresh, c, [c], .crew c, m, .held, 0, none⟩ : Loan).onto s p with amount := m }]) ++ r.1, (p, n - m) :: r.2)

/-- Borrowed shares of a crew, each loan after the other, are passed on to the targets. -/
def passAll (s : State) (c : CrewRef) (ts : List Party) : List Loan → List (Party × Nat) → List Loan
  | [], _ => []
  | l :: ls, need =>
    if l.passable s c ts .held then
      let r := passOn s l need
      r.1 ++ passAll s c ts ls r.2
    else l :: passAll s c ts ls need

/-- The loans after a crew's lendable shares, its own and the borrowed ones that it may pass on, have been divided again among its
targets: only the differences move (R330, R331). Shares on their way count where they go. -/
def divided (s : State) (c : CrewRef) : List Loan :=
  let ts := lendTargets s c
  let ls := takenBack s c ts s.loans
  if ts.isEmpty then ls
  else
    let borrowed := ((ls.filter (fun l => l.passable s c ts .held || l.passable s c ts .flight)).map (·.amount)).sum
    let want := portions (ownHeld s c + borrowed + (ts.map (handed ls c)).sum) ts
    let spare := want.map (fun e => (e.1, handed ls c e.1 - e.2))
    let need := want.map (fun e => (e.1, e.2 - handed ls c e.1))
    let ls := spare.foldl (fun ls e => shrink s c e.1 e.2 ls) ls
    let r := lendOwn s c (ownHeld s c) need
    passAll s c ts ls r.2 ++ r.1

/-- The loan credited last, of those that satisfy `p` (R327, R332). -/
def newestOf (ls : List Loan) (p : Loan → Bool) : Option Loan :=
  (ls.filter p).foldl (fun a l => match a with
    | none => some l
    | some x => if x.credited ≤ l.credited then some l else a) none

/-- Whether a loan's shares stand on a tile. -/
def Loan.on (l : Loan) (tl : TileRef) : Bool := l.at_ == .held && (l.holder.tileRef == tl && l.amount != 0)

/-- Borrowed shares above the cost of the highest point that a tile may select leave it for the pools of their owners, newest credit
first (R332). -/
def moveSurplus (s : State) (tl : TileRef) : Nat → Nat → List Loan → List Loan
  | 0, _, ls => ls
  | k + 1, n, ls =>
    match (if n = 0 then none else newestOf ls (fun l => l.on tl)) with
    | none => ls
    | some l =>
      let out := l.fly s l.trail l.target .toPool
      if l.amount ≤ n then moveSurplus s tl k (n - l.amount) (ls.map (fun x => if x = l then out else x))
      else ls.flatMap (fun x => if x = l then [{ x with amount := x.amount - n }, { out with amount := n }] else [x])

/-- Shares of a tile, its floor draw apart, above the cost of the highest point that it may select (R332). -/
def excess (s : State) (tl : TileRef) : Nat :=
  heldNoFloor s tl - (match topPoint s tl with
    | some p => pointCost s tl p
    | none => 0)

/-- A tile gives back up to `n` shares of slack to the pools that lent them: lending between crews comes before slack (R337). -/
def returnSlack (tl : TileRef) (n : Nat) (s : State) : State :=
  ((s.tile tl).slackIn.foldl (fun (r : Nat × State) e =>
    let m := min r.1 e.2
    let p : PartRef := ⟨tl.pkg, e.1⟩
    let s := r.2.updTile tl (fun x => { x with slackIn := x.slackIn.map (fun y => if y.1 = e.1 then (y.1, y.2 - m) else y) })
    let out := ((s.part p).slackOut.filter (fun y => y.1 == tl)).map (·.2)
    let left := if out.sum ≤ m then [] else [(tl, out.sum - m)]
    let s := s.updPart p (fun x => { x with slackOut := x.slackOut.filter (fun y => y.1 != tl) ++ left })
    (r.1 - m, sendShares (some tl) m (.pool p) s)) (n, s)).2

/-- Surplus leaves a tile: slack first, then borrowed shares (R332, R337). -/
def settleSurplus (tl : TileRef) (s : State) : State :=
  let s := if excess s tl = 0 then s else returnSlack tl (excess s tl) s
  if excess s tl = 0 then s
  else
    let ls := moveSurplus s tl s.loans.length (excess s tl) s.loans
    if ls = s.loans then s else setLoans ls s

/-- Whether surplus lies on a tile. -/
def surplusDue (s : State) (tl : TileRef) : Bool :=
  excess s tl != 0 && ((s.tile tl).slackIn.any (fun e => e.2 != 0) || s.loans.any (fun l => l.on tl))

/-- Whether shares lent to a crew reach its tile (R328, R334): a crew of the lender's partition on the lender's package that is neither
retired nor swapped out. -/
def receives (s : State) (owner c : CrewRef) : Bool :=
  match s.crew? owner, s.crew? c with
  | some o, some x => owner.pkg == c.pkg && (!x.retired && (x.part == o.part && !x.heldBack))
  | _, _ => false

/-- Shares that waited for a droop to let go of a tile's point leave it: the point falls first, then they are debited (R333, R409). -/
def leaveTile (id : Nat) (tl : TileRef) (s : State) : State :=
  if pointHeld s tl then s
  else dropPoint tl (({ s with
    loans := s.loans.map (fun (l : Loan) => if l.id = id ∧ l.inFlight = true then { l with leaves := none } else l)
    transits := s.transits.upd id (fun x => { x with leaves := none }) }).post .shareCredit (.num id))

/-- Lent shares reach the crew that they go to (R333). What would be surplus on its tile goes to the pool directly, once the slack that
lies there has made room for what it can (R332, R337). -/
def landLoan (l : Loan) (c : CrewRef) (s : State) : State :=
  let tl := c.tileRef
  let rest := s.loans
  let all := { s with loans := rest ++ [l] }
  let n := min (excess all tl - ((s.tile tl).slackIn.map (·.2)).sum) l.amount
  let s := { s with loans := rest ++ (if n = l.amount then [] else [{ l with amount := l.amount - n }]) }
  settleSurplus tl (if n = 0 then s else parkLoan { l with amount := n } s)

/-- A loan's shares in flight are credited at their destination (R333): at home, at the crew, or as surplus in the lender's pool. What
happened to a lender meanwhile acts on them now: one that has retired gets them into its pool, one that is swapped out has them held
back (R334). -/
def creditLoan (l : Loan) (s : State) : State :=
  let now := s.fresh
  let s := { s.tick with loans := s.loans.filter (fun x => !(x.id == l.id && x.inFlight)) }
  let y := { l with at_ := .held, credited := now }
  let s := match s.crew? l.owner with
    | none => s.updPkg l.owner.pkg (fun x => { x with freeShares := x.freeShares + l.amount })
    | some o =>
      if o.retired then creditPool ⟨l.owner.pkg, o.part⟩ l.amount (s.updCrew l.owner (fun o => { o with own := o.own - l.amount }))
      else if l.at_ = .toPool then parkLoan y s
      else match l.target with
        | .span _ => parkLoan y s
        | .crew c =>
          if c = l.owner then (if o.heldBack then holdBack c s else s)
          else if receives s l.owner c then landLoan y c s
          else parkLoan y s
  moveLoans (mended s) s

/-- Shares in flight that are no loan reach their account (R323, R333); those of a thread that has not come to rest wait for it (R334). -/
def creditTransit (id : Nat) (x : Transit) (s : State) : State :=
  let s0 := { s with transits := s.transits.del id }
  match x.dest with
  | .pool p => creditPool p x.amount s0
  | .own c => creditOwn c x.amount s0
  | .away c => creditAway c x.amount s0
  | .slack p tl => settleSurplus tl ((s0.updPart p (fun y => { y with slackOut := y.slackOut ++ [(tl, x.amount)] })).updTile tl (fun y =>
      { y with slackIn := y.slackIn.updD p.part 0 (· + x.amount) }))
  | .floor tl => s0.updTile tl (fun y => { y with floor := y.floor + x.amount })
  | .reserve k => s0.updPkg k (fun y => { y with reserve := y.reserve + x.amount })
  | .free k => s0.updPkg k (fun y => { y with freeShares := y.freeShares + x.amount })
  | .visitor tid c pool =>
    match s.thread? tid with
    | none => creditBack c pool x.amount s0
    | some t => match t.place with
      | .slot q => if c.tileRef = q.tileRef then creditBack c pool x.amount s0
          else s0.updThread tid (fun t => { t with visitor := t.visitor + x.amount, visitorPool := pool.isSome })
      | _ => s

/-- SHARE_CREDIT's effect: shares in flight are credited, or begin to move (R333). -/
def creditShares (id : Nat) (s : State) : State :=
  match s.loans.find? (fun l => l.id == id && l.inFlight), s.transits.get? id with
  | some l, _ => match l.leaves with
    | some tl => leaveTile id tl s
    | none => creditLoan l s
  | none, some x => match x.leaves with
    | some tl => leaveTile id tl s
    | none => creditTransit id x s
  | none, none => s

/-- Shares in flight whose tile can debit them now. -/
def leavingDue (s : State) : Option Nat :=
  let free := fun (t : Option TileRef) => match t with | some tl => !pointHeld s tl | none => false
  ((s.loans.find? (fun l => l.inFlight && free l.leaves)).map (·.id)).or ((s.transits.find? (fun e => free e.2.leaves)).map (·.1))

/-- The last resident thread of a crew has been swapped out (R334, R347): its loans are repaid, what it borrowed is recalled to the
lenders' pools, and its own shares go to its pool, held back. -/
def crewAway (c : CrewRef) (s : State) : State :=
  match s.crew? c with
  | none => s
  | some x =>
    if !(crewResident s c).isEmpty || x.heldBack then s
    else
      let s := s.updCrew c (fun x => { x with heldBack := true, blocked := false, targets := [], waiting := false })
      let s := setLoans (s.loans.map (fun l => if l.at_ = .held ∧ l.holder = c then l.fly s l.trail l.target .toPool else l)) s
      holdBack c (moveLoans (divided s c) s)

/-- The loans with those paid out again that have been recalled from a crew. -/
def paidOut (s : State) (c : CrewRef) : List Loan :=
  s.loans.map (fun l => if l.at_ = .pool ∧ l.target = .crew c then l.fly s l.trail l.target .flight else l)

/-- Whether recalled shares of a crew are still on their way to a pool. -/
def recalled (s : State) (c : CrewRef) : Bool :=
  s.loans.any (fun l => l.at_ == .toPool && l.target == .crew c) || s.transits.any (fun e => e.2.dest == .away c)

/-- What the pools hold for a crew that is back is paid out again (R334, R337, R347): its own shares, then the loans recalled from it,
slack taken back first where a pool needs it. -/
def payStep (c : CrewRef) (s : State) : State :=
  match s.crew? c with
  | none => s
  | some x =>
    let p : PartRef := ⟨c.pkg, x.part⟩
    if !x.waiting || (x.heldBack || x.retired) then s
    else if x.away ≠ 0 then
      (if x.away ≤ (s.part p).pool then
        sendShares none x.away (.own c) (debitPool p x.away (s.updCrew c (fun y => { y with own := y.own - x.away, away := 0 })))
      else reclaimSlack p s)
    else
      let s := moveLoans (paidOut s c) s
      if recalled s c || paidOut s c != s.loans then s else s.updCrew c (fun y => { y with waiting := false })

/-- Whether `payStep` would do something. -/
def payDue (s : State) (c : CrewRef) : Bool :=
  match s.crew? c with
  | none => false
  | some x =>
    let p : PartRef := ⟨c.pkg, x.part⟩
    x.waiting && (!x.heldBack && (!x.retired &&
      (if x.away ≠ 0 then decide (x.away ≤ (s.part p).pool) || !(s.part p).slackOut.isEmpty
       else loansMovable s (paidOut s c) || (paidOut s c == s.loans && !recalled s c))))

/-- The first thread of a crew has been swapped in (R334, R347). -/
def crewBack (c : CrewRef) (s : State) : State :=
  match s.crew? c with
  | none => s
  | some x => if x.heldBack then payStep c (s.updCrew c (fun y => { y with heldBack := false, waiting := true })) else s

/-! ### Points and floor draws (R326, R327) -/

/-- Shares of a crew on a tile: its own and borrowed at home, the visitor shares of its threads elsewhere. -/
def crewOnTile (s : State) (tl : TileRef) (c : CrewRef) : Nat :=
  (if c.tileRef = tl then crewHeld s c else 0) +
    ((s.threads.filter (fun x => x.2.crew == c && onTile tl x.2)).map (fun x => x.2.visitor)).sum

/-- The home tile of an endpoint (R358). -/
def epidHome (e : BitVec 32) : TileRef := ⟨bits e.toNat 26 17, bits e.toNat 16 15, bits e.toNat 14 7⟩

/-- Whether a message waits for slot 14 of its sender's core (R126, R359): it has come back MOVED, and its endpoint's home can be reached. -/
def Msg.resends (s : State) (m : Msg) : Bool :=
  m.moved && (m.from_ == m.src.pkg && routed s m.src.pkg m.part m.launch (epidHome m.epid).pkg)

/-- The core whose slot 14 has work with a message: to send it again, or to try it again at its target (R126, R150, R359). -/
def Msg.commCore (s : State) (m : Msg) : Option CoreRef :=
  if m.resends s then some m.src
  else if m.waiting && m.retry then ((s.threads.find? (fun x => x.2.epid == m.epid)).bind (·.2.slot?)).map (·.coreRef)
  else none

/-- Whether slot 14 or 15 of some core of a tile has work (R18, R149; log 45). -/
def systemWork (s : State) (tl : TileRef) : Bool :=
  s.cores.any (fun e => e.1.tileRef == tl && e.2.system.isSome) || (s.sysEvents.any (fun e => e.core.tileRef == tl) ||
    s.msgs.any (fun e => (e.2.commCore s).map (·.tileRef) == some tl))

/-- Whether a READY thread of a tile calls for a floor draw (R327): one in slot 14 or 15, or one of a crew with fewer than 8 shares on
the tile. -/
def floorCalled (s : State) (tl : TileRef) : Bool :=
  systemWork s tl || s.threads.any (fun x => onTile tl x.2 && (x.2.status == .ready &&
    ((x.2.slot?.map (fun p => decide (14 ≤ p.slot))).getD false || crewOnTile s tl x.2.crew < 8)))

/-- Shares on their way to a tile's floor draw. -/
def floorComing (s : State) (tl : TileRef) : Nat := ((s.transits.filter (fun e => e.2.dest == .floor tl)).map (·.2.amount)).sum

/-- Shares that a floor draw of a gated tile still takes. -/
def floorWant (s : State) (tl : TileRef) : Nat := if floorCalled s tl then 8 - held s tl - floorComing s tl else 0

/-- The newest loan credited on a package. -/
def newestLoan (s : State) (pkg : Nat) : Option Loan :=
  newestOf s.loans (fun l => l.at_ == .held && (l.holder.pkg == pkg && l.amount != 0))

/-- Takes `n` shares for a floor draw: from the reserve, then from the newest loans, whose tiles are debited first and whose lenders'
accounts shrink by them. -/
def drawFloor (tl : TileRef) : Nat → Nat → State → State
  | 0, _, s => s
  | k + 1, n, s =>
    if n = 0 then s
    else
      let r := min n (s.pkg tl.pkg).reserve
      if r ≠ 0 then
        drawFloor tl k (n - r) (sendShares none r (.floor tl) (s.updPkg tl.pkg (fun x => { x with reserve := x.reserve - r })))
      else match newestLoan s tl.pkg with
      | none => s
      | some l =>
        let m := min n l.amount
        let s := setLoans (s.loans.filterMap (fun x => if x = l then (if m = l.amount then none else some { x with amount := x.amount - m }) else some x)) s
        drawFloor tl k (n - m) (sendShares (some l.holder.tileRef) m (.floor tl) (s.updCrew l.owner (fun c => { c with own := c.own - m })))

/-- Whether a draw should end: no such thread is READY, or the tile holds 8 shares without it. -/
def floorStale (s : State) (tl : TileRef) : Bool :=
  (s.tile tl).floor != 0 && (!floorCalled s tl || 8 ≤ heldNoFloor s tl)

def endFloor (tl : TileRef) (s : State) : State :=
  if floorStale s tl then sendShares (some tl) (s.tile tl).floor (.reserve tl.pkg) (s.updTile tl (fun x => { x with floor := 0 })) else s

/-- Whether a running tile's point is to change. -/
def pointOff (s : State) (tl : TileRef) : Bool :=
  !pointHeld s tl && ((s.tile tl).point.isSome && bestPoint s tl (held s tl) != (s.tile tl).point)

/-- A point step: the tile runs at the highest point it may select (R326), at rewritten costs from now on (R325). -/
def stepPoint (tl : TileRef) (s : State) : State :=
  let s := settleSurplus tl (endFloor tl s)
  if pointOff s tl then
    let s := adoptCosts tl s
    s.updTile tl (fun x => { x with point := bestPoint s tl (held s tl) })
  else s

/-- What a gated tile held up goes on (R22, R326): its copy unit, its matrix engine and its quads' special functions. -/
def tileGoesOn (tl : TileRef) (s : State) : State :=
  let s := kickMatrix tl (s.post .copyChunk (.tile tl))
  let s := ((List.range 8).filter (fun k => (accOf s tl k).saving)).foldl (fun s k => s.post .lazySave (.tileNum tl k)) s
  (quadsOf tl).foldl (fun s q => (s.post .sfuServiceStart (.quad q)).post .sfuComplete (.quad q)) s

/-- A gated tile draws its floor if it may, and restarts at the first point that qualifies. -/
def restartTile (tl : TileRef) (s : State) : State :=
  if (s.tile tl).point.isSome then s
  else
    let s := drawFloor tl 1000 (floorWant s tl) (adoptCosts tl s)
    match bestPoint s tl (held s tl) with
    | none => s
    | some p => tileGoesOn tl (s.updTile tl (fun x => { x with point := some p }))

/-- Whether a gated tile can restart or draw. -/
def restartDue (s : State) (tl : TileRef) : Bool :=
  (s.tile tl).point.isNone && ((bestPoint (adoptCosts tl s) tl (held s tl)).isSome ||
    (floorWant s tl != 0 && ((s.pkg tl.pkg).reserve != 0 || (newestLoan s tl.pkg).isSome)))

/-- Whether a tile's floor draw, its surplus or its point is to change. -/
def pointDue (s : State) (tl : TileRef) : Bool := floorStale s tl || (surplusDue s tl || pointOff s tl)

/-! ### Slack (R337) -/

/-- Crews resident on a tile. -/
def crewsOn (s : State) (tl : TileRef) : List (CrewRef × Crew) :=
  s.crews.filter (fun x => x.1.tileRef == tl && (!x.2.retired && !(crewResident s x.1).isEmpty))

/-- Slack on its way to a tile. -/
def slackComing (s : State) (tl : TileRef) : Nat :=
  ((s.transits.filter (fun e => match e.2.dest with | .slack _ x => x == tl | _ => false)).map (·.2.amount)).sum

/-- Shares that the next point step of a tile costs, if the pool of `p` may lend it: a tile of other tenants with no blocked crew. -/
def slackStep (s : State) (p : PartRef) (tl : TileRef) : Option Nat :=
  let cs := crewsOn s tl
  if tl.pkg ≠ p.pkg ∨ cs = [] ∨ cs.any (fun x => x.2.blocked || x.2.part == p.part) = true then none
  else
    let h := held s tl + slackComing s tl
    let lim := ((tileCap s tl).map (·.2)).getD 15
    ((List.range 16).find? (fun q => q ≤ lim && (pointEnabled s tl q && h < pointCost s tl q))).map (fun q => pointCost s tl q - h)

/-- The tiles of a package that hold threads, in die and tile order. -/
def busyTiles (s : State) (pkg : Nat) : List TileRef :=
  (List.range 576).map (fun k => (⟨pkg, k / 144, k % 144⟩ : TileRef)) |>.filter (fun tl => s.threads.any (fun x => onTile tl x.2))

/-- One round of slack: a point step for each tile that the pool can still pay for. -/
def lendSlack (p : PartRef) (s : State) : State :=
  (busyTiles s p.pkg).foldl (fun s tl =>
    match slackStep s p tl with
    | some n =>
      if n ≤ (s.part p).pool then
        sendShares none n (.slack p tl) (debitPool p n s)
      else s
    | none => s) s

/-- Shares on their way to a pool. -/
def poolComing (s : State) (p : PartRef) : Nat := ((s.transits.filter (fun e => e.2.dest == .pool p)).map (·.2.amount)).sum

/-- Whether a pool lends slack now. -/
def slackDue (s : State) (p : PartRef) : Bool :=
  let x := s.part p
  x.slack && (x.debt == 0 && (x.pool != 0 && (poolComing s p == 0 && (busyTiles s p.pkg).any (fun tl => match slackStep s p tl with
    | some n => n ≤ x.pool
    | none => false))))

/-! ### What Truss has to do next (log 25) -/

/-- Whether what is recorded of a crew has changed, or shares of it wait to be lent, to be taken back or to be paid out. -/
def crewDue (s : State) (e : CrewRef × Crew) : Bool :=
  if e.2.retired then loansMovable s (mended s)
  else
    let b := blockedNow s e.1
    e.2.blocked != b || (e.2.targets != (if b then targetsNow s e.1 else []) || (payDue s e.1 || loansMovable s (divided s e.1)))

/-- The tiles that power matters on. -/
def poweredTiles (s : State) : List TileRef :=
  (s.tiles.map (·.1) ++ (s.crews.map (·.1.tileRef) ++ (s.threads.filterMap (fun x => x.2.slot?.map (·.tileRef)) ++
    (s.sysEvents.map (·.core.tileRef) ++ (s.msgs.filter (·.2.moved)).map (·.2.src.tileRef))))).eraseDups

/-- The next Truss event that is due, if any, slack apart. -/
def trussDue (s : State) : Option (Instr × Obj) :=
  match leavingDue s with
  | some id => some (.shareCredit, .num id)
  | none => match s.crews.find? (crewDue s) with
  | some e => some (.crewBlockedChange, .crew e.1)
  | none =>
    if cyclesNow s ≠ s.cycles then some (.cycleDetect, .none)
    else match (poweredTiles s).find? (restartDue s) with
    | some tl => some (.tileRestart, .tile tl)
    | none => match (poweredTiles s).find? (pointDue s) with
    | some tl => some (.pointStepDone, .tile tl)
    | none => none

/-- Slack is lent when nothing else is due that may need the pools (R337). -/
def slackLendDue (s : State) : Option (Instr × Obj) := ((s.parts.map (·.1)).find? (slackDue s)).map (fun p => (.slackLend, .part p))

end Sys2Proof.Machine
end

