-- ==== Sys2Proof/Machine/JoinHome.lean ====
section
/-!
DEFINITION. Machine/JoinHome.lean: a Keystone unit's joins: accumulation, release, settling, and how a member takes a kill
(18 R291 to R315).
-/
namespace Sys2Proof.Machine
open Sys2Proof

/-! ### Handles and status (R292, R301) -/

/-- The die whose Keystone unit is a join's home. -/
def homeOf (j : JoinRef) : DieRef := ⟨j.pkg, j.die⟩

/-- The join that a handle names; a generation of 0 is never live. -/
def joinOfHandle (v : Word) : JoinRef :=
  let n := v.toNat
  ⟨bits n 31 22, bits n 21 20, bits n 19 12, if bits n 63 32 = 0 then bits n 11 0 else 0⟩

def joinHandle (j : JoinRef) : Word := word (j.pkg * 2 ^ 22 + j.die * 2 ^ 20 + j.slot * 2 ^ 12 + j.gen)

def joinAt (s : State) (j : JoinRef) : Join := s.join (homeOf j) j.slot

/-- Whether a handle is live for a partition (R292). -/
def joinLive (s : State) (j : JoinRef) (part : Nat) : Bool :=
  let x := joinAt s j
  x.state != .free && (j.gen != 0 && (x.gen == j.gen && x.part == part))

def joinStateCode : JoinState → Nat
  | .free => 0
  | .opened => 1
  | .released => 2
  | .settled => 3

/-- The status word (R301). -/
def joinStatus (x : Join) : Word :=
  word (b2n x.close * 2 ^ 62 + joinStateCode x.state * 2 ^ 60 + b2n x.noarr * 2 ^ 59 + b2n x.nv * 2 ^ 58 + b2n x.of * 2 ^ 57 +
    b2n x.nx * 2 ^ 56 + x.arrived * 2 ^ 32 + x.bound.length * 2 ^ 16 + x.killed.length)

/-- Directory entries in use on a die (R291). -/
def dirUsed (s : State) (d : DieRef) : Nat :=
  ((s.joins.filter (fun e => e.1.1 == d)).map (fun e => e.2.bound.length + e.2.killed.length)).sum

/-! ### Elements (R294, R298, R299) -/

/-- Bytes of an element: TYPE F32 0, I32 1, C32 2, Q32 3. -/
def joinBytes (ty : Nat) : Nat := if ty = 2 then 8 else 4

/-- Words of the result area (R294). -/
def joinWords (ty len : Nat) : Nat := (len * joinBytes ty + 7) / 8

/-- Element `e` of packed words. -/
def packedElem (ty : Nat) (ws : List Word) (e : Nat) : Nat :=
  if ty = 2 then (ws.getD e 0).toNat else (ws.getD (e / 2) 0).toNat / 2 ^ (32 * (e % 2)) % 2 ^ 32

/-- Word `k` of packed elements. -/
def packedWord (ty : Nat) (es : List Nat) (k : Nat) : Nat :=
  if ty = 2 then es.getD k 0 else es.getD (2 * k) 0 + 2 ^ 32 * es.getD (2 * k + 1) 0

/-- The zero an element starts at. -/
def joinZero (ty : Nat) : Nat := if ty = 3 then 1 else 0

/-- The flags of a rational operation as a join records them. -/
def qJoinFlags (f : Flags) : Flags := { nv := f.qinv, of := f.qovf, nx := f.qinx }

/-- An F32 result of exact terms: a NaN term or an invalid sum gives the canonical NaN with NV. -/
def joinF32 (nan : Bool) (x : Option Xr) : Nat × Flags :=
  if nan then (0x7FC00000, flagNV)
  else match x with
    | none => (0x7FC00000, flagNV)
    | some v => fp32.round 0 false v

/-- A total saturated to 32 bits. -/
def joinSat (z : Int) : Nat × Flags := (wrapN 32 (satInt z (sMin 32) (sMax 32)), { of := z < sMin 32 || sMax 32 < z })

/-- A part-wise operation on C32 elements. -/
def onParts (f : Nat → Nat → Nat × Flags) (a x : Nat) : Nat × Flags :=
  let p := f (a % 2 ^ 32) (x % 2 ^ 32)
  let q := f (a / 2 ^ 32) (x / 2 ^ 32)
  (p.1 + 2 ^ 32 * q.1, p.2.or q.2)

/-- `step` (R299). -/
def joinStep (ty a x : Nat) : Nat × Flags :=
  match ty with
  | 0 =>
    let u := fp32.decode a
    let v := fp32.decode x
    joinF32 (u.isNan || v.isNan) (u.xr.add 0 v.xr)
  | 1 => joinSat (sgn 32 a + sgn 32 x)
  | 2 => onParts (fun p q => joinSat (sgn 32 p + sgn 32 q)) a x
  | _ =>
    let r := rat32.deliver 0 (qAdd (rat32.decode a) (rat32.decode x))
    (r.1, qJoinFlags r.2)

/-- `a × Wt ÷ Wa` of an integer, to nearest even, saturated. -/
def rescaleInt (wt wa a : Nat) : Nat × Flags :=
  let z := sgn 32 a
  let r := roundToInt 0 (z < 0) (z.natAbs * wt) wa
  let x := joinSat r.1
  (x.1, x.2.or { nx := r.2 })

/-- RESCALE with an arrival (R300). -/
def joinRescale (ty wt wa a : Nat) : Nat × Flags :=
  match ty with
  | 0 => match fp32.decode a with
    | .num (.fin n p q) => fp32.roundFin 0 false n (p * wt) (q * wa) false
    | _ => (a, noFlags)
  | 1 => rescaleInt wt wa a
  | 2 => onParts (fun p _ => rescaleInt wt wa p) a 0
  | _ => match rat32.decode a with
    | .fin n p q =>
      let r := rat32.roundMag rat32.w 0 n ⟨p * wt, q * wa, false⟩
      (r.1, qJoinFlags r.2)
    | _ => (a, noFlags)

/-- SUBST (R300): `a + k × S`, or `k × S` alone when nothing arrived. -/
def joinSubst (ty : Nat) (none_ : Bool) (k : Int) (a x : Nat) : Nat × Flags :=
  let sum := fun (u v : Xr) => match (Xr.ofInt k).mul v with
    | none => none
    | some p => if none_ then some p else u.add 0 p
  match ty with
  | 0 =>
    let u := fp32.decode a
    let v := fp32.decode x
    joinF32 ((!none_ && u.isNan) || v.isNan) (sum u.xr v.xr)
  | 1 => joinSat (sgn 32 a + k * sgn 32 x)
  | 2 => onParts (fun p q => joinSat (sgn 32 p + k * sgn 32 q)) a x
  | _ =>
    let u := rat32.decode a
    let v := rat32.decode x
    let r := rat32.deliver 0 ((narOf [u, v]).getD (QRes.ofXr (sum u.xr v.xr)))
    (r.1, qJoinFlags r.2)

/-- One result element (R300): FILL NONE 0, RESCALE 1, SUBST 2, FIRST 3. -/
def joinResult (x : Join) (e : Nat) : Nat × Flags :=
  let a := x.acc.getD e 0
  match x.fill with
  | 1 => if x.arrived = 0 then (a, noFlags) else joinRescale x.ty x.wtot x.warr a
  | 2 => joinSubst x.ty (x.arrived == 0) ((x.wtot : Int) - x.warr) a (x.subst.getD e 0)
  | _ => (a, noFlags)

/-- A counted arrival (R298, R299). -/
def Join.count (x : Join) (xs : List Nat) (w : Nat) : Join :=
  let first := x.arrived == 0
  let es := if x.fill = 3 then (if first then xs.map (fun v => (v, noFlags)) else x.acc.map (fun v => (v, noFlags)))
    else List.zipWith (joinStep x.ty) x.acc xs
  let f := es.foldl (fun f e => f.or e.2) noFlags
  { x with
    acc := es.map (·.1)
    arrived := x.arrived + 1
    warr := x.warr + w
    nv := x.nv || f.nv
    of := x.of || f.of
    nx := x.nx || f.nx }

/-! ### Release and settling (R295, R300) -/

/-- A released join without pending kills settles: JWAIT.SET waiters are readied. -/
def settleJoin (d : DieRef) (k : Nat) (s : State) : State :=
  let x := s.join d k
  if x.state = .released ∧ x.killed = [] then
    let s := s.updJoin d k (fun x => { x with state := .settled, waiters := [] })
    x.waiters.foldl (fun s w => finish w.1 w.2.1 (joinStatus (s.join d k)) s) s
  else s

/-- A settled join that has been closed frees its slot, which keeps its generation. -/
def freeClosed (d : DieRef) (k : Nat) (s : State) : State :=
  let x := s.join d k
  if x.state = .settled ∧ x.close = true then s.updJoin d k (fun x => { Join.init with gen := x.gen }) else s

/-- The release of an OPEN join, in the order of R300. -/
def releaseJoin (d : DieRef) (k : Nat) (s : State) : State :=
  let x := s.join d k
  let rs := (List.range x.len).map (joinResult x)
  let f := rs.foldl (fun f e => f.or e.2) noFlags
  let s := s.updJoin d k (fun x => { x with
    state := .released
    killed := x.bound
    bound := []
    waiters := x.waiters.filter (fun w => w.2.2)
    noarr := x.arrived == 0 && (x.fill == 1 || x.fill == 3)
    nv := x.nv || f.nv
    of := x.of || f.of
    nx := x.nx || f.nx })
  let s := x.res.zipIdx.foldl (fun s (a, i) => dropTlb (a / 8) (storeFull (a / 8) (packedWord x.ty (rs.map (·.1)) i) s)) s
  let s := (x.waiters.filter (fun w => !w.2.2)).foldl (fun s w => finish w.1 w.2.1 (joinStatus (s.join d k)) s) s
  let s := x.bound.foldl (fun s t => (s.updThread t (fun y => { y with kill := .sent d.pkg (epidHome y.epid) 0 })).post .killDelivery (.thread t)) s
  settleJoin d k s

/-! ### The thread's side (R297, R306, R315) -/

/-- TLOG with PTR back at BASE. -/
def logEmpty (l : Word) : Word := putBits l 42 32 (bits l.toNat 10 0)

/-- A thread becomes a member (R297, R305). -/
def becomeMember (tid : Nat) (j : JoinRef) (tent : Bool) (s : State) : State :=
  updLog tid (fun w => if tent then putBits w 13 13 1 else w) logEmpty (s.updThread tid (fun t => { t with join := some j }))

/-- A membership ends with an arrival (R298). -/
def endMember (tid : Nat) (s : State) : State :=
  updLog tid (fun w => putBits w 13 13 0) logEmpty (s.updThread tid (fun t => { t with join := none }))

/-! ### Taking a kill (R310, R311) -/

/-- One replay write (R140, R311): OLD to the word, FEOLD to its FE bit when FEV is set; one that does not translate is skipped and
counted. A word of the thread's TCM area is written where that area stands now (R138, R148). -/
def replayEntry (t : Thread) (a : Nat) (s : State) : State :=
  let e := s.rd a 8
  match translateNow s t.pos.tileRef (s.cfgOf t).root t.part 0 (e / 8 * 8) 1 with
  | .ok tg =>
    let w := match regionOf tg.pa with
      | .tcm _ _ _ _ => if tg.aper = 0 then (tcmOf s t + tg.pa % 2048) / 8 else tg.ga / 8
      | _ => tg.ga / 8
    let s := dropTlb w (storeAt (8 * w) 8 (s.rd (a + 8) 8) s)
    if bitAt e 1 then setFe w (bitAt e 0) s else s
  | _ => reportFault ⟨t.pos.pkg, t.part⟩ 4 [] s

/-- The undo log is replayed, newest entry first (R311 step 2). -/
def replayLog (t : Thread) (s : State) : State :=
  let l := (tlogOf s t).toNat
  let base := bits l 10 0
  let n := (bits l 42 32 - base) / 16
  ((List.range n).reverse).foldl (fun s k => replayEntry t (tcmOf s t + base + 16 * k) s) s

/-- Whether every round trip of a thread that the destination owes it has been answered. -/
def tripsDone (s : State) (tid : Nat) : Bool :=
  s.reqs.all (fun r => r.2.acc.tid != tid || (r.2.posted || (r.2.waiting || r.2.result.isSome)))

/-- Whether a thread is parked on an MMA (R21). -/
def inMma (s : State) (t : Thread) : Bool :=
  match t.wait with
  | some (.matrix id) => (s.tile t.pos.tileRef).matQ.any (fun e => e.id == id && (match e.op with | .mma .. => true | _ => false))
  | _ => false

/-- Whether a thread stands where a kill can be taken: its accesses and its MMA have completed, and it is in no swap, no flight, no entry
and not halted (R148, R310, R311). -/
def atKillPoint (s : State) (tid : Nat) (t : Thread) : Bool :=
  !inMma s t && (tripsDone s tid &&
    match t.place with
    | .image _ _ => true
    | .flight _ _ => false
    | .slot _ => t.status == .ready || (t.status == .parked || t.status == .waking))

/-- Whether a thread can take its kill now: in its image always, in its slot neither at H nor inside a hold (R148, R310, R315). -/
def killable (s : State) (tid : Nat) (t : Thread) : Bool :=
  atKillPoint s tid t && (t.slot?.isNone || (t.priv != 2 && !t.khold))

/-- The relaxed accesses of a thread that have not left for another package take their places (R130, R397). -/
def performRelaxed (t : Thread) (s : State) : State :=
  (t.relaxed.filter (fun a => (s.reqs.get? a.id).isNone)).foldl (fun s a => (performAt a none s).1) s

/-- The kill is taken (R311): outstanding accesses complete, the log is replayed, everything held is given back, the thread retires
KILLED, and its join's home is told. -/
def takeKill (tid : Nat) (s : State) : State :=
  match s.thread? tid with
  | none => s
  | some t =>
    let tl := t.pos.tileRef
    let s := performRelaxed t (finishTail tid s)
    let t := (s.thread? tid).getD t
    let s := withdraw tid s
    let s := { s with reqs := s.reqs.filter (fun (e : Nat × SpanReq) => e.2.acc.tid != tid || e.2.posted) }
    let s := replayLog t s
    let s := killJobs tl tid (discardSfu tid s)
    let s := removeThread tid true (releaseAll tid s)
    match t.join with
    | none => s
    | some j => s.post .retractionEnd (.member j tid)

end Sys2Proof.Machine
end

