-- ==== Sys2Proof/Machine/System.lean ====
section
/-!
DEFINITION. Machine/System.lean: fences, control registers and system instructions (06 R111, R112, R116 to R119, 08 R143, R145).
-/
namespace Sys2Proof.Machine
open Sys2Proof

/-! ### Fences (R111, R112) -/

/-- FENCE parks until every condition its flags name holds; a lost relaxed access is reported at .R (R351). -/
def semFence (f : BitVec 3) : Sem :=
  { check := fun c _ => match c.pre.lost with
      | l :: _ => if bitAt f.toNat 0 then .fault 15 cRLOST l.kind (word l.va) else .ok
      | [] => .ok
    run := fun c s => if fenceOk s c.tid c.pre f.toNat then s else park c.tid (.fence f.toNat) s }

/-- IFENCE drains, empties the quad's instruction cache and parks until that has ended; wherever the thread goes, it fetches nothing that
a quad has cached before (R139). -/
def semIfence : Sem :=
  { check := fun c s => drainCheck c s
    run := fun c s =>
      let s := (s.updThread c.tid (fun t => { t with codeFrom := s.fresh })).tick
      wake c.tid (park c.tid .ifence (s.updQuad c.pre.pos.quadRef (fun q => { q with icache := [] }))) }

/-! ### Control registers (R64 to R68) -/

/-- What R64 permits: numbers that all may read, write at S and H, write at every privilege. -/
def crKnown (n : Nat) : Bool :=
  [0x000, 0x001, 0x002, 0x003, 0x004, 0x010, 0x011, 0x012, 0x013, 0x020, 0x021, 0x022, 0x023, 0x024, 0x030, 0x031].contains n
def crReadOnly (n : Nat) : Bool := [0x012, 0x020, 0x021, 0x022, 0x023, 0x024].contains n
def crReadAtU (n : Nat) : Bool := !([0x001, 0x002, 0x003, 0x004, 0x031].contains n)
def crWriteAtU (n : Nat) : Bool := [0x010, 0x011, 0x013, 0x030].contains n

/-- The writable bits of a control register (R65 to R68). -/
def crMask (n : Nat) : Word :=
  match n with
  | 0x000 => 0x3D0
  | 0x001 => ones64
  | 0x002 => 0xFFFFF
  | 0x003 => ones64
  | 0x004 => 0x73D3
  | 0x010 => 0xF1F1177
  | 0x011 => 0xF
  | 0x013 => 0x1F
  | 0x030 => 0x7FF07FF07FF
  | 0x031 => 0xFFFFFFFFFFFC0
  | _ => 0

/-- Whether a written value puts an unassigned value into a field (R64 check 4, R66 to R68); every CODE of ECAUSE may be written, those that
the device never writes too, which R66 leaves open (log 68). -/
def crUnassigned (n v : Nat) : Bool :=
  match n with
  | 0x001 => v % 8 != 0
  | 0x004 => bits v 1 0 == 3
  | 0x010 => 5 ≤ bits v 6 4 || 5 ≤ bits v 2 0
  | 0x011 => 10 ≤ bits v 3 0
  | 0x030 => bits v 35 32 != 0 || (bits v 19 16 != 0 || (bits v 3 0 != 0 ||
      (bits v 42 32 < bits v 10 0 || bits v 26 16 < bits v 42 32)))
  | _ => false

/-- Value of a control register (R64). -/
def crValue (s : State) (t : Thread) (n : Nat) : Word :=
  match n with
  | 0x000 => t.tstat
  | 0x001 => t.epc
  | 0x002 => t.ecause
  | 0x003 => t.eval
  | 0x004 => t.estat
  | 0x010 => t.fctl
  | 0x011 => t.fmt
  | 0x012 => word t.vlen
  | 0x013 => t.mstat
  | 0x020 => (s.core t.pos.coreRef).extid.setWidth 64
  | 0x021 => t.epid.setWidth 64
  | 0x022 => t.pos.word
  | 0x023 => word t.part
  | 0x024 => (s.tile t.pos.tileRef).drpStr ++ (s.tile t.pos.tileRef).drpTrips
  | 0x030 => t.tlog
  | 0x031 => t.htab
  | _ => 0

/-- A control register written field by field: bits outside its map keep their value (R7, R64). -/
def Thread.crWrite (t : Thread) (n : Nat) (v : Word) : Thread :=
  let put := fun (old : Word) => (old &&& ~~~(crMask n)) ||| (v &&& crMask n)
  match n with
  | 0x000 => { t with tstat := put t.tstat }
  | 0x001 => { t with epc := put t.epc }
  | 0x002 => { t with ecause := put t.ecause }
  | 0x003 => { t with eval := put t.eval }
  | 0x004 => { t with estat := put t.estat }
  | 0x010 => t.setFctl (put t.fctl)
  | 0x011 => { t with fmt := put t.fmt }
  | 0x013 => { t with mstat := put t.mstat }
  | 0x030 => { t with tlog := put t.tlog }
  | 0x031 => { t with htab := put t.htab }
  | _ => t

/-- The checks of R64 in their order: a read, a write of `v`, or both. -/
def crCheck (t : Thread) (n : Nat) (read : Bool) (write : Option Word) : Verdict :=
  if crKnown n = false then .fault 4 cILLREG 0 (word n)
  else if write.isSome ∧ crReadOnly n = true then .fault 4 cILLREG 0 (word n)
  else if t.priv = 0 ∧ ((read = true ∧ crReadAtU n = false) ∨ (write.isSome ∧ crWriteAtU n = false)) then .fault 4 cPRIV 0 (word n)
  else match write with
    | some v => if crUnassigned n v.toNat then .fault 4 cILLREG 0 (word n) else .ok
    | none => .ok

def semCrd (d : BitVec 6) (n : BitVec 10) : Sem :=
  { wg := [d.toNat]
    check := fun c _ => crCheck c.pre n.toNat true none
    run := fun c s => regWrite c.tid d.toNat (crValue s c.pre n.toNat) s }

def semCwr (a : BitVec 6) (n : BitVec 10) : Sem :=
  { srcs := [a]
    check := fun c _ => crCheck c.pre n.toNat false (some (c.g a))
    run := fun c s => s.updThread c.tid (fun t => t.crWrite n.toNat (c.g a)) }

def semCswp (d a : BitVec 6) (n : BitVec 10) : Sem :=
  { srcs := [a], wg := [d.toNat]
    check := fun c _ => crCheck c.pre n.toNat true (some (c.g a))
    run := fun c s => regWrite c.tid d.toNat (crValue s c.pre n.toNat) (s.updThread c.tid (fun t => t.crWrite n.toNat (c.g a))) }

/-! ### System instructions (R118, R119, R145) -/

/-- TRAP enters a handler with the next bundle as its return address. -/
def semTrap (k : BitVec 12) : Sem := { run := fun c s => takeTrap c.tid cTRAP k.toNat 0 (c.pre.pc + 8) s }

/-- ERET (R118, R145); an EPC that no bundle stands at takes ALIGN, as a jump there does (R40, R142). -/
def semEret : Sem :=
  { check := fun c _ =>
      if c.pre.priv = 0 ∨ (c.pre.priv = 1 ∧ bits c.pre.estat.toNat 1 0 = 2) then .fault 4 cPRIV 0 0
      else if c.pre.epc.toNat % 8 ≠ 0 then .fault 6 cALIGN 2 c.pre.epc else .ok
    run := fun c s =>
      let s := s.updThread c.tid (·.eret)
      killBoundary c.tid (boundary c.tid (if bits c.pre.estat.toNat 1 0 = 0 then releaseInbox c.tid s else s)) }

/-- BRK takes its fault, or halts the thread when the debugger has asked for it (R118, R162). -/
def semBrk : Sem :=
  { check := fun c s =>
      if c.pre.haltBrk then
        .wait (s.updThread c.tid (fun t => { t with status := .halted, epc := t.pc, wait := none, brkHalt := true }))
      else .fault 16 cBRK 0 (Config.brkEval s.fresh) }

/-- EXIT (R118): a member of a join asks the join's home first, and keeps its undo log until the home has decided (R312). -/
def semExit : Sem :=
  { check := fun c s => drainCheck c s
    run := fun c s =>
      let s := s.updThread c.tid (fun t => { t with
        tstat := putBits t.tstat 14 14 0, holdCount := 0 })
      match c.pre.join with
      | none => exitThread c.tid s
      | some j =>
        let q := s.fresh
        (({ s.tick with keyReqs := s.keyReqs.set q ⟨c.tid, c.pre.part, 0, j, .depart⟩ }).post .joinDeparture (.num q)) |> park c.tid .answer }

/-- YIELD (R118). -/
def semYield : Sem := { run := fun c s => boundary c.tid (holdOff c.tid s) }

/-- TIME reads the package's reference time; how much has passed is not the program's to know (log 8). -/
def semTime (d : BitVec 6) : Sem :=
  { wg := [d.toNat]
    run := fun c s =>
      let p := c.pre.pos.pkg
      let v := s.now p + Config.elapsedNs s.fresh
      regWrite c.tid d.toNat (word v) (s.tick.updPkg p (fun x => { x with time := v })) }

/-- CYC reads the tile's cycle count: at least every count that a core of the tile has shown (log 8). -/
def semCyc (d : BitVec 6) : Sem :=
  { wg := [d.toNat]
    run := fun c s =>
      let me := c.pre.pos.coreRef
      let v := ((coresOf me.tileRef).map (fun k => (s.core k).cycle + (s.core k).cycBase)).foldl max 0 + Config.elapsedCycles s.fresh
      regWrite c.tid d.toNat (word v) (s.tick.updCore me (fun x => { x with cycBase := v - x.cycle })) }

/-- LAUNCH hands its record to the dispatcher and waits for the answer (R119). -/
def semLaunch (d a : BitVec 6) : Sem :=
  { srcs := [a], wg := [d.toNat]
    check := fun c s => firstVerdict [recordCheck c s (c.g a) 2, drainCheck c s]
    run := fun c s =>
      let q := s.fresh
      let x : Submission := ⟨.thread c.tid d.toNat, c.pre.pos.pkg, c.pre.part, readRecord s c.pre (c.g a) 2, none, false⟩
      let s := park c.tid .answer (s.tick.updThread c.tid (·.owe d.toNat))
      ({ s with subs := s.subs.set q x }).post .launchCheck (.num q) }

/-- FENCE. -/
def execFence (f : BitVec 3) (σ : State) : Host.Outcome State Fault Refusal := issueS (semFence f) σ
/-- TRAP. -/
def execTrap (c : BitVec 12) (σ : State) : Host.Outcome State Fault Refusal := issueS (semTrap c) σ
/-- TIME. -/
def execTime (d : BitVec 6) (σ : State) : Host.Outcome State Fault Refusal := issueS (semTime d) σ
/-- CYC. -/
def execCyc (d : BitVec 6) (σ : State) : Host.Outcome State Fault Refusal := issueS (semCyc d) σ
/-- LAUNCH. -/
def execLaunch (d a : BitVec 6) (σ : State) : Host.Outcome State Fault Refusal := issueS (semLaunch d a) σ
/-- CRD. -/
def execCrd (d : BitVec 6) (n : BitVec 10) (σ : State) : Host.Outcome State Fault Refusal := issueS (semCrd d n) σ
/-- CWR. -/
def execCwr (a : BitVec 6) (n : BitVec 10) (σ : State) : Host.Outcome State Fault Refusal := issueS (semCwr a n) σ
/-- CSWP. -/
def execCswp (d a : BitVec 6) (n : BitVec 10) (σ : State) : Host.Outcome State Fault Refusal := issueS (semCswp d a n) σ
/-- IFENCE. -/
def execIfence (σ : State) : Host.Outcome State Fault Refusal := issueS (semIfence) σ
/-- ERET. -/
def execEret (σ : State) : Host.Outcome State Fault Refusal := issueS (semEret) σ
/-- BRK. -/
def execBrk (σ : State) : Host.Outcome State Fault Refusal := issueS (semBrk) σ
/-- EXIT. -/
def execExit (σ : State) : Host.Outcome State Fault Refusal := issueS (semExit) σ
/-- YIELD. -/
def execYield (σ : State) : Host.Outcome State Fault Refusal := issueS (semYield) σ

end Sys2Proof.Machine
end

