-- ==== Sys2Proof/Machine/Keystone.lean ====
section
/-!
DEFINITION. Machine/Keystone.lean: the Keystone group and the events of a join's home (18 R303 to R315).
-/
namespace Sys2Proof.Machine
open Sys2Proof

/-! ### JOPEN (R293, R294, R304) -/

/-- A word that an instruction reads through the issuer's translation, wherever it lies. -/
def readThrough (s : State) (t : Thread) (va : Nat) : Option Word :=
  match translateNow s t.pos.tileRef (s.cfgOf t).root t.part t.priv va 0 with
  | .ok tg => if reachable t tg then some (s.rdWord tg.ga) else none
  | _ => none

/-- Whether a word that a thread reads has an uncorrectable soft error. -/
def badThrough (s : State) (t : Thread) (va : Nat) : Bool :=
  match translateNow s t.pos.tileRef (s.cfgOf t).root t.part t.priv va 0 with
  | .ok tg => s.bad tg.ga
  | _ => false

/-- The quorum of a descriptor. -/
def quorumOf (d0 d1 : Nat) : Nat := if bitAt d1 12 then max 1 ((bits d0 31 16 * bits d0 15 0 + 65535) / 65536) else bits d0 31 16

/-- Global address of a result word on an FE page of the own package that may be read and written (R294). -/
def resultWord (s : State) (t : Thread) (va : Nat) : Option Nat :=
  match translateNow s t.pos.tileRef (s.cfgOf t).root t.part t.priv va 3 with
  | .ok tg => if tg.aper = 0 ∧ leafFE tg.leaf = true ∧ reachable t tg = true then some tg.ga else none
  | _ => none

/-- Every element of a list of lookups, if all succeed. -/
def allSome {α : Type} : List (Option α) → Option (List α)
  | [] => some []
  | none :: _ => none
  | some x :: xs => (allSome xs).map (x :: ·)

/-- Lowest FREE join slot of a die. -/
def freeJoin (s : State) (d : DieRef) : Option Nat := (List.range 256).find? (fun k => (s.join d k).state == .free)

/-- JOPEN's checks and effect (R304): the state after it and the value of gd. -/
def openJoin (s : State) (t : Thread) (ga : Word) : State × Word :=
  let a := ga.toNat
  if a % 8 ≠ 0 then (s, refusalWord 16)
  else match allSome ((List.range 4).map (fun k => readThrough s t ((a + 8 * k) % 2 ^ 64))) with
  | none => (s, refusalWord 17)
  | some ws =>
    let d0 := (ws.getD 0 0).toNat
    let d1 := (ws.getD 1 0).toNat
    let res := (ws.getD 2 0).toNat
    let n := bits d0 15 0
    let kf := bits d0 31 16
    let wtot := bits d0 63 32
    let len := bits d1 7 0
    let ty := bits d1 9 8
    let fill := bits d1 11 10
    let q := quorumOf d0 d1
    let m := joinWords ty len
    if (List.range 4).any (fun k => badThrough s t ((a + 8 * k) % 2 ^ 64)) then (s, refusalWord 18)
    else if bits d1 63 13 ≠ 0 ∨ ws.getD 3 0 ≠ 0 then (s, refusalWord 19)
    else if n = 0 ∨ kf = 0 ∨ (bitAt d1 12 = false ∧ n < kf) then (s, refusalWord 20)
    else if wtot = 0 ∨ n * 65535 < wtot then (s, refusalWord 21)
    else if len = 0 ∨ 64 < len ∨ (fill = 3 ∧ q ≠ 1) then (s, refusalWord 22)
    else match (if res % 8 ≠ 0 then none else allSome ((List.range m).map (fun k => resultWord s t ((res + 8 * k) % 2 ^ 64)))) with
    | none => (s, refusalWord 23)
    | some areas =>
      match (if fill = 2 then allSome ((List.range m).map (fun k =>
          if badThrough s t ((res + 8 * (m + k)) % 2 ^ 64) then none else readThrough s t ((res + 8 * (m + k)) % 2 ^ 64))) else some []) with
      | none => (s, refusalWord 24)
      | some sub =>
        let die : DieRef := ⟨t.pos.pkg, t.pos.die⟩
        match freeJoin s die with
        | none => (s, refusalWord 25)
        | some k =>
          let old := (s.join die k).gen
          let gen := if old = 4095 then 1 else old + 1
          let s := s.updJoin die k (fun _ => { Join.init with
            state := .opened
            gen := gen
            part := t.part
            n := n
            k := q
            wtot := wtot
            ty := ty
            len := len
            fill := fill
            res := areas
            subst := if fill = 2 then (List.range len).map (packedElem ty sub) else []
            acc := List.replicate len (joinZero ty) })
          let s := areas.foldl (fun s a => setFe (a / 8) false s) s
          (s, joinHandle ⟨die.pkg, die.die, k, gen⟩)

/-! ### Requests to the home -/

/-- Sends a request to a join's home and parks (R303). -/
def askHome (c : Ctx) (d : Nat) (j : JoinRef) (op : KeyOp) (i : Instr) (s : State) : State :=
  let q := s.fresh
  let s := park c.tid .answer (s.tick.updThread c.tid (·.owe d))
  ({ s with keyReqs := s.keyReqs.set q ⟨c.tid, c.pre.part, d, j, op⟩ }).post i (.num q)

/-- The package of a word that a thread reads, if it is a peer's. -/
def peerOf (s : State) (t : Thread) (va : Nat) : Option Nat :=
  match translateNow s t.pos.tileRef (s.cfgOf t).root t.part t.priv va 0 with
  | .ok tg => if tg.aper = 1 then some tg.pkg else none
  | _ => none

/-- The words that JOPEN reads, its descriptor's and its substitute's (R304). -/
def openWords (s : State) (t : Thread) (ga : Word) : List Nat :=
  let w := fun k => (readThrough s t ((ga.toNat + 8 * k) % 2 ^ 64)).getD 0
  let m := joinWords (bits (w 1).toNat 9 8) (bits (w 1).toNat 7 0)
  let sub := if bits (w 1).toNat 11 10 = 2 then (List.range m).map (fun k => ((w 2).toNat + 8 * (m + k)) % 2 ^ 64) else []
  (List.range 4).map (fun k => (ga.toNat + 8 * k) % 2 ^ 64) ++ sub

/-- The other packages on which they lie. -/
def openPeers (s : State) (t : Thread) (ga : Word) : List Nat := ((openWords s t ga).filterMap (peerOf s t)).eraseDups

/-- JOPEN parks for the reads of its descriptor: a round trip when it lies on another package (R304, R351). -/
def semJopen (d a : BitVec 6) : Sem :=
  { srcs := [a], wg := [d.toNat]
    run := fun c s =>
      match (if (c.g a).toNat % 8 = 0 then openPeers s c.pre (c.g a) else []) with
      | p :: _ => askHome c d.toNat ⟨p, 0, 0, 0⟩ (.openAt (c.g a)) .memoryReply s
      | [] =>
        let x := openJoin s c.pre (c.g a)
        finish c.tid d.toNat x.2 (park c.tid .answer (x.1.updThread c.tid (·.owe d.toNat))) }

def semJbind (d a : BitVec 6) (t : BitVec 1) : Sem :=
  { srcs := [a], wg := [d.toNat], run := fun c s => askHome c d.toNat (joinOfHandle (c.g a)) (.bind (t == 1)) .joinBindRequest s }

def semJwait (d a : BitVec 6) (w : BitVec 1) : Sem :=
  { srcs := [a], wg := [d.toNat], run := fun c s => askHome c d.toNat (joinOfHandle (c.g a)) (.wait (w == 1)) .joinWaitRequest s }

def semJclose (d a : BitVec 6) : Sem :=
  { srcs := [a], wg := [d.toNat], run := fun c s => askHome c d.toNat (joinOfHandle (c.g a)) .close .joinCloseRequest s }

def semJqry (d a : BitVec 6) : Sem :=
  { srcs := [a], wg := [d.toNat], run := fun c s => askHome c d.toNat (joinOfHandle (c.g a)) .query .joinQuery s }

/-- Elements of a contribution (R298): from a g register's value, or from the lanes of a v register. -/
def contribution (ty len : Nat) (g : Option Word) (lanes : List Lane) : List Nat :=
  (List.range len).map (fun e =>
    match g with
    | some v => if ty = 2 then (if e = 0 then v.toNat else 0) else (if e < 2 then v.toNat / 2 ^ (32 * e) % 2 ^ 32 else 0)
    | none =>
      let l := fun i => (lanes.getD i 0).toNat
      if ty = 2 then l (2 * e) + 2 ^ 32 * l (2 * e + 1) else l e)

/-- JARR, JARR.V (R298, R306). -/
def semJarr (d a b : BitVec 6) (v : BitVec 1) : Sem :=
  { srcs := if v = 1 then [b] else [a, b], wg := [d.toNat]
    check := fun c s => firstVerdict [if v = 1 ∧ c.pre.vlen = 0 then .fault 5 cVNOCLAIM 0 0 else .ok, drainCheck c s]
    run := fun c s =>
      match c.pre.join with
      | none => regWrite c.tid d.toNat (refusalWord 6) s
      | some j =>
        let x := joinAt s j
        let w := bits (c.g b).toNat 15 0
        let xs := contribution x.ty x.len (if v = 1 then none else some (c.g a)) (c.v (a.toNat % 32))
        askHome c d.toNat j (.arrive xs (if w = 0 then 1 else w)) .joinArrival s }

/-! ### Holding off kills (R313) -/

def semKhold : Sem :=
  { run := fun c s => s.updThread c.tid (fun t =>
      if t.khold then t else { t with tstat := putBits t.tstat 14 14 1, holdCount := 0 }) }

def semKlet : Sem :=
  { run := fun c s => killBoundary c.tid (boundary c.tid (s.updThread c.tid (fun t =>
      { t with tstat := putBits t.tstat 14 14 0, holdCount := 0 }))) }

/-! ### Events of the home -/

/-- Whether a request can reach its join's home (R350): one without a route waits. -/
def keyRouted (s : State) (r : KeyReq) : Bool :=
  match s.thread? r.tid with
  | none => true
  | some t => routed s t.pos.pkg r.part t.launch r.join.pkg

/-- JOPEN's reads on other packages have been answered (R304); they wait while one of the packages has no route (R350). -/
def openArrive (q : Nat) (r : KeyReq) (ga : Word) (s : State) : State :=
  match s.thread? r.tid with
  | none => s
  | some t =>
    if (openPeers s t ga).all (fun p => routed s t.pos.pkg r.part t.launch p) then
      let x := openJoin { s with keyReqs := s.keyReqs.del q } t ga
      finish r.tid r.d x.2 x.1
    else s

/-- Takes a request off its way. -/
def onKeyReq (s : State) (f : KeyReq → State → State) : Host.Outcome State Fault Refusal :=
  match s.obj with
  | .num q => match s.keyReqs.get? q with
    | some r => .next (if keyRouted s r then f r { s with keyReqs := s.keyReqs.del q } else s)
    | none => .next s
  | _ => .next s

/-- JBIND at the home (R302, R305). -/
def homeBind (r : KeyReq) (tent : Bool) (s : State) : State :=
  match s.thread? r.tid with
  | none => s
  | some t =>
    let x := joinAt s r.join
    let no := fun k => finish r.tid r.d (refusalWord k) s
    if joinLive s r.join r.part = false then no 1
    else if x.state ≠ .opened then no 2
    else if x.n ≤ x.binds then no 3
    else if t.join.isSome then no 4
    else if 16384 ≤ dirUsed s (homeOf r.join) then no 5
    else
      let s := s.updJoin (homeOf r.join) r.join.slot (fun x => { x with binds := x.binds + 1, bound := x.bound ++ [r.tid] })
      finish r.tid r.d (joinStatus (joinAt s r.join)) (becomeMember r.tid r.join tent s)

/-- A late arrival or departure (R302, R310); a member that is halted or being swapped out takes its kill when that ends (R148). -/
def homeLate (r : KeyReq) (exit : Bool) (s : State) : State :=
  match s.thread? r.tid with
  | none => s
  | some t =>
    if !exit && (t.khold || t.priv == 2) then finish r.tid r.d (refusalWord 7) s
    else if atKillPoint s r.tid t then takeKill r.tid s
    else s.updThread r.tid (fun t => { t with kill := .held })

/-- JARR at the home (R306). -/
def homeArrive (r : KeyReq) (xs : List Nat) (w : Nat) (s : State) : State :=
  let x := joinAt s r.join
  if x.state = .opened ∧ x.bound.contains r.tid then
    let d := (homeOf r.join)
    let k := r.join.slot
    let s := s.updJoin d k (fun x => { x.count xs w with bound := x.bound.erase r.tid })
    let s := endMember r.tid s
    let s := if (s.join d k).arrived = x.k then releaseJoin d k s else s
    finish r.tid r.d (joinStatus (s.join d k)) s
  else homeLate r false s

/-- JWAIT at the home (R307). -/
def homeWait (r : KeyReq) (set : Bool) (s : State) : State :=
  let x := joinAt s r.join
  if joinLive s r.join r.part = false then finish r.tid r.d (refusalWord 1) s
  else if x.state = .settled ∨ (x.state = .released ∧ set = false) then finish r.tid r.d (joinStatus x) s
  else match s.thread? r.tid with
    | none => s
    | some _ =>
      let s := s.updThread r.tid (fun t => { t with wait := some (.joinWait r.d r.join set) })
      s.updJoin (homeOf r.join) r.join.slot (fun x => { x with waiters := x.waiters ++ [(r.tid, r.d, set)] })

/-- JCLOSE at the home (R295, R308). -/
def homeClose (r : KeyReq) (s : State) : State :=
  if joinLive s r.join r.part = false then finish r.tid r.d (refusalWord 1) s
  else
    let d := homeOf r.join
    let k := r.join.slot
    let s := s.updJoin d k (fun x => { x with close := true })
    let s := if (s.join d k).state = .opened then releaseJoin d k s else s
    let x := s.join d k
    let s := freeClosed d k s
    finish r.tid r.d (joinStatus { x with state := (s.join d k).state }) s

/-- A member's EXIT at the home (R295, R312). -/
def homeDepart (r : KeyReq) (s : State) : State :=
  let x := joinAt s r.join
  if x.state = .opened ∧ x.bound.contains r.tid then
    let d := (homeOf r.join)
    let k := r.join.slot
    let s := s.updJoin d k (fun x => { x with bound := x.bound.erase r.tid, departed := x.departed + 1 })
    let s := if x.n - (x.departed + 1) < x.k then releaseJoin d k s else s
    exitThread r.tid (s.updThread r.tid (fun t => { t with join := none }))
  else homeLate r true s

/-- JOIN_BIND_REQUEST (R305). -/
def execJoinBindRequest (s : State) : Host.Outcome State Fault Refusal :=
  onKeyReq s (fun r s => match r.op with | .bind t => homeBind r t s | _ => s)

/-- JOIN_ARRIVAL (R306). -/
def execJoinArrival (s : State) : Host.Outcome State Fault Refusal :=
  onKeyReq s (fun r s => match r.op with | .arrive xs w => homeArrive r xs w s | _ => s)

/-- JOIN_WAIT_REQUEST (R307). -/
def execJoinWaitRequest (s : State) : Host.Outcome State Fault Refusal :=
  onKeyReq s (fun r s => match r.op with | .wait set => homeWait r set s | _ => s)

/-- JOIN_CLOSE_REQUEST (R308). -/
def execJoinCloseRequest (s : State) : Host.Outcome State Fault Refusal :=
  onKeyReq s (fun r s => match r.op with | .close => homeClose r s | _ => s)

/-- JOIN_QUERY (R309). -/
def execJoinQuery (s : State) : Host.Outcome State Fault Refusal :=
  onKeyReq s (fun r s => match r.op with
    | .query => finish r.tid r.d (if joinLive s r.join r.part then joinStatus (joinAt s r.join) else refusalWord 1) s
    | _ => s)

/-- JOIN_DEPARTURE (R312). -/
def execJoinDeparture (s : State) : Host.Outcome State Fault Refusal :=
  onKeyReq s (fun r s => match r.op with | .depart => homeDepart r s | _ => s)

/-! ### Kills (R310, R311, R314) -/

/-- The tile at which a place is looked for: one in flight is at the stub of the tile it has left (R359). -/
def placeTile : Place → TileRef
  | .slot p => p.tileRef
  | .image h _ => h
  | .flight src _ => src.tileRef

/-- The newest live stub of an endpoint at a tile (R359). -/
def stubAt (s : State) (tl : TileRef) (e : BitVec 32) : Option Stub :=
  ((s.tile tl).stubs.filter (fun x => x.epid == e && s.now tl.pkg < x.until_)).getLast?

/-- A kill goes on its way. -/
def moveKill (tid : Nat) (k : Kill) (s : State) : State := (s.updThread tid (fun t => { t with kill := k })).post .killDelivery (.thread tid)

/-- A kill has come to a tile (R310): its member is there, or it follows the stub, or goes back to its unit, as a SEND does (R359). -/
def killAt (tid : Nat) (t : Thread) (tl : TileRef) (hops : Nat) (s : State) : State :=
  if placeTile t.place = tl then (s.updThread tid (fun t => { t with kill := .held })).post .killTaken (.thread tid)
  else match stubAt s tl t.epid with
    | some x => moveKill tid (if hops < 4 then .sent tl.pkg x.dest.tileRef (hops + 1) else .back tl.pkg) s
    | none => moveKill tid (.back tl.pkg) s

/-- KILL_DELIVERY (R310, R359): the kill goes to the home of its member's endpoint and from there through the stubs; each way waits for a
route (R350, R351). One that has come back takes the position that the home's directory holds. A parked member takes the kill at once,
one that issues at its next bundle boundary. -/
def execKillDelivery (s : State) : Host.Outcome State Fault Refusal :=
  onThread s (fun tid t =>
    let unit := (t.join.map (·.pkg)).getD t.pos.pkg
    let way := fun (a b : Nat) => routed s a t.part t.launch b
    match t.kill with
    | .sent a tl n => if way a tl.pkg then killAt tid t tl n s else s
    | .back a =>
      let home := epidHome t.epid
      if way a unit && way unit home.pkg then
        (match (s.tile home).dir.get? t.epid with
         | some p => moveKill tid (.sent unit (placeTile p) 0) s
         | none => s)
      else s
    | _ => s)

/-- KILL_TAKEN (R311): not before the thread's accesses and its MMA have completed, nor while the kill is held (R148). -/
def execKillTaken (s : State) : Host.Outcome State Fault Refusal :=
  onThread s (fun tid t => if t.kill = .held ∧ killable s tid t = true then takeKill tid s else s)

/-- RETRACTION_END (R295, R311 step 5): the killed thread has retired, its log replayed. -/
def execRetractionEnd (s : State) : Host.Outcome State Fault Refusal :=
  match s.obj with
  | .member j tid =>
    .next (if (s.thread? tid).isNone ∧ (joinAt s j).gen = j.gen ∧ (joinAt s j).killed.contains tid then
      freeClosed (homeOf j) j.slot (settleJoin (homeOf j) j.slot
        (s.updJoin (homeOf j) j.slot (fun x => { x with killed := x.killed.erase tid }))) else s)
  | _ => .next s

/-- KHOLDLONG (R314): before the fetch of the 513th bundle of a hold, a held kill, or the fault with the count restarted. -/
def execKholdlong (s : State) : Host.Outcome State Fault Refusal :=
  onThread s (fun tid t =>
    if t.khold = false ∨ t.holdCount < 512 ∨ t.status ≠ .ready then s
    else if t.kill = .held ∧ t.priv ≠ 2 then
      let s := s.updThread tid (fun t => { t with tstat := putBits t.tstat 14 14 0, holdCount := 0 })
      match s.thread? tid with
      | some t => if killable s tid t then takeKill tid s else s
      | none => s
    else takeTrap tid cKHOLDLONG 0 0 t.pc (s.updThread tid (fun t => { t with holdCount := 0 })))

/-- JOPEN. -/
def execJopen (d a : BitVec 6) (σ : State) : Host.Outcome State Fault Refusal := issueS (semJopen d a) σ
/-- JBIND. -/
def execJbind (d a : BitVec 6) (t : BitVec 1) (σ : State) : Host.Outcome State Fault Refusal := issueS (semJbind d a t) σ
/-- JARR. -/
def execJarr (d a b : BitVec 6) (v : BitVec 1) (σ : State) : Host.Outcome State Fault Refusal := issueS (semJarr d a b v) σ
/-- JWAIT. -/
def execJwait (d a : BitVec 6) (s : BitVec 1) (σ : State) : Host.Outcome State Fault Refusal := issueS (semJwait d a s) σ
/-- JCLOSE. -/
def execJclose (d a : BitVec 6) (σ : State) : Host.Outcome State Fault Refusal := issueS (semJclose d a) σ
/-- JQRY. -/
def execJqry (d a : BitVec 6) (σ : State) : Host.Outcome State Fault Refusal := issueS (semJqry d a) σ
/-- KHOLD. -/
def execKhold (σ : State) : Host.Outcome State Fault Refusal := issueS (semKhold) σ
/-- KLET. -/
def execKlet (σ : State) : Host.Outcome State Fault Refusal := issueS (semKlet) σ

end Sys2Proof.Machine
end

