-- ==== Sys2Proof/Machine/MatrixEngine.lean ====
section
/-!
DEFINITION. Machine/MatrixEngine.lean: the matrix engine of a tile: its queue, the service of MLDA, MMA, MZERO and MSTA, and the
lazy save and the restore of accumulator tiles (15 R257 to R275, 16 R280 to R285).
-/
namespace Sys2Proof.Machine
open Sys2Proof

/-! ### Formats (R259, R268) -/

/-- Elements of a slot row in a format. -/
def fmtK (code : Nat) : Nat := 1024 / (copyKind code).bits

/-- Family of a slot format: 0 integer, 1 narrow float, 2 complex, 3 single. -/
def fmtFamily (code : Nat) : Nat := if code ≤ 1 then 0 else if code ≤ 7 then 1 else if code ≤ 9 then 2 else 3

/-- TYPE of the accumulator tiles of a family: F32 0, I32 1, C32 2. -/
def familyType (f : Nat) : Nat := if f = 0 then 1 else if f = 2 then 2 else 0

/-- Whether two slot formats and a tile's type fit an MMA (R268, R282). -/
def mmaFits (fa fb ty : Nat) (cj : Bool) : Bool :=
  fmtFamily fa == fmtFamily fb && (ty == familyType (fmtFamily fa) && (!cj || fmtFamily fa == 2))

/-! ### Arithmetic (R269 to R272) -/

/-- The first `n` entries of a list, missing ones at `d`. -/
def padTo {α : Type} (d : α) (n : Nat) (l : List α) : List α := (l ++ List.replicate (n - l.length) d).take n

/-- Codes of the first `k` elements of a slot row. -/
def OpSlot.row (x : OpSlot) (r k : Nat) : List Nat := padTo 0 k (x.rows.getD r [])

/-- A float element: a finite one as a magnitude in units of 2⁻¹⁶⁰. -/
inductive MatEl where
  | nan
  | inf (neg : Bool)
  | fin (neg : Bool) (z : Nat)
deriving DecidableEq, Repr

/-- A value in units of 2^-k; exact for the values of the formats here. -/
def fixMag (k : Nat) : Xr → Nat
  | .fin _ n d => n * 2 ^ k / d
  | .inf _ => 0

def matEl : FpVal → MatEl
  | .nan .. => .nan
  | .num (.inf n) => .inf n
  | .num x => .fin x.isNeg (fixMag 160 x)

/-- Float elements of a slot row with their block scales (R167, R171). -/
def OpSlot.floats (x : OpSlot) (r k : Nat) : List MatEl :=
  let sc := x.scales.getD r []
  (x.row r k).zipIdx.map (fun (c, i) => matEl (copyValue (copyKind x.fmt) (sc.getD (i / 32) 0x7F) c))

/-- A sum of products: the exact finite part in units of 2⁻³²⁰, what R180 asks, and whether every product is −0. -/
structure MatSum where
  sum : Int
  nan : Bool
  pinf : Bool
  ninf : Bool
  negz : Bool
deriving DecidableEq, Repr

def MatSum.step (m : MatSum) (a b : MatEl) : MatSum :=
  match a, b with
  | .nan, _ => { m with nan := true }
  | _, .nan => { m with nan := true }
  | .fin s x, .fin t y =>
    { m with sum := m.sum + (if s = t then (x * y : Int) else -(x * y : Int)), negz := m.negz && (x * y == 0 && s != t) }
  | .fin s x, .inf t => if x = 0 then { m with nan := true } else if s = t then { m with pinf := true } else { m with ninf := true }
  | .inf s, .fin t y => if y = 0 then { m with nan := true } else if s = t then { m with pinf := true } else { m with ninf := true }
  | .inf s, .inf t => if s = t then { m with pinf := true } else { m with ninf := true }

def matDot : List MatEl → List MatEl → MatSum → MatSum
  | a :: as, b :: bs, m => matDot as bs (m.step a b)
  | _, _, m => m

/-- `finish` for F32 (R270): the new element and the MSTAT bits. -/
def finishF32 (c : Nat) (m : MatSum) : Nat × Nat :=
  let v := fp32.decode c
  let pinf := m.pinf || v == .num (.inf false)
  let ninf := m.ninf || v == .num (.inf true)
  if m.nan || (v.isNan || (pinf && ninf)) then (0x7FC00000, mstatBits false true false false false)
  else if pinf then (0x7F800000, 0)
  else if ninf then (0xFF800000, 0)
  else
    let mag := (fixMag 320 v.xr : Int)
    let t := m.sum + (if v.xr.isNeg then -mag else mag)
    if t = 0 then ((if c = 0x80000000 ∧ m.negz = true then c else 0), 0)
    else
      let x := fp32.roundFin 0 false (t < 0) t.natAbs (2 ^ 320) false
      (x.1, mstatBits false false x.2.of x.2.nx false)

def intDot : List Int → List Int → Int
  | a :: as, b :: bs => a * b + intDot as bs
  | _, _ => 0

/-- Saturated sum of a 32-bit element and an exact total (R271). -/
def satAdd32 (c : Nat) (t : Int) : Nat × Bool :=
  let z := sgn 32 c + t
  (wrapN 32 (satInt z (sMin 32) (sMax 32)), z < sMin 32 || sMax 32 < z)

def finishI32 (c : Nat) (t : Int) : Nat × Nat :=
  let x := satAdd32 c t
  (x.1, mstatBits x.2 false false false false)

def cpxDot (cj : Bool) : List (Int × Int) → List (Int × Int) → Int × Int
  | a :: as, b :: bs =>
    let p := cmul a (if cj then (b.1, -b.2) else b)
    let r := cpxDot cj as bs
    (p.1 + r.1, p.2 + r.2)
  | _, _ => (0, 0)

def finishC32 (c : Nat) (t : Int × Int) : Nat × Nat :=
  let x := satAdd32 (c % 2 ^ 32) t.1
  let y := satAdd32 (c / 2 ^ 32) t.2
  (x.1 + 2 ^ 32 * y.1, mstatBits (x.2 || y.2) false false false false)

/-- Elements of a tile after an MMA with slots `a` and `b`, in row order, with the MSTAT bits (R269). -/
def mmaElems (x : AccTile) (a b : OpSlot) (cj : Bool) : List (Nat × Nat) :=
  let k := min (fmtK a.fmt) (fmtK b.fmt)
  let ra := List.range x.rows
  let rb := List.range x.cols
  let cells := fun {α β : Type} (as bs : List (List α)) (dot : List α → List α → β) (fin : Nat → β → Nat × Nat) =>
    List.zipWith fin x.data (as.flatMap (fun u => bs.map (dot u)))
  match fmtFamily a.fmt with
  | 0 =>
    let ints := fun (s : OpSlot) r => (s.row r k).map (sgn (copyKind s.fmt).bits)
    cells (ra.map (ints a)) (rb.map (ints b)) intDot finishI32
  | 2 =>
    let cs := fun (s : OpSlot) r => (s.row r k).map (cElem ((copyKind s.fmt).bits / 2))
    cells (ra.map (cs a)) (rb.map (cs b)) (cpxDot cj) finishC32
  | _ =>
    cells (ra.map (fun r => a.floats r k)) (rb.map (fun r => b.floats r k))
      (fun u v => matDot u v ⟨0, false, false, false, true⟩) finishF32

/-! ### The queue (R265, R266) -/

/-- Puts an entry in the queue; its thread's place in the line for entries is used up. -/
def matEnqueue (tl : TileRef) (e : MatEntry) (s : State) : State :=
  let empty := (s.tile tl).matQ.isEmpty
  let s := s.updTile tl (fun x => { x with
    matQ := x.matQ ++ [e], matReserved := x.matReserved.filter (· != e.tid), matFull := x.matFull.filter (· != e.tid) })
  if empty then kickMatrix tl s else s

/-- The oldest entry completes: releases that waited for it take effect (R260, R262), its place is reserved for the bundle that found
the queue full first (R266), and the next entry comes into service. -/
def matDone (tl : TileRef) (e : MatEntry) (s : State) : State :=
  let s := s.updTile tl (fun x => { x with
    matQ := x.matQ.tail, matFull := x.matFull.tail, matReserved := x.matReserved ++ x.matFull.take 1 })
  let s := ((List.range 24).filter (fun k => e.op.usesSlot k)).foldl (fun s k => settleSlot tl k s) s
  let s := ((List.range 8).filter (fun k => e.op.usesAcc k)).foldl (fun s k => settleAcc tl k s) s
  settleLinger e.tid (kickMatrix tl (pokeRestore tl s))

/-- The entry in service on a tile. -/
def matHead (s : State) (tl : TileRef) : Option MatEntry := (s.tile tl).matQ.head?

/-- The issuer of an MLDA or MMA goes on, with a status if it is owed one. -/
def matReady (e : MatEntry) (d : Nat) (v : Word) (s : State) : State :=
  match s.thread? e.tid with
  | none => s
  | some t => if t.wait = some (.matrix e.id) then finish e.tid d v s else regWrite e.tid d v s

/-- Status word of R281. -/
def matStatus (err count : Nat) : Word := word (2 * 2 ^ 62 + err * 2 ^ 48 + count)

/-! ### Elements in the scratchpad (R280, R285) -/

/-- Where an entry's access lands in its tile's scratchpad, or the ERR that ends the entry. -/
def matXlate (s : State) (tl : TileRef) (e : MatEntry) (va kind : Nat) : Except Nat Nat :=
  let pr := ((s.thread? e.tid).map (·.priv)).getD e.priv
  match translateNow s tl (s.cfg tl.pkg e.part e.launch).root e.part pr va kind with
  | .miss => .error 1
  | .fault c => .error (if c = cXLATE then 1 else 2)
  | .ok tg =>
    if tg.aper != 0 || regionOf tg.pa != .scratch tl.die tl.tile then .error 2
    else if inRange s e.part tg then .error 6
    else if kind = 0 ∧ s.bad tg.ga = true then .error 5
    else .ok tg.ga

/-- `n` bits at bit `sh` of the byte at `a`. -/
def bitsAt (s : State) (a sh n : Nat) : Nat := s.rd a (max 1 (n / 8)) / 2 ^ sh % 2 ^ n

/-- Writes `n` bits at bit `sh` of the byte at `a`, its word as one engine write (R134). -/
def putBitsAt (a sh n v : Nat) (s : State) : State :=
  let w := a / 8
  let k := a % 8 * 8 + sh
  let old := s.rd (8 * w) 8
  dropTlb w (storeAt (8 * w) 8 ((old &&& (2 ^ 64 - 1 - (2 ^ n - 1) * 2 ^ k)) ||| (v % 2 ^ n * 2 ^ k)) s)

/-- First element of a unit with an access that fails, with its ERR; a failing scale byte counts for the element it is reached at. A write
narrower than its word reads the word, and an uncorrectable soft error there fails it (R142, R285; log 64). -/
def matUnitFault (s : State) (tl : TileRef) (e : MatEntry) (r : List Word) (x : Side) (kind : Nat) (ns : List Nat) : Option (Nat × Nat) :=
  let bad := fun va n => match matXlate s tl e va kind with
    | .error c => some c
    | .ok ga => if kind = 1 ∧ n < 64 ∧ s.bad ga = true then some 5 else none
  ns.findSome? (fun n =>
    ((bad (elemAddr r x n).1 x.kind.bits).or (if x.kind.isMx then bad (scaleAddr r x n) 8 else none)).map (fun c => (n, c)))

/-- Global address behind an access whose check passed. -/
def matGa (s : State) (tl : TileRef) (e : MatEntry) (va kind : Nat) : Nat :=
  match matXlate s tl e va kind with
  | .ok a => a
  | .error _ => 0

/-! ### MLDA (R280) -/

/-- One unit of an MLDA: scale, codes and flags. -/
def loadUnit (s : State) (tl : TileRef) (e : MatEntry) (r : List Word) (src : Side) (n0 : Nat) (ns : List Nat) : Nat × List Nat × Flags :=
  let code := fun n =>
    let a := elemAddr r src n
    bitsAt s (matGa s tl e a.1 0) a.2 src.kind.bits
  let scl := fun n => if src.kind.isMx then bitsAt s (matGa s tl e (scaleAddr r src n) 0) 0 8 else 127
  match copyKind (recDfmt r) with
  | .mx d =>
    if src.kind = .mx d then (scl n0, ns.map code, noFlags)
    else mxBlock d (ns.map (fun n => copyValue src.kind (scl n) (code n)))
  | d =>
    let x := copyConvert src.kind d (scl n0) (code n0)
    (127, [x.1], x.2)

/-- The units of an MLDA or MSTA: the first element of each. -/
def unitStarts (r : List Word) : List Nat :=
  if (copyKind (recDfmt r)).isMx then (List.range (recTotal r / 32)).map (32 * ·) else List.range (recTotal r)

/-- What an MLDA has gathered: codes, scales (both in element order), flags, and the element that stopped it with its ERR. -/
structure Loaded where
  codes : List Nat
  scales : List Nat
  flags : Flags
  stop : Option (Nat × Nat)

def loadAll (s : State) (tl : TileRef) (e : MatEntry) (r : List Word) (src : Side) : Loaded :=
  let x := (unitStarts r).foldl (fun (x : Loaded) n =>
    if x.stop.isSome then x
    else
      let ns := unitOf r n
      match matUnitFault s tl e r src 0 ns with
      | some b => { x with stop := some b }
      | none =>
        let u := loadUnit s tl e r src n ns
        { x with codes := u.2.1.reverse ++ x.codes, scales := u.1 :: x.scales, flags := x.flags.or u.2.2 }) ⟨[], [], noFlags, none⟩
  { x with codes := x.codes.reverse, scales := x.scales.reverse }

/-- Rows of `n` entries. -/
def chunks (n : Nat) : Nat → List Nat → List (List Nat)
  | 0, _ => []
  | k + 1, l => l.take n :: chunks n k (l.drop n)

/-- Whether a record fits a slot (R280). -/
def mldaShape (r : List Word) : Bool :=
  recSize r 2 == 1 && (recSize r 3 == 1 && (1 ≤ recSize r 1 && (recSize r 1 ≤ 64 && (recDfmt r ≤ 10 &&
    (1 ≤ recSize r 0 && recSize r 0 ≤ fmtK (recDfmt r))))))

/-- MSTAT bits of conversion flags (R183). -/
def convBits (f : Flags) : Word := word (mstatBits false f.nv f.of f.nx false)

/-- An MLDA is served (R280, R281). -/
def serveMlda (tl : TileRef) (e : MatEntry) (k : Nat) (src : Word) (r : List Word) (d : Nat) (s : State) : State :=
  let fits := mldaShape r
  let l := if fits then loadAll s tl e r (srcSide r src) else ⟨[], [], noFlags, none⟩
  let (err, count) := if !fits then (9, 0) else match l.stop with
    | some (n, c) => (c, n)
    | none => (0, recTotal r)
  let s := setSlot tl k (fun x =>
    if err = 0 then { x with
      state := .loaded
      fmt := recDfmt r
      rows := chunks (recSize r 0) (recSize r 1) l.codes
      scales := if (copyKind (recDfmt r)).isMx then chunks (recSize r 0 / 32) (recSize r 1) l.scales else [] }
    else { x with state := .claimed, fmt := 0, rows := [], scales := [] }) s
  matDone tl e (matReady e d (matStatus err count) (mergeFlags e.tid true (convBits l.flags) s))

/-! ### MMA (R282), MZERO (R284) -/

/-- An MMA completes: the tile takes the product, or SKIP is set (R282). -/
def serveMma (tl : TileRef) (e : MatEntry) (a b t : Nat) (cj : Bool) (s : State) : State :=
  let x := accOf s tl t
  let sa := slotOf s tl a
  let sb := slotOf s tl b
  let s :=
    if sa.state = .loaded ∧ sb.state = .loaded ∧ mmaFits sa.fmt sb.fmt x.ty cj = true then
      let es := mmaElems x sa sb cj
      mergeFlags e.tid true (word (es.foldl (fun f y => f ||| y.2) 0)) (setAcc tl t (fun x => { x with data := es.map (·.1) }) s)
    else mergeFlags e.tid true (word (mstatBits false false false false true)) s
  let s := match s.thread? e.tid with
    | some th => if th.wait = some (.matrix e.id) then killBoundary e.tid (wake e.tid s) else s
    | none => s
  matDone tl e s

/-- A tile of zeros. -/
def zeroTile (rows cols : Nat) : List Nat := List.replicate (rows * cols) 0

def serveMzero (tl : TileRef) (e : MatEntry) (t : Nat) (s : State) : State :=
  matDone tl e (setAcc tl t (fun x => { x with data := zeroTile x.rows x.cols }) s)

/-! ### MSTA (R285) -/

/-- Whether a record's two sides are C32 elements of 8 bytes. -/
def bothC32 (r : List Word) : Bool := recSfmt r == 12 && recDfmt r == 12

/-- The destination side of an MSTA. -/
def mstaSide (r : List Word) (base : Word) : Side :=
  let x := dstSide r base
  if bothC32 r then { x with kind := .cpx 32 } else x

/-- Alignment of MSTA's destination base. -/
def mstaAlign (r : List Word) : Nat := if bothC32 r then 8 else fmtAlign (recDfmt r)

/-- Whether a record fits a tile (R285). -/
def mstaShape (x : AccTile) (r : List Word) : Bool :=
  recSize r 2 == 1 && (recSize r 3 == 1 && (recSize r 1 ≤ x.rows && (recSize r 0 ≤ x.cols && (recSfmt r == 10 + x.ty &&
    (!bothC32 r || (recDstr r).getD 0 0 % 8 == 0)))))

/-- Kind of an accumulator element (R261). -/
def accKind (ty : Nat) : CopyKind := if ty = 0 then .float fp32 else if ty = 1 then .int 32 else .cpx 32

/-- Element `n` of the record in the tile: (i1, i0). -/
def mstaElem (x : AccTile) (r : List Word) (n : Nat) : Nat := x.data.getD (recIndex r n 1 * x.cols + recIndex r n 0) 0

/-- Stores one unit: the state after it and the flags. -/
def storeUnit (tl : TileRef) (e : MatEntry) (x : AccTile) (r : List Word) (dst : Side) (n0 : Nat) (ns : List Nat) (s : State) : State × Flags :=
  let at_ := fun (n v : Nat) s =>
    let a := elemAddr r dst n
    putBitsAt (matGa s tl e a.1 1) a.2 dst.kind.bits v s
  match dst.kind with
  | .mx d =>
    let b := mxBlock d (ns.map (fun n => copyValue (accKind x.ty) 127 (mstaElem x r n)))
    let s := (ns.zip b.2.1).foldl (fun s y => at_ y.1 y.2 s) s
    (putBitsAt (matGa s tl e (scaleAddr r dst n0) 1) 0 8 b.1 s, b.2.2)
  | d =>
    let y := copyConvert (accKind x.ty) d 127 (mstaElem x r n0)
    (at_ n0 y.1 s, y.2)

/-- Stores units up to the first that fails: the state, the flags, and the element that stopped it with its ERR. -/
def storeUnits (tl : TileRef) (e : MatEntry) (x : AccTile) (r : List Word) (dst : Side) : List Nat → Flags → State → State × Flags × Option (Nat × Nat)
  | [], f, s => (s, f, none)
  | n :: rest, f, s =>
    let ns := unitOf r n
    match matUnitFault s tl e r dst 1 ns with
    | some b => (s, f, some b)
    | none =>
      let u := storeUnit tl e x r dst n ns s
      storeUnits tl e x r dst rest (f.or u.2) u.1

/-- An MSTA is served (R285, R281); one whose status goes to a full queue register waits for room. -/
def serveMsta (tl : TileRef) (e : MatEntry) (t : Nat) (dst : Word) (r : List Word) (d : Nat) (s : State) : State :=
  if (match s.thread? e.tid with | some th => decide (56 ≤ d ∧ d ≤ 59) && queueFull s th d | none => false) then s
  else
    let x := accOf s tl t
    let u := if mstaShape x r then storeUnits tl e x r (mstaSide r dst) (unitStarts r) noFlags s else (s, noFlags, some (0, 9))
    let st := match u.2.2 with
      | some (n, c) => matStatus c n
      | none => matStatus 0 (recTotal r)
    matDone tl e (regWrite e.tid d st (mergeFlags e.tid true (convBits u.2.1) u.1))

/-! ### Configuration, lazy save and restore (R261, R264, R283) -/

/-- 16, 32 or 64 from its code. -/
def sizeOfCode (c : Nat) : Nat := 16 * 2 ^ c
def codeOfSize (n : Nat) : Nat := if n = 16 then 0 else if n = 32 then 1 else 2

/-- Configures a tile for a thread (R283). -/
def configureAcc (tl : TileRef) (k tid : Nat) (crew : CrewRef) (w : Nat) (s : State) : State :=
  let rows := sizeOfCode (bits w 1 0)
  let cols := sizeOfCode (bits w 3 2)
  setAcc tl k (fun _ => ⟨.owned, tid, crew, rows, cols, bits w 5 4, zeroTile rows cols, false, false⟩) s

/-- First byte of the save area of a context image (R264). -/
def saveArea (image : Nat) : Nat := image + 20480

/-- Bytes of an element of a tile. -/
def accBytes (ty : Nat) : Nat := if ty = 2 then 8 else 4

/-- A tile is copied to its owner's save area and is FREE (R264). -/
def saveTile (tl : TileRef) (k : Nat) (s : State) : State :=
  let x := accOf s tl k
  let s := match (s.thread? x.owner).bind (imageOf s) with
    | none => s
    | some b =>
      let a := saveArea b
      let n := accBytes x.ty
      let s := x.data.zipIdx.foldl (fun s (v, i) => storeAt (a + 64 + 16384 * k + n * i) n v s) s
      storeAt (a + 8 * k) 8 (2 ^ 63 + x.ty * 16 + codeOfSize x.rows * 4 + codeOfSize x.cols) s
  pokeRestore tl (setAcc tl k (fun _ => AccTile.init) s)

/-- The lazy save of a tile ends; the MCFG that waits for it configures the tile (R283). -/
def lazySaved (tl : TileRef) (k : Nat) (s : State) : State :=
  let s := saveTile tl k s
  match s.threads.findSome? (fun x => match x.2.wait with
    | some (.lazySave k' d cfg) => if k' = k ∧ x.2.pos.tileRef = tl then some (x.1, x.2.crew, d, cfg) else none
    | _ => none) with
  | none => s
  | some (w, crew, d, cfg) => finish w d 0 (configureAcc tl k w crew cfg s)

/-- Tiles that a context image holds saved (R264). -/
def savedTiles (s : State) (image : Nat) : List Nat := (List.range 8).filter (fun k => bitAt (s.rd (saveArea image + 8 * k) 8) 63)

/-- A saved tile is restored for its thread, and SAVED is cleared. -/
def restoreTile (tl : TileRef) (image tid : Nat) (crew : CrewRef) (k : Nat) (s : State) : State :=
  let a := saveArea image
  let w := s.rd (a + 8 * k) 8
  let rows := sizeOfCode (bits w 3 2)
  let cols := sizeOfCode (bits w 1 0)
  let n := accBytes (bits w 5 4)
  let data := (List.range (rows * cols)).map (fun i => s.rd (a + 64 + 16384 * k + n * i) n)
  storeAt (a + 8 * k) 8 (w % 2 ^ 63) (setAcc tl k (fun _ => ⟨.owned, tid, crew, rows, cols, bits w 5 4, data, false, false⟩) s)

end Sys2Proof.Machine
end

