-- ==== Sys2Proof/Machine/SfuQueue.lean ====
section
/-!
DEFINITION. Machine/SfuQueue.lean: requests to the quad's special-function unit (12 R217, R219, R220).
-/
namespace Sys2Proof.Machine
open Sys2Proof

/-- Puts a request in the queue; the S-slot request of a bundle goes before its V-slot request (R217). -/
def sfuInsert (r : SfuReq) (first : Bool) : List SfuReq → List SfuReq
  | [] => [r]
  | x :: xs => if first && x.tid == r.tid then r :: x :: xs else x :: sfuInsert r first xs

/-- A request enters its quad's queue at issue, and its thread parks (R217): the result is computed from the operands as they stand
(R219) and written on completion. An idle unit begins its service. -/
def sfuRequest (c : Ctx) (res : SfuResult) (f : Flags) (first : Bool) (s : State) : State :=
  let q := c.pre.pos.quadRef
  let x := s.quad q
  let s := s.updQuad q (fun x => { x with queue := sfuInsert ⟨c.tid, res, word (flagBits f), false⟩ first x.queue })
  let s := s.updThread c.tid (fun t => { t with sfuLeft := t.sfuLeft + 1 })
  let s := park c.tid .sfu s
  if x.serving.isNone && x.queue.isEmpty then s.post .sfuServiceStart (.quad q) else s

/-- A scalar request: its destination is empty until the result is written (R13, R217). -/
def sfuScalar (c : Ctx) (d : Nat) (v : Word) (f : Flags) (s : State) : State :=
  sfuRequest c (.scalar d v) f true (s.updThread c.tid (·.owe d))

/-- Whether a quad's tile is gated: its unit stands still (R22, R326). -/
def quadGated (s : State) (q : QuadRef) : Bool := (s.tile ⟨q.pkg, q.die, q.tile⟩).point.isNone

/-- The head of the queue enters service, if the unit is idle (R217). -/
def sfuBegin (q : QuadRef) (s : State) : State :=
  let x := s.quad q
  if quadGated s q then s else
  match x.serving, x.queue with
  | none, r :: rs => (s.updQuad q (fun x => { x with queue := rs, serving := some r })).post .sfuComplete (.quad q)
  | _, _ => s

/-- A request's result reaches its thread; one that is bound for a full queue waits for room (R43, R217). -/
def sfuDeliver (tid : Nat) (res : SfuResult) (s : State) : State :=
  match res with
  | .scalar d v =>
    if 56 ≤ d ∧ d ≤ 59 ∧ ((s.thread? tid).map (fun t => queueFull s t d)).getD false = true then
      s.updThread tid (fun t => { t with wait := some (.late d v) })
    else regWrite tid d v s
  | .lanes vd new mask => s.updThread tid (fun t =>
      { t with v := t.v.setIfInBounds vd (blend mask (resizeTo 0#32 t.vlen (t.v.toArray.getD vd [])) new) })

/-- The unit's request completes (R217, R219, R220): the result and the flags are written unless the request was discarded, the
thread is readied when its last request is done, and the next request may start. -/
def sfuFinish (q : QuadRef) (s : State) : State :=
  let x := s.quad q
  if quadGated s q then s else
  match x.serving with
  | none => s
  | some r =>
    let s := s.updQuad q (fun x => { x with serving := none })
    let s := if x.queue.isEmpty then s else s.post .sfuServiceStart (.quad q)
    if r.dead then s
    else
      let s := mergeFlags r.tid false r.flags (s.updThread r.tid (fun t => { t with sfuLeft := t.sfuLeft - 1 }))
      let s := sfuDeliver r.tid r.res s
      match s.thread? r.tid with
      | none => s
      | some t => if t.sfuLeft = 0 then boundary r.tid (wakeIf .sfu r.tid s) else s

end Sys2Proof.Machine
end

