-- ==== Sys2Proof/Machine/Trans.lean ====
section
/-!
DEFINITION. Machine/Trans.lean: the eight vector special functions (spec 12_sfu_rational R233): the special inputs, which are
exact, and for every other input the FP32 values within the accuracy bound of the exact result.
The exact result is known to a relative error below 2^-190 from fixed-point series at 2^-560; every FP32 value that the bound
could allow is a candidate.
-/
namespace Sys2Proof.Machine
open Sys2Proof

/-- The fixed-point scale of the series. -/
def fixBits : Nat := 560
/-- floor (π · 2^560). -/
def piFix : Nat := 0x3243f6a8885a308d313198a2e03707344a4093822299f31d0082efa98ec4e6c89452821e638d01377be5466cf34e90c6cc0ac29b7c97c50dd3f84d5b5b54709179216d5d98979
/-- floor (ln 2 · 2^560). -/
def ln2Fix : Nat := 0xb17217f7d1cf79abc9e3b39803f2f6af40f343267298b62d8a0d175b8baafa2be7b876206debac98559552fb4afa1b10ed2eae35c138214427573b291169b8253e96ca16224a

/-- Σ of the terms t, t·x·x…: `term` is multiplied by `x` and divided by `k, k + stepK` … each round. -/
def expSeries : Nat → Nat → Int → Int → Int → Int
  | 0, _, _, _, acc => acc
  | fuel + 1, k, x, term, acc =>
    let t := (term * x).fdiv ((2 ^ fixBits : Nat) : Int) / (k : Int)
    expSeries fuel (k + 1) x t (acc + t)

/-- `e^x` for a fixed-point `x`: a numerator over `2^560` and a power of two (range reduction by ln 2). -/
def expFix (x : Int) : Nat × Int :=
  let k := (2 * x + ln2Fix).fdiv (2 * (ln2Fix : Int))
  let r := x - k * (ln2Fix : Int)
  ((expSeries 110 1 r ((2 ^ fixBits : Nat) : Int) ((2 ^ fixBits : Nat) : Int)).toNat, k)

/-- Alternating series of sine (`k = 2`) and cosine (`k = 1`): each term is multiplied by `-x²/(k(k+1))`. -/
def trigSeries : Nat → Nat → Int → Int → Int → Int
  | 0, _, _, _, acc => acc
  | fuel + 1, k, x2, term, acc =>
    let t := -((term * x2).fdiv ((2 ^ fixBits : Nat) : Int)) / ((k * (k + 1) : Nat) : Int)
    trigSeries fuel (k + 2) x2 t (acc + t)

def sinFix (x : Int) : Int := trigSeries 70 2 ((x * x).fdiv ((2 ^ fixBits : Nat) : Int)) x x
def cosFix (x : Int) : Int :=
  trigSeries 70 1 ((x * x).fdiv ((2 ^ fixBits : Nat) : Int)) ((2 ^ fixBits : Nat) : Int) ((2 ^ fixBits : Nat) : Int)

/-- Σ z^(2i+1)/(2i+1). -/
def atanhSeries : Nat → Nat → Nat → Nat → Nat → Nat
  | 0, _, _, _, acc => acc
  | fuel + 1, k, z2, p, acc =>
    let p' := p * z2 / 2 ^ fixBits
    atanhSeries fuel (k + 2) z2 p' (acc + p' / (k + 2))

/-- `ln (m)` at fixed point for a fixed-point `m` in [1, 2). -/
def lnFix (m : Nat) : Nat :=
  let one := 2 ^ fixBits
  let z := (m - one) * one / (m + one)
  2 * atanhSeries 190 1 (z * z / one) z z

/-- An approximation of a result: sign and magnitude `num/den`. -/
structure Approx where
  neg : Bool
  num : Nat
  den : Nat
deriving DecidableEq, Repr

def Approx.ofFix (x : Int) : Approx := ⟨x < 0, x.natAbs, 2 ^ fixBits⟩

/-- The fixed-point value of a rational. -/
def toFix (neg : Bool) (n d : Nat) : Int :=
  let v : Int := ((n * 2 ^ fixBits / d : Nat) : Int)
  if neg then -v else v

/-- Rational of a numerator over 2^560 times 2^k. -/
def fixScaled (m : Nat) (k : Int) : Nat × Nat :=
  if 0 ≤ k then (m * 2 ^ k.toNat, 2 ^ fixBits) else (m, 2 ^ fixBits * 2 ^ (-k).toNat)

/-- `e^x` as a rational, for |x| ≤ 400; arguments beyond ±400 are taken as ±400, far outside FP32. -/
def expRat (neg : Bool) (n d : Nat) : Nat × Nat :=
  let x := if 400 * d < n then toFix neg 400 1 else toFix neg n d
  let (m, k) := expFix x
  fixScaled m k

/-- Sine and cosine of a finite float value, by reduction modulo π/2. -/
def sinCos (cos neg : Bool) (n d : Nat) : Approx :=
  let x := toFix neg n d
  let q := (4 * x + piFix).fdiv (2 * (piFix : Int))
  let r := (2 * x - q * (piFix : Int)) / 2
  let j := ((q + (if cos then 1 else 0)) % 4).toNat
  let v := if j % 2 = 0 then sinFix r else cosFix r
  Approx.ofFix (if 2 ≤ j then -v else v)

/-- The special functions: VEXP 0, VLOG 1, VRCP 2, VRSQ 3, VSIGM 4, VTANH 5, VSIN 6, VCOS 7 (R232). -/
def sfuUlps (fn : Nat) : Nat := if fn = 2 ∨ fn = 3 then 1 else 2

/-- The exact result of a special input, or `none` (R233). `a` is not a NaN. -/
def sfuSpecial (fn : Nat) (x : Xr) : Option (Nat × Flags) :=
  match fn, x with
  | 0, .inf neg => some (if neg then 0 else fp32.infCode, noFlags)
  | 0, .fin _ n _ => if n = 0 then some (0x3F800000, noFlags) else none
  | 1, .inf neg => some (if neg then fp32.invalid else (fp32.infCode, noFlags))
  | 1, .fin neg n d =>
    if n = 0 then some (fp32.withSign true fp32.infCode, { dz := true })
    else if neg then some fp32.invalid
    else if n = d then some (0, noFlags) else none
  | 2, .inf neg => some (fp32.withSign neg 0, noFlags)
  | 2, .fin neg n _ => if n = 0 then some (fp32.withSign neg fp32.infCode, { dz := true }) else none
  | 3, .inf neg => some (if neg then fp32.invalid else (0, noFlags))
  | 3, .fin neg n _ =>
    if n = 0 then some (fp32.withSign neg fp32.infCode, { dz := true })
    else if neg then some fp32.invalid else none
  | 4, .inf neg => some (if neg then 0 else 0x3F800000, noFlags)
  | 4, .fin _ n _ => if n = 0 then some (0x3F000000, noFlags) else none
  | 5, .inf neg => some (fp32.withSign neg 0x3F800000, noFlags)
  | 5, .fin neg n _ => if n = 0 then some (fp32.withSign neg 0, noFlags) else none
  | 6, .inf _ => some fp32.invalid
  | 6, .fin neg n _ => if n = 0 then some (fp32.withSign neg 0, noFlags) else none
  | _, .inf _ => some fp32.invalid
  | _, .fin _ n _ => if n = 0 then some (0x3F800000, noFlags) else none

/-- The approximation of `f(±n/d)` for an input that is not special. -/
def sfuApprox (fn : Nat) (neg : Bool) (n d : Nat) : Approx :=
  match fn with
  | 0 => let (p, q) := expRat neg n d; ⟨false, p, q⟩
  | 1 =>
    let e := floorLog2 n d
    let m := if 0 ≤ e then n * 2 ^ fixBits / (d * 2 ^ e.toNat) else n * 2 ^ (-e).toNat * 2 ^ fixBits / d
    Approx.ofFix (e * (ln2Fix : Int) + (lnFix m : Int))
  | 2 => ⟨neg, d, n⟩
  | 3 => ⟨false, isqrt (d * 2 ^ 800 / n), 2 ^ 400⟩
  | 4 => let (p, q) := expRat (!neg) n d; ⟨false, q, q + p⟩
  | 5 => let (p, q) := expRat false (2 * n) d; ⟨neg, p - q, p + q⟩
  | 6 => sinCos false neg n d
  | _ => sinCos true neg n d

/-- The signed magnitude code at an index: index 0 is zero of sign `neg`, a negative index has the opposite sign. -/
def codeAt (neg : Bool) (i : Int) : Nat :=
  if 0 ≤ i then fp32.withSign neg i.toNat else fp32.withSign (!neg) (-i).toNat

/-- `|value(index) − v| ≤ b · ulp(v)`; `ulp(v)` is `2^qe` (R233). The error of `v` is far below what tells any FP32 value from the bound. -/
def withinBound (v : Approx) (b : Nat) (qe : Int) (i : Int) : Bool :=
  if (fp32.maxCode : Int) < i ∨ i < -(fp32.maxCode : Int) then false
  else
    match (fp32.decode i.natAbs).xr with
    | .inf _ => false
    | .fin _ n d =>
      let c : Int := if i < 0 then -((n * v.den : Nat) : Int) else ((n * v.den : Nat) : Int)
      let diff := (c - ((v.num * d : Nat) : Int)).natAbs
      let lim := b * (d * v.den)
      if 0 ≤ qe then diff ≤ lim * 2 ^ qe.toNat else diff * 2 ^ (-qe).toNat ≤ lim

/-- The FP32 codes within the bound of the exact result. -/
def sfuCandidates (v : Approx) (b : Nat) : List Nat :=
  let e := floorLog2 v.num v.den
  let e := if e < -126 then -126 else e
  let base : Int := (((fp32.roundFin 1 false false v.num v.den false).1 : Nat) : Int)
  let is : List Int := [-5, -4, -3, -2, -1, 0, 1, 2, 3].map (fun k => base + k)
  (is.filter (withinBound v b (e - 23))).map (codeAt v.neg)

/-- Whether the exact result exceeds the largest finite FP32 value. -/
def aboveMax (v : Approx) : Bool :=
  match (fp32.decode fp32.maxCode).xr with
  | .fin _ p q => decide (p * v.den < v.num * q)
  | .inf _ => false

/-- One lane of a vector special function: `pick` chooses among the candidates (R233). -/
def sfuLane (pick : Nat → Lane → Nat) (fn : Nat) (ftz : Bool) (a : Lane) : Lane × Flags :=
  let code := fp32.flushIn ftz a.toNat
  match fp32.decode code with
  | .nan s fr fb sig => (BitVec.ofNat 32 (fp32.nanInto true s fr fb), { nv := sig })
  | .num x =>
    match sfuSpecial fn x with
    | some (c, fl) => (BitVec.ofNat 32 c, fl)
    | none =>
      match x with
      | .inf _ => (0, noFlags)
      | .fin neg n d =>
        let v := sfuApprox fn neg n d
        if aboveMax v then
          (BitVec.ofNat 32 (fp32.withSign v.neg fp32.infCode), { of := true, nx := true })
        else
          let cs := sfuCandidates v (sfuUlps fn)
          let c := cs.getD (pick fn (BitVec.ofNat 32 code) % cs.length) (fp32.roundFin 0 false v.neg v.num v.den false).1
          let tiny := c % 2 ^ 31 < 2 ^ 23
          if tiny ∧ ftz then (BitVec.ofNat 32 (c / 2 ^ 31 * 2 ^ 31), { uf := true, nx := true })
          else (BitVec.ofNat 32 c, { uf := tiny, nx := true })

end Sys2Proof.Machine
end

