-- ==== Sys2Proof/Machine/VectorMem.lean ====
section
/-!
DEFINITION. Machine/VectorMem.lean: vector memory (11 R195 to R199).
-/
namespace Sys2Proof.Machine
open Sys2Proof

/-- The enabled lanes of a vector memory instruction with their addresses (R193, R196). -/
def enabledEas (m : List Bool) (eas : List Word) : List (Nat × Word) :=
  ((m.zip eas).zipIdx.filter (fun x => x.1.1)).map (fun x => (x.2, x.1.2))

/-- The verdict on one element (R197). -/
def elemCheck (c : Ctx) (s : State) (b kind : Nat) (ea : Word) : Verdict :=
  if ea.toNat % b ≠ 0 then .fault 6 cALIGN kind ea
  else match translate s c.pre ea.toNat kind with
  | .miss => .divert 7 (missPark c.tid ea.toNat kind s)
  | .fault cause => .fault (if cause = cXLATE then 7 else 8) cause kind ea
  | .ok tg =>
    if (fixedLatency tg && reachable c.pre tg) = false then .fault 8 cPERM kind ea
    else if inRange s c.pre.part tg then .fault 11 cRANGE kind ea
    else if kind = 0 ∧ s.bad tg.ga = true then .fault 14 cECC 0 ea
    else .ok

/-- Assignment of elements to passes: at most 8 distinct words in one of the 32 banks (R198). The spec gives banks to the scratchpad; the
words of the TCM area are counted by the same rule (log 48). -/
def passesOf (cur : List (Nat × Nat)) : List (Nat × Nat) → List (List (Nat × Nat))
  | [] => [cur.reverse]
  | e :: es =>
    let ws := ((cur.map (fun x => x.2 / 8)).filter (fun w => w % 32 == e.2 / 8 % 32)).eraseDups
    if !ws.contains (e.2 / 8) && 8 ≤ ws.length then cur.reverse :: passesOf [e] es else passesOf (e :: cur) es

/-- The passes of an instruction whose elements all translate. -/
def vmemPasses (c : Ctx) (s : State) (kind : Nat) (es : List (Nat × Word)) : List (List (Nat × Nat)) :=
  passesOf [] (es.filterMap (fun e => match translate s c.pre e.2.toNat kind with | .ok tg => some (e.1, tg.ga) | _ => none))

/-- A pass before the last: its elements are stored, or read and kept hidden; the bundle does not issue yet (R198). -/
def passTurn (tid : Nat) (load : Bool) (data : List Lane) (b : Nat) (es : List (Nat × Nat)) (s : State) : State :=
  passAccess tid ⟨load, b, data, es, [], none⟩ (s.updThread tid (fun t => { t with vmemPass := t.vmemPass + 1 }))

/-- Writes a mask register. -/
def setM (tid k : Nat) (ls : List Bool) (s : State) : State :=
  s.updThread tid (fun t => { t with m := t.m.setIfInBounds k (resizeTo false t.vlen ls) })

/-- A vector memory instruction (R195 to R199), served pass by pass; the elements of a pass are accessed in one turn, or in several that
other threads' accesses fall between (log 41). -/
def semVmem (srcs : List (BitVec 6)) (v : BitVec 5) (k : BitVec 3) (b : Nat) (load : Bool) (eas : Ctx → List Word) : Sem :=
  let kind := if load then 0 else 1
  let es := fun (c : Ctx) => enabledEas (c.m k.toNat) (eas c)
  { srcs := srcs
    wv := if load then [v.toNat] else []
    exts := fun _ _ => extVEC
    check := fun c s =>
      if c.pre.vlen = 0 then .fault 5 cVNOCLAIM 0 0
      else match worstOf ((es c).map (fun e => elemCheck c s b kind e.2)) with
      | .ok => match drainCheck c s with
        | .ok =>
          let ps := vmemPasses c s kind (es c)
          if c.pre.vmemPass + 1 < ps.length then .wait (passTurn c.tid load (c.v v.toNat) b (ps.getD c.pre.vmemPass []) s)
          else .ok
        | x => x
      | x => x
    run := fun c s =>
      let last := ((vmemPasses c s kind (es c)).drop c.pre.vmemPass).flatten
      passAccess c.tid ⟨load, b, c.v v.toNat, last, c.pre.vmemRead, some v.toNat⟩ s }

/-- Unit stride: ga + 4i. -/
def easUnit (c : Ctx) (a : BitVec 6) : List Word := (List.range c.pre.vlen).map (fun i => c.g a + word (4 * i))
/-- Strided: ga + i × gb. -/
def easStride (c : Ctx) (a b : BitVec 6) : List Word := (List.range c.pre.vlen).map (fun i => c.g a + word i * c.g b)
/-- Indexed: ga + the lane of vx. -/
def easIndex (c : Ctx) (a : BitVec 6) (x : BitVec 5) : List Word := (c.v x.toNat).map (fun l => c.g a + l.setWidth 64)

def semVld (v : BitVec 5) (a : BitVec 6) (k : BitVec 3) : Sem := semVmem [a] v k 4 true (fun c => easUnit c a)
def semVst (v : BitVec 5) (a : BitVec 6) (k : BitVec 3) : Sem := semVmem [a] v k 4 false (fun c => easUnit c a)
def semVlds (v : BitVec 5) (a b : BitVec 6) (k : BitVec 3) (z : BitVec 2) : Sem :=
  semVmem [a, b] v k (2 ^ z.toNat) true (fun c => easStride c a b)
def semVsts (v : BitVec 5) (a b : BitVec 6) (k : BitVec 3) (z : BitVec 2) : Sem :=
  semVmem [a, b] v k (2 ^ z.toNat) false (fun c => easStride c a b)
def semVgth (v : BitVec 5) (a : BitVec 6) (x : BitVec 5) (k : BitVec 3) (z : BitVec 2) : Sem :=
  semVmem [a] v k (2 ^ z.toNat) true (fun c => easIndex c a x)
def semVsct (v : BitVec 5) (a : BitVec 6) (x : BitVec 5) (k : BitVec 3) (z : BitVec 2) : Sem :=
  semVmem [a] v k (2 ^ z.toNat) false (fun c => easIndex c a x)

/-- VLD. -/
def execVld (v : BitVec 5) (a : BitVec 6) (k : BitVec 3) (σ : State) : Host.Outcome State Fault Refusal := issueS (semVld v a k) σ
/-- VST. -/
def execVst (v : BitVec 5) (a : BitVec 6) (k : BitVec 3) (σ : State) : Host.Outcome State Fault Refusal := issueS (semVst v a k) σ
/-- VLDS. -/
def execVlds (v : BitVec 5) (a b : BitVec 6) (k : BitVec 3) (z : BitVec 2) (σ : State) : Host.Outcome State Fault Refusal := issueS (semVlds v a b k z) σ
/-- VSTS. -/
def execVsts (v : BitVec 5) (a b : BitVec 6) (k : BitVec 3) (z : BitVec 2) (σ : State) : Host.Outcome State Fault Refusal := issueS (semVsts v a b k z) σ
/-- VGTH. -/
def execVgth (v : BitVec 5) (a : BitVec 6) (x : BitVec 5) (k : BitVec 3) (z : BitVec 2) (σ : State) : Host.Outcome State Fault Refusal := issueS (semVgth v a x k z) σ
/-- VSCT. -/
def execVsct (v : BitVec 5) (a : BitVec 6) (x : BitVec 5) (k : BitVec 3) (z : BitVec 2) (σ : State) : Host.Outcome State Fault Refusal := issueS (semVsct v a x k z) σ

end Sys2Proof.Machine
end

