-- ==== Sys2Proof/Machine/Vector.lean ====
section
/-!
DEFINITION. Machine/Vector.lean: the V-slot instructions: lane claims, integer, float, conversion, complex, permute, reduction,
special-function and mask instructions (11 R192 to R211, 12 R232, R233).
-/
namespace Sys2Proof.Machine
open Sys2Proof

/-- A vector instruction needs a lane claim (R193). -/
def needClaim (c : Ctx) (_ : State) : Verdict := if c.pre.vlen = 0 then .fault 5 cVNOCLAIM 0 0 else .ok

/-- A vector instruction that writes lanes of one v register. -/
def semVreg (d : BitVec 5) (srcs : List (BitVec 6)) (exts : Nat) (f : Ctx → List Lane × Flags) : Sem :=
  { srcs := srcs, wv := [d.toNat], exts := fun _ _ => exts, check := needClaim
    run := fun c s => setV c.tid d.toNat (f c).1 s
    flags := fun c => (f c).2 }

/-- A masked instruction: lanes that the mask disables keep their value (R193). -/
def semVmask (d : BitVec 5) (k : BitVec 3) (exts : Nat) (f : Ctx → List Lane) : Sem :=
  semVreg d [] exts (fun c => (blend (c.m k.toNat) (c.v d.toNat) (f c), noFlags))

/-- A vector instruction that writes a mask (R192: m0 takes ILLREG 0). -/
def semVcond (d : BitVec 3) (f : Ctx → List Bool × Flags) : Sem :=
  { wm := [d.toNat], exts := fun _ _ => extVEC, check := needClaim
    illreg := fun _ _ => if d = 0 then some 0 else none
    run := fun c s => setM c.tid d.toNat (f c).1 s
    flags := fun c => (f c).2 }

/-- A vector instruction that writes a g register. -/
def semVtoG (g : BitVec 6) (f : Ctx → Word × Flags) : Sem :=
  { wg := [g.toNat], exts := fun _ _ => extVEC, check := needClaim
    run := fun c s => regWrite c.tid g.toNat (f c).1 s
    flags := fun c => (f c).2 }

/-! ### Lane claim (R194) -/

/-- The request of VCLAIM: a multiple of 8 from 8 to 128. -/
def claimRequest (g : Nat) : Nat := min 128 (max 8 ((g + 7) / 8 * 8))

def semVclaim (g : BitVec 6) : Sem :=
  { srcs := [g], wg := [g.toNat], exts := fun _ _ => extVEC
    run := fun c s =>
      let s := renegotiate c.tid (claimRequest (c.g g).toNat) s
      regWrite c.tid g.toNat (word (((s.thread? c.tid).map (·.vlen)).getD 0)) s }

def semVrel : Sem := { exts := fun _ _ => extVEC, run := fun c s => s.updThread c.tid (·.endClaim) }

/-! ### Integer (R200, R201) -/

def semVint (op : VIntOp) (d a b x : BitVec 5) (k t : BitVec 3) : Sem :=
  semVmask d k extVEC (fun c => vintRegs op t.toNat (c.v a.toNat) (c.v b.toNat) (c.v x.toNat))

def semVadd (d a b : BitVec 5) (k t : BitVec 3) : Sem := semVint .add d a b a k t
def semVsub (d a b : BitVec 5) (k t : BitVec 3) : Sem := semVint .sub d a b a k t
def semVmul (d a b : BitVec 5) (k t : BitVec 3) : Sem := semVint .mul d a b a k t
def semVmulh (d a b : BitVec 5) (k t : BitVec 3) : Sem := semVint .mulh d a b a k t
def semVmac (d a b c : BitVec 5) (k t : BitVec 3) : Sem := semVint .mac d a b c k t
def semVand (d a b : BitVec 5) (k t : BitVec 3) : Sem := semVint .and d a b a k t
def semVor (d a b : BitVec 5) (k t : BitVec 3) : Sem := semVint .or d a b a k t
def semVxor (d a b : BitVec 5) (k t : BitVec 3) : Sem := semVint .xor d a b a k t
def semVshl (d a b : BitVec 5) (k t : BitVec 3) : Sem := semVint .shl d a b a k t
def semVshr (d a b : BitVec 5) (k t : BitVec 3) : Sem := semVint .shr d a b a k t
def semVsar (d a b : BitVec 5) (k t : BitVec 3) : Sem := semVint .sar d a b a k t
def semVmin (d a b : BitVec 5) (k t : BitVec 3) : Sem := semVint .min d a b a k t
def semVmax (d a b : BitVec 5) (k t : BitVec 3) : Sem := semVint .max d a b a k t
def semVabs (d a : BitVec 5) (k t : BitVec 3) : Sem := semVint .abs d a a a k t
def semVcmp (d : BitVec 3) (a b c : BitVec 5) (k t : BitVec 3) : Sem :=
  semVcond d (fun x => (blendBits (x.m k.toNat) (x.mreg d.toNat) (vcmpRegs t.toNat c.toNat (x.v a.toNat) (x.v b.toNat)), noFlags))
/-- VSEL writes every lane; its mask is the selector. -/
def semVsel (d a b : BitVec 5) (k : BitVec 3) : Sem :=
  semVreg d [] extVEC (fun c => (vselRegs (c.m k.toNat) (c.v a.toNat) (c.v b.toNat), noFlags))

/-! ### Float (R202, R205) -/

def semVfp (op : VFpOp) (d a b x : BitVec 5) (k t : BitVec 3) : Sem :=
  semVreg d [] extVEC (fun c => vfpRegs (vfltFmt t.toNat).width (vfpElem op (vfltFmt t.toNat) c.pre.rm c.pre.ftz) (c.m k.toNat)
    (c.v d.toNat) (c.v a.toNat) (c.v b.toNat) (c.v x.toNat))

def semVfadd (d a b : BitVec 5) (k t : BitVec 3) : Sem := semVfp .add d a b a k t
def semVfsub (d a b : BitVec 5) (k t : BitVec 3) : Sem := semVfp .sub d a b a k t
def semVfmul (d a b : BitVec 5) (k t : BitVec 3) : Sem := semVfp .mul d a b a k t
def semVfma (d a b c : BitVec 5) (k t : BitVec 3) : Sem := semVfp .fma d a b c k t
def semVfmin (d a b : BitVec 5) (k t : BitVec 3) : Sem := semVfp .min d a b a k t
def semVfmax (d a b : BitVec 5) (k t : BitVec 3) : Sem := semVfp .max d a b a k t
def semVfcmp (d : BitVec 3) (a b c : BitVec 5) (k : BitVec 3) : Sem :=
  semVcond d (fun x => vfcmpRegs c.toNat x.pre.ftz (x.m k.toNat) (x.mreg d.toNat) (x.v a.toNat) (x.v b.toNat))
def semVfsgn (d a b c : BitVec 5) (k t : BitVec 3) : Sem :=
  semVmask d k extVEC (fun x => zip3 (laneMap3 (vfltFmt t.toNat).width (fun p q _ => (vfltFmt t.toNat).signOp c.toNat p q))
    (x.v a.toNat) (x.v b.toNat) (x.v a.toNat))

/-- VFSCL: every lane below VLEN (R205). -/
def semVfscl (d a : BitVec 5) (g : BitVec 6) (t : BitVec 2) : Sem :=
  semVreg d [g] extVEC (fun c =>
    let k := satInt (c.g g).toInt (-1024) 1023
    vfpRegs (vfltFmt t.toNat).width (fun p _ _ => vfsclElem (vfltFmt t.toNat) c.pre.rm c.pre.ftz k p) (c.m 0) (c.v d.toNat)
      (c.v a.toNat) (c.v a.toNat) (c.v a.toNat))

/-- VFCVT (R203, R204): an MX source reads its scales from g, an MX target writes them there. -/
def semVfcvt (d a : BitVec 5) (g : BitVec 6) (s o : BitVec 4) (p : BitVec 2) : Sem :=
  let f := fun (c : Ctx) => vfcvtRegs s.toNat o.toNat p.toNat c.pre.rm c.pre.ftz (c.g g).toNat (c.v a.toNat)
  { srcs := if cvIsMx s.toNat then [g] else []
    wg := if cvIsMx o.toNat then [g.toNat] else []
    wv := [d.toNat]
    exts := fun _ _ => extVEC
    check := needClaim
    run := fun c σ =>
      let σ := setV c.tid d.toNat (f c).1 σ
      if cvIsMx o.toNat then regWrite c.tid g.toNat (word (f c).2.1) σ else σ
    flags := fun c => (f c).2.2 }

/-! ### Complex and dot products (R206) -/

def semVcmac (d a b c : BitVec 5) (k t : BitVec 3) : Sem :=
  semVmask d k (extVEC ||| extCPLX) (fun x => zip3 (vcmacLane t.toNat) (x.v a.toNat) (x.v b.toNat) (x.v c.toNat))
def semVcconj (d a : BitVec 5) (k t : BitVec 3) : Sem :=
  semVmask d k (extVEC ||| extCPLX) (fun x => (x.v a.toNat).map (vcconjLane t.toNat))
def semVdot4 (d a b c : BitVec 5) (k t : BitVec 3) : Sem :=
  semVmask d k extVEC (fun x => zip3 (vdotLane 8 (t == 0)) (x.v a.toNat) (x.v b.toNat) (x.v c.toNat))
def semVdot8 (d a b c : BitVec 5) (k t : BitVec 3) : Sem :=
  semVmask d k extVEC (fun x => zip3 (vdotLane 4 (t == 0)) (x.v a.toNat) (x.v b.toNat) (x.v c.toNat))

/-! ### Permutes and moves (R207 to R209) -/

def semVbcast (d : BitVec 5) (g : BitVec 6) (w : BitVec 3) : Sem :=
  semVreg d [g] extVEC (fun c =>
    let n := permWidth w.toNat
    (List.replicate c.pre.vlen (laneOf n (List.replicate (32 / n) ((c.g g).toNat % 2 ^ n))), noFlags))
def semVextr (a : BitVec 5) (g : BitVec 6) (l : BitVec 7) : Sem :=
  semVtoG g (fun c => (((c.v a.toNat).getD l.toNat 0).setWidth 64, noFlags))
def semVins (d : BitVec 5) (g : BitVec 6) (l : BitVec 7) : Sem :=
  semVreg d [g] extVEC (fun c => ((c.v d.toNat).set l.toNat ((c.g g).setWidth 32), noFlags))
def semVperm (d a b : BitVec 5) (k e : BitVec 3) : Sem :=
  semVmask d k extVEC (fun c => vpermRegs (permWidth e.toNat) (c.v a.toNat) (c.v b.toNat))
def semVslide (d a : BitVec 5) (i : BitVec 16) : Sem := semVreg d [] extVEC (fun c => (vslideRegs i.toInt (c.v a.toNat), noFlags))
def semVzip (d a b : BitVec 5) (h : BitVec 1) (k e : BitVec 3) : Sem :=
  semVmask d k extVEC (fun c => vzipRegs (permWidth e.toNat) h.toNat (c.v a.toNat) (c.v b.toNat))
def semVunzip (d a b : BitVec 5) (h : BitVec 1) (k e : BitVec 3) : Sem :=
  semVmask d k extVEC (fun c => vunzipRegs (permWidth e.toNat) h.toNat (c.v a.toNat) (c.v b.toNat))
/-- VMOV; its width has no effect (R208). -/
def semVmov (d a : BitVec 5) (k _e : BitVec 3) : Sem := semVmask d k extVEC (fun c => c.v a.toNat)

/-! ### Reductions (R210) -/

def semVrsum (a : BitVec 5) (g : BitVec 6) (t k : BitVec 3) : Sem :=
  semVtoG g (fun c => (word (vrsum t.toNat (c.m k.toNat) (c.v a.toNat)), noFlags))
def semVrmax (a : BitVec 5) (g : BitVec 6) (t k : BitVec 3) : Sem :=
  semVtoG g (fun c => (word (vrext true t.toNat (c.m k.toNat) (c.v a.toNat)), noFlags))
def semVrmin (a : BitVec 5) (g : BitVec 6) (t k : BitVec 3) : Sem :=
  semVtoG g (fun c => (word (vrext false t.toNat (c.m k.toNat) (c.v a.toNat)), noFlags))
def semVfrsum (a : BitVec 5) (g : BitVec 6) (t k : BitVec 3) : Sem :=
  semVtoG g (fun c =>
    let r := vfrsum t.toNat c.pre.rm c.pre.ftz (c.m k.toNat) (c.v a.toNat)
    (word r.1, r.2))

/-! ### Special functions (R232, R233) -/

/-- A vector special function goes to the quad's SFU with its lanes, mask and modes (R217, R219). -/
def semVsfu (fn : Nat) (d a : BitVec 5) (k : BitVec 3) : Sem :=
  { wv := [d.toNat], exts := fun _ _ => extVEC, check := needClaim
    run := fun c s =>
      let rs := (c.v a.toNat).map (sfuLane Config.sfuPick fn c.pre.ftz)
      let f := ((c.m k.toNat).zip rs).foldl (fun f x => if x.1 then f.or x.2.2 else f) noFlags
      sfuRequest c (.lanes d.toNat (rs.map (·.1)) (c.m k.toNat)) f false s }

def semVexp (d a : BitVec 5) (k : BitVec 3) : Sem := semVsfu 0 d a k
def semVlog (d a : BitVec 5) (k : BitVec 3) : Sem := semVsfu 1 d a k
def semVrcp (d a : BitVec 5) (k : BitVec 3) : Sem := semVsfu 2 d a k
def semVrsq (d a : BitVec 5) (k : BitVec 3) : Sem := semVsfu 3 d a k
def semVsigm (d a : BitVec 5) (k : BitVec 3) : Sem := semVsfu 4 d a k
def semVtanh (d a : BitVec 5) (k : BitVec 3) : Sem := semVsfu 5 d a k
def semVsin (d a : BitVec 5) (k : BitVec 3) : Sem := semVsfu 6 d a k
def semVcos (d a : BitVec 5) (k : BitVec 3) : Sem := semVsfu 7 d a k

/-! ### Masks (R211) -/

def semMaskOp (d a b : BitVec 3) (f : Bool → Bool → Bool) : Sem :=
  semVcond d (fun c => (List.zipWith f (c.mreg a.toNat) (c.mreg b.toNat), noFlags))
def semMand (d a b : BitVec 3) : Sem := semMaskOp d a b (fun x y => x && y)
def semMor (d a b : BitVec 3) : Sem := semMaskOp d a b (fun x y => x || y)
def semMxor (d a b : BitVec 3) : Sem := semMaskOp d a b (fun x y => x != y)
def semMnot (d a : BitVec 3) : Sem := semMaskOp d a a (fun x _ => !x)
def semMpop (a : BitVec 3) (g : BitVec 6) : Sem := semVtoG g (fun c => (word ((c.mreg a.toNat).filter id).length, noFlags))

/-- VCLAIM. -/
def execVclaim (g : BitVec 6) (σ : State) : Host.Outcome State Fault Refusal := issueV (semVclaim g) σ
/-- VADD. -/
def execVadd (d a b : BitVec 5) (k t : BitVec 3) (σ : State) : Host.Outcome State Fault Refusal := issueV (semVadd d a b k t) σ
/-- VSUB. -/
def execVsub (d a b : BitVec 5) (k t : BitVec 3) (σ : State) : Host.Outcome State Fault Refusal := issueV (semVsub d a b k t) σ
/-- VMUL. -/
def execVmul (d a b : BitVec 5) (k t : BitVec 3) (σ : State) : Host.Outcome State Fault Refusal := issueV (semVmul d a b k t) σ
/-- VMULH. -/
def execVmulh (d a b : BitVec 5) (k t : BitVec 3) (σ : State) : Host.Outcome State Fault Refusal := issueV (semVmulh d a b k t) σ
/-- VMAC. -/
def execVmac (d a b c : BitVec 5) (k t : BitVec 3) (σ : State) : Host.Outcome State Fault Refusal := issueV (semVmac d a b c k t) σ
/-- VAND. -/
def execVand (d a b : BitVec 5) (k t : BitVec 3) (σ : State) : Host.Outcome State Fault Refusal := issueV (semVand d a b k t) σ
/-- VOR. -/
def execVor (d a b : BitVec 5) (k t : BitVec 3) (σ : State) : Host.Outcome State Fault Refusal := issueV (semVor d a b k t) σ
/-- VXOR. -/
def execVxor (d a b : BitVec 5) (k t : BitVec 3) (σ : State) : Host.Outcome State Fault Refusal := issueV (semVxor d a b k t) σ
/-- VSHL. -/
def execVshl (d a b : BitVec 5) (k t : BitVec 3) (σ : State) : Host.Outcome State Fault Refusal := issueV (semVshl d a b k t) σ
/-- VSHR. -/
def execVshr (d a b : BitVec 5) (k t : BitVec 3) (σ : State) : Host.Outcome State Fault Refusal := issueV (semVshr d a b k t) σ
/-- VSAR. -/
def execVsar (d a b : BitVec 5) (k t : BitVec 3) (σ : State) : Host.Outcome State Fault Refusal := issueV (semVsar d a b k t) σ
/-- VMIN. -/
def execVmin (d a b : BitVec 5) (k t : BitVec 3) (σ : State) : Host.Outcome State Fault Refusal := issueV (semVmin d a b k t) σ
/-- VMAX. -/
def execVmax (d a b : BitVec 5) (k t : BitVec 3) (σ : State) : Host.Outcome State Fault Refusal := issueV (semVmax d a b k t) σ
/-- VABS. -/
def execVabs (d a : BitVec 5) (k t : BitVec 3) (σ : State) : Host.Outcome State Fault Refusal := issueV (semVabs d a k t) σ
/-- VCMP. -/
def execVcmp (d : BitVec 3) (a b c : BitVec 5) (k t : BitVec 3) (σ : State) : Host.Outcome State Fault Refusal := issueV (semVcmp d a b c k t) σ
/-- VSEL. -/
def execVsel (d a b : BitVec 5) (k : BitVec 3) (σ : State) : Host.Outcome State Fault Refusal := issueV (semVsel d a b k) σ
/-- VFADD. -/
def execVfadd (d a b : BitVec 5) (k t : BitVec 3) (σ : State) : Host.Outcome State Fault Refusal := issueV (semVfadd d a b k t) σ
/-- VFSUB. -/
def execVfsub (d a b : BitVec 5) (k t : BitVec 3) (σ : State) : Host.Outcome State Fault Refusal := issueV (semVfsub d a b k t) σ
/-- VFMUL. -/
def execVfmul (d a b : BitVec 5) (k t : BitVec 3) (σ : State) : Host.Outcome State Fault Refusal := issueV (semVfmul d a b k t) σ
/-- VFMA. -/
def execVfma (d a b c : BitVec 5) (k t : BitVec 3) (σ : State) : Host.Outcome State Fault Refusal := issueV (semVfma d a b c k t) σ
/-- VFMIN. -/
def execVfmin (d a b : BitVec 5) (k t : BitVec 3) (σ : State) : Host.Outcome State Fault Refusal := issueV (semVfmin d a b k t) σ
/-- VFMAX. -/
def execVfmax (d a b : BitVec 5) (k t : BitVec 3) (σ : State) : Host.Outcome State Fault Refusal := issueV (semVfmax d a b k t) σ
/-- VFCMP. -/
def execVfcmp (d : BitVec 3) (a b c : BitVec 5) (k : BitVec 3) (σ : State) : Host.Outcome State Fault Refusal := issueV (semVfcmp d a b c k) σ
/-- VFSGN. -/
def execVfsgn (d a b c : BitVec 5) (k t : BitVec 3) (σ : State) : Host.Outcome State Fault Refusal := issueV (semVfsgn d a b c k t) σ
/-- VFCVT. -/
def execVfcvt (d a : BitVec 5) (g : BitVec 6) (s o : BitVec 4) (p : BitVec 2) (σ : State) : Host.Outcome State Fault Refusal := issueV (semVfcvt d a g s o p) σ
/-- VFSCL. -/
def execVfscl (d a : BitVec 5) (g : BitVec 6) (t : BitVec 2) (σ : State) : Host.Outcome State Fault Refusal := issueV (semVfscl d a g t) σ
/-- VCMAC. -/
def execVcmac (d a b c : BitVec 5) (k t : BitVec 3) (σ : State) : Host.Outcome State Fault Refusal := issueV (semVcmac d a b c k t) σ
/-- VCCONJ. -/
def execVcconj (d a : BitVec 5) (k t : BitVec 3) (σ : State) : Host.Outcome State Fault Refusal := issueV (semVcconj d a k t) σ
/-- VDOT4. -/
def execVdot4 (d a b c : BitVec 5) (k t : BitVec 3) (σ : State) : Host.Outcome State Fault Refusal := issueV (semVdot4 d a b c k t) σ
/-- VDOT8. -/
def execVdot8 (d a b c : BitVec 5) (k t : BitVec 3) (σ : State) : Host.Outcome State Fault Refusal := issueV (semVdot8 d a b c k t) σ
/-- VBCAST. -/
def execVbcast (d : BitVec 5) (g : BitVec 6) (w : BitVec 3) (σ : State) : Host.Outcome State Fault Refusal := issueV (semVbcast d g w) σ
/-- VEXTR. -/
def execVextr (a : BitVec 5) (g : BitVec 6) (l : BitVec 7) (σ : State) : Host.Outcome State Fault Refusal := issueV (semVextr a g l) σ
/-- VINS. -/
def execVins (d : BitVec 5) (g : BitVec 6) (l : BitVec 7) (σ : State) : Host.Outcome State Fault Refusal := issueV (semVins d g l) σ
/-- VPERM. -/
def execVperm (d a b : BitVec 5) (k e : BitVec 3) (σ : State) : Host.Outcome State Fault Refusal := issueV (semVperm d a b k e) σ
/-- VSLIDE. -/
def execVslide (d a : BitVec 5) (i : BitVec 16) (σ : State) : Host.Outcome State Fault Refusal := issueV (semVslide d a i) σ
/-- VZIP. -/
def execVzip (d a b : BitVec 5) (h : BitVec 1) (k e : BitVec 3) (σ : State) : Host.Outcome State Fault Refusal := issueV (semVzip d a b h k e) σ
/-- VUNZIP. -/
def execVunzip (d a b : BitVec 5) (h : BitVec 1) (k e : BitVec 3) (σ : State) : Host.Outcome State Fault Refusal := issueV (semVunzip d a b h k e) σ
/-- VMOV. -/
def execVmov (d a : BitVec 5) (k e : BitVec 3) (σ : State) : Host.Outcome State Fault Refusal := issueV (semVmov d a k e) σ
/-- VRSUM. -/
def execVrsum (a : BitVec 5) (g : BitVec 6) (t k : BitVec 3) (σ : State) : Host.Outcome State Fault Refusal := issueV (semVrsum a g t k) σ
/-- VRMAX. -/
def execVrmax (a : BitVec 5) (g : BitVec 6) (t k : BitVec 3) (σ : State) : Host.Outcome State Fault Refusal := issueV (semVrmax a g t k) σ
/-- VRMIN. -/
def execVrmin (a : BitVec 5) (g : BitVec 6) (t k : BitVec 3) (σ : State) : Host.Outcome State Fault Refusal := issueV (semVrmin a g t k) σ
/-- VFRSUM. -/
def execVfrsum (a : BitVec 5) (g : BitVec 6) (t k : BitVec 3) (σ : State) : Host.Outcome State Fault Refusal := issueV (semVfrsum a g t k) σ
/-- VEXP. -/
def execVexp (d a : BitVec 5) (k : BitVec 3) (σ : State) : Host.Outcome State Fault Refusal := issueV (semVexp d a k) σ
/-- VLOG. -/
def execVlog (d a : BitVec 5) (k : BitVec 3) (σ : State) : Host.Outcome State Fault Refusal := issueV (semVlog d a k) σ
/-- VRCP. -/
def execVrcp (d a : BitVec 5) (k : BitVec 3) (σ : State) : Host.Outcome State Fault Refusal := issueV (semVrcp d a k) σ
/-- VRSQ. -/
def execVrsq (d a : BitVec 5) (k : BitVec 3) (σ : State) : Host.Outcome State Fault Refusal := issueV (semVrsq d a k) σ
/-- VSIGM. -/
def execVsigm (d a : BitVec 5) (k : BitVec 3) (σ : State) : Host.Outcome State Fault Refusal := issueV (semVsigm d a k) σ
/-- VTANH. -/
def execVtanh (d a : BitVec 5) (k : BitVec 3) (σ : State) : Host.Outcome State Fault Refusal := issueV (semVtanh d a k) σ
/-- VSIN. -/
def execVsin (d a : BitVec 5) (k : BitVec 3) (σ : State) : Host.Outcome State Fault Refusal := issueV (semVsin d a k) σ
/-- VCOS. -/
def execVcos (d a : BitVec 5) (k : BitVec 3) (σ : State) : Host.Outcome State Fault Refusal := issueV (semVcos d a k) σ
/-- MAND. -/
def execMand (d a b : BitVec 3) (σ : State) : Host.Outcome State Fault Refusal := issueV (semMand d a b) σ
/-- MOR. -/
def execMor (d a b : BitVec 3) (σ : State) : Host.Outcome State Fault Refusal := issueV (semMor d a b) σ
/-- MXOR. -/
def execMxor (d a b : BitVec 3) (σ : State) : Host.Outcome State Fault Refusal := issueV (semMxor d a b) σ
/-- MNOT. -/
def execMnot (d a : BitVec 3) (σ : State) : Host.Outcome State Fault Refusal := issueV (semMnot d a) σ
/-- MPOP. -/
def execMpop (a : BitVec 3) (g : BitVec 6) (σ : State) : Host.Outcome State Fault Refusal := issueV (semMpop a g) σ
/-- VREL. -/
def execVrel (σ : State) : Host.Outcome State Fault Refusal := issueV (semVrel) σ

end Sys2Proof.Machine
end

