-- ==== Sys2Proof/Machine/Matrix.lean ====
section
/-!
DEFINITION. Machine/Matrix.lean: MSLOT, MFREE, MLDA, MMA, MCFG, MZERO, MSTA, the accumulator moves, and the events of the matrix
engine (16 R277 to R288).
-/
namespace Sys2Proof.Machine
open Sys2Proof

/-! ### Checks -/

/-- The bundle does not issue: its cycle is lost, and the thread retries at its own cycles (R263, R266). -/
def stall (tid : Nat) (s : State) : State := holdOff tid s

/-- Whether a thread may use an accumulator tile (R262). -/
def accUsable (s : State) (tl : TileRef) (k : Nat) (t : Thread) : Bool :=
  let x := accOf s tl k
  x.state != .free && x.crew == t.crew

/-- ACCUNCFG (R276). -/
def accCheck (c : Ctx) (s : State) (k : Nat) : Verdict :=
  if accUsable s c.pre.pos.tileRef k c.pre then .ok else .fault 5 cACCUNCFG 0 (word k)

/-- SLOTFREE for an MLDA or MFREE: a slot that the issuer does not own, or has released (R276, R279). -/
def ownSlotCheck (c : Ctx) (s : State) (v : Word) : Verdict :=
  let x := slotOf s c.pre.pos.tileRef v.toNat
  if 23 < v.toNat ∨ x.state = .free ∨ x.owner ≠ c.tid ∨ x.releasing = true then .fault 5 cSLOTFREE 0 v else .ok

/-- SLOTFREE for an operand of an MMA (R258, R282): a LOADED slot that a thread of the launch on this tile owns. -/
def operandCheck (c : Ctx) (s : State) (v : Word) : Verdict :=
  let tl := c.pre.pos.tileRef
  let x := slotOf s tl v.toNat
  let mine := match s.thread? x.owner with
    | some o => o.launch == c.pre.launch && o.pos.tileRef == tl
    | none => false
  if 23 < v.toNat ∨ x.state ≠ .loaded ∨ x.releasing = true ∨ mine = false then .fault 5 cSLOTFREE 0 v else .ok

/-- Room in the matrix queue (R266). -/
def queueCheck (c : Ctx) (s : State) : Verdict :=
  let tl := c.pre.pos.tileRef
  let x := s.tile tl
  if x.matReserved.contains c.tid ∨ x.matQ.length + x.matReserved.length < 128 then .ok
  else
    let s := if x.matFull.contains c.tid then s else s.updTile tl (fun x => { x with matFull := x.matFull ++ [c.tid] })
    .wait (stall c.tid s)

/-- A new entry of the issuer's. -/
def matEntry (c : Ctx) (id : Nat) (op : MatOp) : MatEntry := ⟨id, c.tid, c.pre.priv, c.pre.part, op, false, c.pre.launch⟩

/-- Queues an entry. -/
def queueWork (c : Ctx) (op : MatOp) (s : State) : State :=
  matEnqueue c.pre.pos.tileRef (matEntry c s.fresh op) s.tick

/-- Queues an entry whose issuer parks until it completes (R265). -/
def queueAndPark (c : Ctx) (op : MatOp) (s : State) : State := queueWork c op (park c.tid (.matrix s.fresh) s)

/-- The record behind an h register. -/
def Ctx.record (c : Ctx) (s : State) (k : BitVec 3) : List Word := handleRecord s c.pre (c.pre.h.toArray.getD k.toNat 0)

/-! ### Slots -/

/-- MSLOT, MSLOT.W (R279). -/
def semMslot (d : BitVec 6) (w : BitVec 1) : Sem :=
  { wg := [d.toNat], exts := fun _ _ => extMAT
    run := fun c s =>
      let tl := c.pre.pos.tileRef
      match (List.range 24).find? (fun k => (slotOf s tl k).state == .free) with
      | some k => regWrite c.tid d.toNat (word k) (setSlot tl k (fun _ => { OpSlot.init with state := .claimed, owner := c.tid }) s)
      | none =>
        if w = 1 then
          let s := park c.tid .mslot (s.updThread c.tid (·.owe d.toNat))
          s.updTile tl (fun x => { x with mslotWait := x.mslotWait ++ [(c.tid, d.toNat)] })
        else regWrite c.tid d.toNat ones64 s }

/-- MFREE (R260, R279). -/
def semMfree (a : BitVec 6) : Sem :=
  { srcs := [a], exts := fun _ _ => extMAT
    check := fun c s => ownSlotCheck c s (c.g a)
    run := fun c s => releaseSlot c.pre.pos.tileRef (c.g a).toNat s }

/-- MLDA (R280). -/
def semMlda (d a b : BitVec 6) (h : BitVec 3) : Sem :=
  { srcs := [a, b], wg := [d.toNat], exts := fun _ _ => extMAT
    check := fun c s => firstVerdict [ownSlotCheck c s (c.g a), handleCheck c s (c.pre.h.toArray.getD h.toNat 0),
      if (c.g b).toNat % fmtAlign (recSfmt (c.record s h)) ≠ 0 then .fault 6 cALIGN 0 (c.g b) else .ok, queueCheck c s]
    run := fun c s => queueAndPark c (.mlda (c.g a).toNat (c.g b) (c.record s h) d.toNat) (s.updThread c.tid (·.owe d.toNat)) }

/-- MMA, MMA.CJ (R282). -/
def semMma (a b : BitVec 6) (t : BitVec 3) (j : BitVec 1) : Sem :=
  { srcs := [a, b]
    exts := fun c s =>
      let cpx := fun (r : BitVec 6) =>
        let x := slotOf s c.pre.pos.tileRef (c.g r).toNat
        x.state == .loaded && fmtFamily x.fmt == 2
      if cpx a || cpx b then extMAT + extCPLX else extMAT
    check := fun c s =>
      let tl := c.pre.pos.tileRef
      firstVerdict [accCheck c s t.toNat, operandCheck c s (c.g a), operandCheck c s (c.g b),
        if mmaFits (slotOf s tl (c.g a).toNat).fmt (slotOf s tl (c.g b).toNat).fmt (accOf s tl t.toNat).ty (j == 1) then .ok
        else .fault 5 cACCUNCFG 0 (word t.toNat), queueCheck c s]
    run := fun c s => queueAndPark c (.mma (c.g a).toNat (c.g b).toNat t.toNat (j == 1)) s }

/-! ### Accumulator tiles -/

/-- A malformed configuration word (R283). -/
def cfgMalformed (w : Nat) : Bool :=
  if bitAt w 63 then bits w 62 0 != 0
  else bits w 62 6 != 0 || (bits w 5 4 == 3 || (bits w 3 2 == 3 || (bits w 1 0 == 3 || (bits w 5 4 == 2 && bits w 3 2 == 2))))

/-- MCFG (R283). A locked tile holds the bundle back (R263). -/
def semMcfg (d a : BitVec 6) (t : BitVec 3) : Sem :=
  { srcs := [a], wg := [d.toNat], exts := fun _ _ => extMAT
    check := fun c s => if accLocked s c.pre.pos.tileRef t.toNat then .wait (stall c.tid s) else .ok
    run := fun c s =>
      let tl := c.pre.pos.tileRef
      let w := (c.g a).toNat
      let x := accOf s tl t.toNat
      let mine := x.crew == c.pre.crew
      let give := fun (n : Nat) (s : State) => regWrite c.tid d.toNat (word n) s
      if cfgMalformed w then give 2 s
      else if bitAt w 63 then
        (if x.owner = c.tid ∧ x.state = .owned then give 0 (releaseAcc tl t.toNat s) else give 3 s)
      else if x.state = .free ∨ mine = true then give 0 (configureAcc tl t.toNat c.tid c.pre.crew w s)
      else if x.state = .away then
        let s := setAcc tl t.toNat (fun x => { x with saving := true }) (s.updThread c.tid (·.owe d.toNat))
        (park c.tid (.lazySave t.toNat d.toNat w) s).post .lazySave (.tileNum tl t.toNat)
      else give 1 s }

/-- MZERO (R284). -/
def semMzero (t : BitVec 3) : Sem :=
  { exts := fun _ _ => extMAT
    check := fun c s => firstVerdict [accCheck c s t.toNat, queueCheck c s]
    run := fun c s => queueWork c (.mzero t.toNat) s }

/-- MSTA (R285): its thread goes on, its status register is filled when the entry completes. -/
def semMsta (d a : BitVec 6) (t h : BitVec 3) : Sem :=
  { srcs := [a], wg := [d.toNat], exts := fun _ _ => extMAT
    check := fun c s => firstVerdict [accCheck c s t.toNat, handleCheck c s (c.pre.h.toArray.getD h.toNat 0),
      if (c.g a).toNat % mstaAlign (c.record s h) ≠ 0 then .fault 6 cALIGN 1 (c.g a) else .ok, queueCheck c s]
    run := fun c s => queueWork c (.msta t.toNat (c.g a) (c.record s h) d.toNat) (s.updThread c.tid (·.owe d.toNat)) }

/-! ### Accumulator moves (R287, R288) -/

/-- Positions of the elements of slice `g` in the tile's storage; none for an index out of range. -/
def sliceAt (x : AccTile) (row : Bool) (g : Nat) : List Nat :=
  if (if row then x.rows else x.cols) ≤ g then []
  else if row then (List.range x.cols).map (g * x.cols + ·) else (List.range x.rows).map (· * x.cols + g)

/-- Lanes of a slice. -/
def sliceLanes (x : AccTile) (row : Bool) (g : Nat) : List Lane :=
  (sliceAt x row g).flatMap (fun i =>
    let e := x.data.getD i 0
    if x.ty = 2 then [BitVec.ofNat 32 e, BitVec.ofNat 32 (e / 2 ^ 32)] else [BitVec.ofNat 32 e])

/-- Elements from lanes: as many as the lanes give. -/
def lanesElems (ty : Nat) : List Lane → List Nat
  | [] => []
  | [a] => if ty = 2 then [] else [a.toNat]
  | a :: b :: ls => if ty = 2 then (a.toNat + 2 ^ 32 * b.toNat) :: lanesElems ty ls else a.toNat :: lanesElems ty (b :: ls)

/-- Writes lanes into a slice. -/
def writeSlice (x : AccTile) (row : Bool) (g : Nat) (ls : List Lane) : AccTile :=
  { x with data := ((sliceAt x row g).zip (lanesElems x.ty ls)).foldl (fun d e => d.set e.1 e.2) x.data }

/-- Checks of an accumulator move: VNOCLAIM, ACCUNCFG, then the lock (R263, R276). -/
def moveCheck (c : Ctx) (s : State) (t : Nat) : Verdict :=
  firstVerdict [if c.pre.vlen = 0 then .fault 5 cVNOCLAIM 0 0 else .ok, accCheck c s t,
    if accLocked s c.pre.pos.tileRef t then .wait (stall c.tid s) else .ok]

def semMrd (row : Bool) (d : BitVec 5) (g : BitVec 6) (t : BitVec 3) : Sem :=
  { srcs := [g], wv := [d.toNat], exts := fun _ _ => extVEC + extMAT
    check := fun c s => moveCheck c s t.toNat
    run := fun c s => setV c.tid d.toNat (sliceLanes (accOf s c.pre.pos.tileRef t.toNat) row (c.g g).toNat) s }

def semMwr (row : Bool) (a : BitVec 5) (g : BitVec 6) (t : BitVec 3) : Sem :=
  { srcs := [g], exts := fun _ _ => extVEC + extMAT
    check := fun c s => moveCheck c s t.toNat
    run := fun c s => setAcc c.pre.pos.tileRef t.toNat (fun x => writeSlice x row (c.g g).toNat (c.v a.toNat)) s }

def semMrdr (d : BitVec 5) (g : BitVec 6) (t : BitVec 3) : Sem := semMrd true d g t
def semMrdc (d : BitVec 5) (g : BitVec 6) (t : BitVec 3) : Sem := semMrd false d g t
def semMwrr (a : BitVec 5) (g : BitVec 6) (t : BitVec 3) : Sem := semMwr true a g t
def semMwrc (a : BitVec 5) (g : BitVec 6) (t : BitVec 3) : Sem := semMwr false a g t

/-! ### Events of the engine -/

/-- An event of the oldest entry of a tile's matrix queue; a gated tile's engine stands still (R22, R326). -/
def onMatrix (s : State) (f : TileRef → MatEntry → State) : Host.Outcome State Fault Refusal :=
  match s.obj with
  | .tile tl => match (if (s.tile tl).point.isNone then none else matHead s tl) with
    | some e => .next (f tl e)
    | none => .next s
  | _ => .next s

/-- MLDA_SERVICE (R280). -/
def execMldaService (s : State) : Host.Outcome State Fault Refusal :=
  onMatrix s (fun tl e => match e.op with
    | .mlda k src r d => serveMlda tl e k src r d s
    | _ => s)

/-- MMA_START (R267): the entry enters the cell array. -/
def execMmaStart (s : State) : Host.Outcome State Fault Refusal :=
  onMatrix s (fun tl e => match e.op with
    | .mma _ _ _ _ =>
      if e.started then s
      else (s.updTile tl (fun x => { x with matQ := { e with started := true } :: x.matQ.tail })).post .mmaComplete (.tile tl)
    | _ => s)

/-- MMA_COMPLETE (R282). -/
def execMmaComplete (s : State) : Host.Outcome State Fault Refusal :=
  onMatrix s (fun tl e => match e.op with
    | .mma a b t cj => if e.started then serveMma tl e a b t cj s else s
    | _ => s)

/-- MZERO_SERVICE (R284). -/
def execMzeroService (s : State) : Host.Outcome State Fault Refusal :=
  onMatrix s (fun tl e => match e.op with
    | .mzero t => serveMzero tl e t s
    | _ => s)

/-- MSTA_SERVICE (R285). -/
def execMstaService (s : State) : Host.Outcome State Fault Refusal :=
  onMatrix s (fun tl e => match e.op with
    | .msta t dst r d => serveMsta tl e t dst r d s
    | _ => s)

/-- LAZY_SAVE (R264, R283). -/
def execLazySave (s : State) : Host.Outcome State Fault Refusal :=
  match s.obj with
  | .tileNum tl k => .next (if (accOf s tl k).saving && (s.tile tl).point.isSome then lazySaved tl k s else s)
  | _ => .next s

/-- SFU_SERVICE_START (R218): the SFU starts the oldest queued request. -/
def execSfuServiceStart (s : State) : Host.Outcome State Fault Refusal :=
  match s.obj with
  | .quad q => .next (sfuBegin q s)
  | _ => .next s

/-- SFU_COMPLETE (R217, R219). -/
def execSfuComplete (s : State) : Host.Outcome State Fault Refusal :=
  match s.obj with
  | .quad q => .next (sfuFinish q s)
  | _ => .next s

/-- MSLOT. -/
def execMslot (d : BitVec 6) (w : BitVec 1) (σ : State) : Host.Outcome State Fault Refusal := issueS (semMslot d w) σ
/-- MFREE. -/
def execMfree (a : BitVec 6) (σ : State) : Host.Outcome State Fault Refusal := issueS (semMfree a) σ
/-- MLDA. -/
def execMlda (d a b : BitVec 6) (h : BitVec 3) (σ : State) : Host.Outcome State Fault Refusal := issueS (semMlda d a b h) σ
/-- MMA. -/
def execMma (a b : BitVec 6) (t : BitVec 3) (j : BitVec 1) (σ : State) : Host.Outcome State Fault Refusal := issueS (semMma a b t j) σ
/-- MCFG. -/
def execMcfg (d a : BitVec 6) (t : BitVec 3) (σ : State) : Host.Outcome State Fault Refusal := issueS (semMcfg d a t) σ
/-- MZERO. -/
def execMzero (t : BitVec 3) (σ : State) : Host.Outcome State Fault Refusal := issueS (semMzero t) σ
/-- MSTA. -/
def execMsta (d a : BitVec 6) (t h : BitVec 3) (σ : State) : Host.Outcome State Fault Refusal := issueS (semMsta d a t h) σ
/-- MRDR. -/
def execMrdr (d : BitVec 5) (g : BitVec 6) (t : BitVec 3) (σ : State) : Host.Outcome State Fault Refusal := issueV (semMrdr d g t) σ
/-- MRDC. -/
def execMrdc (d : BitVec 5) (g : BitVec 6) (t : BitVec 3) (σ : State) : Host.Outcome State Fault Refusal := issueV (semMrdc d g t) σ
/-- MWRR. -/
def execMwrr (a : BitVec 5) (g : BitVec 6) (t : BitVec 3) (σ : State) : Host.Outcome State Fault Refusal := issueV (semMwrr a g t) σ
/-- MWRC. -/
def execMwrc (a : BitVec 5) (g : BitVec 6) (t : BitVec 3) (σ : State) : Host.Outcome State Fault Refusal := issueV (semMwrc a g t) σ

end Sys2Proof.Machine
end

