-- ==== Sys2Proof/Machine/Threads.lean ====
section
/-!
DEFINITION. Machine/Threads.lean: events of a single thread: the special registers' actions, the ends of ENTRY and of a park, retries,
arrival after a move, the anti-ping-pong interval and the watchdog (01 R43, 04 R60, R61, 06 R128, R130, R420, 08 R143, R147, 22 R355 to R357).
-/
namespace Sys2Proof.Machine
open Sys2Proof

/-! ### Actions of special registers as events (R43) -/

/-- STREAM_REGISTER_READ (R251). -/
def execStreamRegisterRead (s : State) : Host.Outcome State Fault Refusal :=
  match s.obj with
  | .threadNum tid r => .next (if 48 ≤ r ∧ r ≤ 51 then streamPop tid r s else s)
  | _ => .next s

/-- GROUP_CONTRIBUTE (R362): a write of a member, or a contribution on its way to the root of its tree, or a result on its way from there,
which wait for a route (R350, R360). -/
def execGroupContribute (s : State) : Host.Outcome State Fault Refusal :=
  match s.obj with
  | .threadReg tid r v => .next (if 52 ≤ r ∧ r ≤ 55 then groupContribute tid r v s else s)
  | .num q => match s.contribs.get? q with
    | some x => .next (if x.down then resultDown q x s else contributionUp q x s)
    | none => .next s
  | _ => .next s

/-- GROUP_RESULT_READ (R362). -/
def execGroupResultRead (s : State) : Host.Outcome State Fault Refusal :=
  match s.obj with
  | .threadNum tid r => .next (if 52 ≤ r ∧ r ≤ 55 then groupRead tid r s else s)
  | _ => .next s

/-- QUEUE_POP (R43, R129). -/
def execQueuePop (s : State) : Host.Outcome State Fault Refusal :=
  match s.obj with
  | .threadNum tid r => .next (if 56 ≤ r ∧ r ≤ 59 then queuePop tid r s else s)
  | _ => .next s

/-- QUEUE_PUSH (R43, R129); a full queue takes nothing. -/
def execQueuePush (s : State) : Host.Outcome State Fault Refusal :=
  match s.obj with
  | .threadReg tid r v =>
    match s.thread? tid with
    | some t => .next (if 56 ≤ r ∧ r ≤ 59 ∧ queueFull s t r = false then queuePush tid r v s else s)
    | none => .next s
  | _ => .next s

/-! ### Slot states (R60, R61) -/

/-- The code of a hypercall that the firmware has been entered for: a TRAP issued at S (R146). -/
def hyperCode (t : Thread) : Option Nat :=
  if t.priv = 2 ∧ bits t.ecause.toNat 7 0 = cTRAP ∧ bits t.estat.toNat 1 0 = 1 then some (bits t.ecause.toNat 19 8) else none

/-- The firmware's answer in g3 and its ERET (R146; log 16), which takes ALIGN when EPC holds no bundle's address (R40). -/
def hyperReturn (tid : Nat) (v : Word) (s : State) : State :=
  let s := regFill tid 3 v s
  match s.thread? tid with
  | none => s
  | some t => if t.epc.toNat % 8 ≠ 0 then takeTrap tid cALIGN 2 t.epc t.pc s else killBoundary tid (boundary tid (s.updThread tid (·.eret)))

/-- The firmware takes up a hypercall. -/
def hyperEnter (tid code : Nat) (s : State) : State :=
  if code = 0x800 then s.post .hver (.thread tid)
  else if code = 0x801 then s.post .ptebits (.thread tid)
  else if code = 0x802 then s.post .pteget (.thread tid)
  else hyperReturn tid ones64 s

/-- A thread whose last bundle has nothing left to wait for goes on: a halt that waits takes it first (R162), and at the firmware a
hypercall is taken up (R146). -/
def entered (tid : Nat) (t : Thread) (s : State) : State :=
  match hyperCode t with
  | some k => if t.haltReq then s.post .debugHalt (.thread tid) else hyperEnter tid k s
  | none => killBoundary tid (boundary tid s)

/-- ENTRY_END (R143, R148): the handler's first bundle issues at the slot's own cycle; a hypercall goes to the firmware. A bundle that
has a special-function request outstanding, or whose result waits for room, is waited for first (R217). -/
def execEntryEnd (s : State) : Host.Outcome State Fault Refusal :=
  onThread s (fun tid t =>
    if t.status = .entry then
      let s := holdOff tid s
      if t.wait.isSome ∨ t.sfuLeft ≠ 0 then
        killBoundary tid (s.updThread tid (fun t => { t with status := .parked, wait := t.wait.or (some .sfu) }))
      else entered tid t (restoreLanes tid (s.updThread tid (fun t => { t with status := .ready })))
    else s)

/-- PARK_RESUME (R61); a thread that has come back parked renegotiates its lanes now (R191). -/
def execParkResume (s : State) : Host.Outcome State Fault Refusal :=
  onThread s (fun tid t =>
    if t.status = .waking then
      let s := restoreLanes tid (s.updThread tid (fun t => { t with status := .ready }))
      if (hyperCode t).isSome ∧ t.pc = (s.pkg t.pos.pkg).blob.firmware then entered tid t s else s
    else s)

/-- EXTMIG_SLOT_RETRY (R56): a slot has become free and the search starts again. -/
def execExtmigSlotRetry (s : State) : Host.Outcome State Fault Refusal := onThread s (fun tid _ => wakeIf .extmigSlot tid s)

/-- MIG_SLOT_RETRY (R128). -/
def execMigSlotRetry (s : State) : Host.Outcome State Fault Refusal := onThread s (fun tid _ => wakeIf .migSlot tid s)

/-! ### Arrival (R56, R355, R356, R420) -/

/-- The V slot of a MIG bundle executes at the destination (R420). -/
def arriveV (tid : Nat) (v : Option Instr) (s : State) : State :=
  match s.thread? tid with
  | none => s
  | some t =>
    let go := fun (x : Sem) =>
      let c : Ctx := ⟨tid, t, specialVals s t x.srcs, s.bundle⟩
      x.run c (x.srcs.foldl (fun s r => readAction tid r.toNat s) s)
    match v with
    | some (.vclaim g) => go (semVclaim g)
    | some .vrel => go semVrel
    | _ => s

/-- The endpoint directory of the tile where a thread started follows it (R359). -/
def setDir (t : Thread) (p : Place) (s : State) : State :=
  s.updTile ⟨t.start.pkg, t.start.die, t.start.tile⟩ (fun x => { x with dir := x.dir.set t.epid p })

/-- A thread in flight takes its slot: shares, directory, lane request on the same tile (R190), messages; then what waited for it. -/
def arrive (tid : Nat) (t : Thread) (src dst : Pos) (s : State) : State :=
  let s := rebaseTimes tid src dst (s.updThread tid (fun t => { t with place := .slot dst, arriving := none, status := .ready }))
  let s := addFocus dst.coreRef (setDir t (.slot dst) s)
  let s := if src.tileRef = dst.tileRef then
      (match t.claim.request with
       | some q => renegotiate tid q s
       | none => s)
    else arriveShares tid src dst s
  let s := repostMsgs t.epid (arriveV tid t.arriving s)
  killBoundary tid (boundary tid s)

/-- MIGRATION_ARRIVAL: a packet for another package waits for a route (R350). -/
def execMigrationArrival (s : State) : Host.Outcome State Fault Refusal :=
  onThread s (fun tid t => match t.place with
    | .flight src dst => if routed s src.pkg t.part t.launch dst.pkg then arrive tid t src dst s else s
    | _ => s)

/-- Whether the time until which a thread does not migrate has passed (R356, R357); in flight it is kept in its source's time. -/
def apptPast (s : State) (t : Thread) : Bool :=
  t.appt != 0 && (t.appt ≤ s.now t.pos.pkg && (match t.place with | .flight _ _ => false | _ => true))

/-- ANTI_PINGPONG_END (R357). -/
def execAntiPingpongEnd (s : State) : Host.Outcome State Fault Refusal :=
  onThread s (fun tid t => if apptPast s t then s.updThread tid (fun t => { t with appt := 0 }) else s)

/-! ### Waits withdrawn (R130, R147, R157) -/

/-- Waits that leave the pc at the bundle, which is issued again. -/
def Wait.retry : Wait → Bool
  | .reg _ => true
  | .queueFull _ => true
  | .postH => true
  | .drain => true
  | .ninth => true
  | .copyQueue => true
  | .migSlot => true
  | .extmigSlot => true
  | .jobsDone => true
  | .walk _ _ => true
  | .handle _ => true
  | _ => false

/-- The registers that an issued instruction's wait owes a result to. -/
def owedBy (s : State) (tid : Nat) : Wait → List Nat
  | .word => (s.feWaiters.filter (fun x => x.tid == tid && x.job.isNone)).map (·.d)
  | .lock => (s.lockWaiters.filter (fun x => x.tid == tid)).map (·.d)
  | .remote q => match s.reqs.get? q with
    | some r => [r.acc.d]
    | none => []
  | .mslot => (s.tiles.flatMap (fun e => e.2.mslotWait.filter (fun x => x.1 == tid))).map (·.2)
  | .job d _ _ => [d]
  | .joinWait d _ _ => [d]
  | .lwait d _ => [d]
  | .tnext d _ => d :: taskRegs
  | .tpost d _ _ => [d]
  | .cwait d _ => [d]
  | .cclose d _ => [d]
  | .lazySave _ d _ => [d]
  | .answer => ((s.keyReqs.filter (fun e => e.2.tid == tid)).map (·.2.d)) ++
      s.subs.filterMap (fun e => match e.2.src with | .thread t d => if t = tid then some d else none | .host _ _ => none)
  | _ => []

/-- Withdraws the wait of an issued bundle: it leaves no effect, and the pc and the prefix are at the bundle again. The V slot and the read
actions of the bundle, which are done, stay done and are done again when it issues again: R130 leaves this open (log 67). -/
def backOut (tid : Nat) (s : State) : State :=
  match s.thread? tid with
  | none => s
  | some t =>
    match t.wait with
    | none => s
    | some w =>
      if w.retry then s.updThread tid (fun t => { t with wait := none })
      else
        let ds := owedBy s tid w
        withdraw tid (s.updThread tid (fun t =>
          { ds.foldl (fun t d => t.unowe d) t with
            wait := none
            pc := t.issuedPc
            pfx := t.issuedPfx }))

/-- Whether WDOG counts a wait of a thread (R147): not an access in flight, nor a result that its own requests owe it, a group's among
them (R150), nor a FENCE held up by relaxed accesses alone; a result that waits for a full queue counts (R61). -/
def watchable (s : State) (tid : Nat) (t : Thread) : Wait → Bool
  | .reply _ _ => false
  | .remote q => match s.reqs.get? q with
    | some r => r.waiting
    | none => false
  | .sfu => false
  | .matrix _ => false
  | .mslot => false
  | .send _ => false
  | .reg r => !(t.pend.getLsbD r || (52 ≤ r && r ≤ 55))
  | .fence f => (bitAt f 1 && jobsPending s t.pos.tileRef tid) || (bitAt f 2 && t.posted != 0)
  | .walk _ _ => false
  | .handle _ => false
  | .drop => false
  | .drain => false
  | .ninth => false
  | _ => true

/-- Time a thread has stayed parked, in ns. -/
def parkedFor (s : State) (t : Thread) : Nat := s.now t.pos.pkg - t.parkedAt

/-- Whether a thread's watchdog has expired (R147). -/
def watchdogDue (s : State) (tid : Nat) (t : Thread) : Bool :=
  let w := (s.part ⟨t.pos.pkg, t.part⟩).wdog
  t.priv == 0 && (t.status == .parked && (t.slot?.isSome && (w != 0 && (w * 1000 < parkedFor s t &&
    (match t.wait with
     | some x => watchable s tid t x
     | none => false)))))

/-- WATCHDOG_EXPIRY (R147): the wait is withdrawn, and WDOG is taken at the parked bundle. -/
def execWatchdogExpiry (s : State) : Host.Outcome State Fault Refusal :=
  onThread s (fun tid t =>
    if watchdogDue s tid t then
      let n := parkedFor s t / 1000
      let s := backOut tid s
      match s.thread? tid with
      | some t' => takeTrap tid cWDOG 0 (word n) t'.pc s
      | none => s
    else s)

end Sys2Proof.Machine
end

