-- ==== Sys2Proof/Machine/Truss.lean ====
section
/-!
DEFINITION. Machine/Truss.lean: SHRD, SHCAP, WEDGE, WCLR and the Truss events (20 R334 to R344).
-/
namespace Sys2Proof.Machine
open Sys2Proof

/-! ### SHST (R341, R342) -/

/-- A count as SHST shows it. -/
def sat16 (n : Nat) : Nat := min n 0xFFFF

/-- Crew word; the crew that reads it is not blocked. -/
def shstCrew (s : State) (c : CrewRef) : Word :=
  match s.crew? c with
  | none => 0
  | some x => word (sat16 x.own * 2 ^ 48 + sat16 (borrowedOf s c) * 2 ^ 32 + sat16 (lentOf s c) * 2 ^ 16)

/-- Highest virtual state of a partition whose point a tile reaches (R342 VP). -/
def virtualPoint (s : State) (p : PartRef) (tl : TileRef) : Nat :=
  match (s.tile tl).point with
  | none => 0
  | some q => (((List.range 16).filter (fun v => (s.part p).vstates.getD v 15 ≤ q)).getLast?).getD 0

/-- Shares recorded to a tile's crews but parked as surplus. -/
def surplusOf (s : State) (tl : TileRef) : Nat :=
  ((s.loans.filter (fun l => l.at_ == .pool && (match l.target with | .crew c => c.tileRef == tl | .span _ => false))).map (·.amount)).sum

/-- Tile word. -/
def shstTile (s : State) (p : PartRef) (tl : TileRef) : Word :=
  let cap := tileCap s tl
  word (sat16 (held s tl) * 2 ^ 48 + virtualPoint s p tl * 2 ^ 44 + ((cap.map (·.1)).getD 0) * 2 ^ 40 + b2n cap.isSome * 2 ^ 39 +
    sat16 (surplusOf s tl) * 2 ^ 16 + (crewsOn s tl).length)

/-- Partition word. -/
def shstPart (s : State) (p : PartRef) : Word :=
  let x := s.part p
  let mine := (busyTiles s p.pkg).filter (fun tl => (crewsOn s tl).any (fun c => c.2.part == p.part))
  let inn := (mine.map (fun tl => (((s.tile tl).slackIn.filter (fun e => e.1 != p.part)).map (·.2)).sum)).sum
  word (sat16 x.allot * 2 ^ 48 + (if x.debt = 0 then sat16 x.pool else 0) * 2 ^ 32 + sat16 ((x.slackOut.map (·.2)).sum) * 2 ^ 16 + sat16 inn)

/-- SHRD (R341). -/
def semShrd (d a : BitVec 6) : Sem :=
  { srcs := [a], wg := [d.toNat]
    run := fun c s =>
      let v := (c.g a).toNat
      let p : PartRef := ⟨c.pre.pos.pkg, c.pre.part⟩
      regWrite c.tid d.toNat (if v = 0 then shstCrew s c.pre.crew else if v = 1 then shstTile s p c.pre.crew.tileRef
        else if v = 2 then shstPart s p else ones64) s }

/-! ### SHCAP, WEDGE, WCLR (R343, R344) -/

/-- A cap as SHCAP's words have it. -/
def capWord (c : Option Nat) : Word := match c with | some v => word v | none => 0x8000000000000000

/-- SHCAP (R343): a lower cap lowers the point and makes borrowed shares surplus at once. -/
def semShcap (d a : BitVec 6) : Sem :=
  { srcs := [a], wg := [d.toNat]
    run := fun c s =>
      let v := c.g a
      let old := capWord (((s.crew? c.pre.crew).map (·.cap)).getD none)
      let put := fun (k : Option Nat) =>
        let tl := c.pre.crew.tileRef
        regWrite c.tid d.toNat old (settleSurplus tl (dropPoint tl (s.updCrew c.pre.crew (fun x => { x with cap := k }))))
      if v = 0x8000000000000000 then put none
      else if v.toNat < 16 then put (some v.toNat)
      else regWrite c.tid d.toNat ones64 s }

/-- A valid target word (R344). -/
def wedgeValid (v : Nat) : Bool := bits v 63 62 != 3 && (bits v 61 26 == 0 && (bits v 63 62 == 0 || bits v 25 0 == 0))

/-- Target word of a crew. -/
def wedgeOf (s : State) (c : CrewRef) : Word := ((s.crew? c).map (·.wedge)).getD 0x8000000000000000

def semWedge (d a : BitVec 6) : Sem :=
  { srcs := [a], wg := [d.toNat]
    run := fun c s =>
      if wedgeValid (c.g a).toNat then
        regWrite c.tid d.toNat (wedgeOf s c.pre.crew) (s.updCrew c.pre.crew (fun x => { x with wedge := c.g a }))
      else regWrite c.tid d.toNat ones64 s }

def semWclr (d : BitVec 6) : Sem :=
  { wg := [d.toNat]
    run := fun c s =>
      regWrite c.tid d.toNat (wedgeOf s c.pre.crew) (s.updCrew c.pre.crew (fun x => { x with wedge := 0x8000000000000000 })) }

/-! ### Events -/

/-- CREW_BLOCKED_CHANGE (R329 to R334): what is recorded follows what is, its shares are divided again or taken back, and what its pool
holds for it is paid out. -/
def execCrewBlockedChange (s : State) : Host.Outcome State Fault Refusal :=
  match s.obj with
  | .crew c =>
    if ((s.crew? c).map (·.retired)).getD false then .next (moveLoans (mended s) s)
    else
      let b := blockedNow s c
      let ts := if b then targetsNow s c else []
      let s := payStep c (s.updCrew c (fun x => { x with blocked := b, targets := ts }))
      .next (moveLoans (divided s c) s)
  | _ => .next s

/-- SHARE_CREDIT (R333). -/
def execShareCredit (s : State) : Host.Outcome State Fault Refusal :=
  match s.obj with
  | .num id => .next (creditShares id s)
  | _ => .next s

/-- POINT_STEP_DONE (R326, R338). -/
def execPointStepDone (s : State) : Host.Outcome State Fault Refusal :=
  match s.obj with
  | .tile tl => .next (stepPoint tl s)
  | _ => .next s

/-- TILE_RESTART (R326, R327). -/
def execTileRestart (s : State) : Host.Outcome State Fault Refusal :=
  match s.obj with
  | .tile tl => .next (restartTile tl s)
  | _ => .next s

/-- The core that a configuration names on a die (R149, item SYSCORE). -/
def PartCfg.sysCore (x : PartCfg) (pkg die : Nat) : CoreRef :=
  let w := bits x.syscore.toNat (16 * die + 15) (16 * die)
  ⟨pkg, die, bits w 10 3, bits w 2 0⟩

/-- The configured core of a partition on a die, for events that belong to no launch: as it holds for the launch accepted last that is
not complete, else as it is set (R392; log 45). -/
def sysCore (s : State) (p : PartRef) (die : Nat) : CoreRef :=
  let ls := s.launches.filter (fun (e : Nat × Launch) => e.2.part == p.part && (e.2.cfgs.get? p.pkg).isSome)
  match (ls.map (·.1)).max? with
  | some l => (s.cfg p.pkg p.part l).sysCore p.pkg die
  | none => (s.part p).cfg.sysCore p.pkg die

/-- Words of a WCYCLE record (R336). -/
def wcycleRecord (time part : Nat) (cs : List CrewRef) : List Word :=
  let ids := (cs.take 8).map (·.id26)
  let pair := fun k => word (ids.getD (2 * k) 0 + 2 ^ 32 * ids.getD (2 * k + 1) 0)
  [word time, word (min cs.length 255 + 2 ^ 8 * min cs.length 8 + 2 ^ 16 * part), pair 0, pair 1, pair 2, pair 3, 0, 0]

/-- One WCYCLE event for a cycle (R336). -/
def raiseCycle (cs : List CrewRef) (s : State) : State :=
  match cs with
  | [] => s
  | c :: _ =>
    let part := ((s.crew? c).map (·.part)).getD 0
    raiseSystem ⟨(s.cfg c.pkg part c.launch).sysCore c.pkg c.die, 1, wcycleRecord (s.now c.pkg) part cs⟩ s

/-- What slot 15's work on an event does to the machine: it hands a WCYCLE record to the partition's fault reporting (R336, R396 KIND 5);
the rest is its firmware's (log 45). -/
def systemEffect (e : SysEvent) (s : State) : State :=
  if e.kind = 1 then reportFault ⟨e.core.pkg, bits (e.record.getD 1 0).toNat 31 16⟩ 5 ((e.record.drop 2).take 4) s else s

/-- The work of a core's slot 15 (R70): it takes the oldest event of the core, or ends the work on the one it has taken. -/
def systemTurn (c : CoreRef) (s : State) : State :=
  match (s.core c).system with
  | some e => systemEffect e (s.updCore c (fun x => { x with system := none }))
  | none => match s.sysEvents.find? (fun e => e.core == c) with
    | none => s
    | some e => { s.updCore c (fun x => { x with system := some e }) with sysEvents := s.sysEvents.erase e }

/-- CYCLE_DETECT (R335): one event for each cycle that has formed. -/
def execCycleDetect (s : State) : Host.Outcome State Fault Refusal :=
  let now := cyclesNow s
  let old := s.cycles
  .next ((now.filter (fun c => !old.contains c)).foldl (fun s c => raiseCycle c s) { s with cycles := now })

/-- SLACK_LEND (R337). -/
def execSlackLend (s : State) : Host.Outcome State Fault Refusal :=
  match s.obj with
  | .part p => .next (if (s.part p).slack ∧ (s.part p).debt = 0 then lendSlack p s else s)
  | _ => .next s

/-- SLACK_RECLAIM (R337). -/
def execSlackReclaim (s : State) : Host.Outcome State Fault Refusal :=
  match s.obj with
  | .part p => .next (reclaimSlack p s)
  | _ => .next s

/-- SHRD. -/
def execShrd (d a : BitVec 6) (σ : State) : Host.Outcome State Fault Refusal := issueS (semShrd d a) σ
/-- SHCAP. -/
def execShcap (d a : BitVec 6) (σ : State) : Host.Outcome State Fault Refusal := issueS (semShcap d a) σ
/-- WEDGE. -/
def execWedge (d a : BitVec 6) (σ : State) : Host.Outcome State Fault Refusal := issueS (semWedge d a) σ
/-- WCLR. -/
def execWclr (d : BitVec 6) (σ : State) : Host.Outcome State Fault Refusal := issueS (semWclr d) σ

end Sys2Proof.Machine
end

