-- ==== Sys2Proof/Machine/Swap.lean ====
section
/-!
DEFINITION. Machine/Swap.lean: pre-emption and its context images, owed results, time slices and debug halts (08 R148, R150, R157 to
R163, 11 R190, 12 R220, 15 R264, R275, 14 R255).
-/
namespace Sys2Proof.Machine
open Sys2Proof

/-! ### The image (R158) -/

/-- Writes 64-bit words one after the other. -/
def putWords (a : Nat) (ws : List Word) (s : State) : State :=
  { s with mem := (ws.zipIdx).foldl (fun m x => memWrite m (a + 8 * x.2) 8 x.1.toNat) s.mem }

/-- TSTAT with a pending prefix in PFXV and PFXF (R114). -/
def savedTstat (t : Thread) : Word :=
  if t.pfx.getLsbD 4 then putBits (putBits t.tstat 4 4 1) 9 6 t.pfx.toNat else t.tstat

/-- The prefix that a saved TSTAT re-applies: one that was pending, or one that the hypervisor has put there (R114, R158). -/
def loadPfx (t : Thread) (saved : Word) : BitVec 5 :=
  if bitAt saved.toNat 4 ∧ (t.pfx.getLsbD 4 = true ∨ bitAt t.tstat.toNat 4 = false) then BitVec.ofNat 5 (16 + bits saved.toNat 9 6) else 0

/-- Control registers of an image in order. -/
def ctlWords (t : Thread) : List Word :=
  [savedTstat t, t.epc, t.ecause, t.eval, t.estat, t.fctl, t.fmt, t.mstat, t.tlog, t.htab]

/-- Inbox words: register number and value of each entry, 0 where there is none. -/
def inboxWords (t : Thread) : List Word :=
  (List.range 8).flatMap (fun k => match t.inbox.toArray[k]? with
    | some e => [word e.2.1, e.2.2]
    | none => [0, 0])

/-- Copies the 256 words of a TCM slot area, with their FE bits: the FE bits of a swapped-out area are those of the image's words, which
the spec does not say (log 24). -/
def copyArea (src dst : Nat) (s : State) : State :=
  (List.range 256).foldl (fun s k =>
    let s := { s with mem := memWrite s.mem (dst + 8 * k) 8 (s.rd (src + 8 * k) 8) }
    { s with fe := feSet s.fe (dst / 8 + k) (feGet s.fe (src / 8 + k)) }) s

/-- A mask register as 128 bits. -/
def maskBits (m : List Bool) : Nat := (m.zipIdx.map (fun x => b2n x.1 * 2 ^ x.2)).sum

/-- Writes the vector registers and masks of an image. -/
def putVec (b : Nat) (t : Thread) (s : State) : State :=
  let m := (List.range 32).foldl (fun m r =>
    (resizeTo 0#32 128 (t.v.toArray.getD r [])).zipIdx.foldl (fun m x => memWrite m (b + 3072 + 512 * r + 4 * x.2) 4 x.1.toNat) m) s.mem
  { s with mem := (List.range 8).foldl (fun m k => memWrite m (b + 19456 + 16 * k) 16 (maskBits (t.m.toArray.getD k []))) m }

/-- Whether a context has vector registers to save: it holds lanes, or has come back and not yet renegotiated them (R158, R191). -/
def hasVec (t : Thread) : Bool := t.vlen != 0 || t.savedVlen != 0

/-- Saves a context; the TCM area is read from its slot. -/
def saveImage (b : Nat) (t : Thread) (p : Pos) (s : State) : State :=
  let g := (List.range 64).map t.reg
  let s := putWords b (g ++ [t.fe, t.pend] ++ t.h.toList ++ ctlWords t ++ [t.pc] ++ inboxWords t ++ List.replicate 27 0) s
  let s := copyArea (devAddr p.pkg (tcmBase p)) (b + 1024) s
  if hasVec t then putVec b t s else s

/-- The fields that the control registers of an image have, in the order of R158: reserved bits read 0 (R7). -/
def ctlMasks : List Word := [0x73D3, ones64, 0xFFFFF, ones64, 0x73D3, 0xF1F1177, 0xF, 0x1F, 0x7FF07FF07FF, 0xFFFFFFFFFFFC0]

/-- A status word of an image: a PRIV field of 3, which never appears, counts as U (R65; log 24). -/
def legalPriv (w : Word) : Word := if bits w.toNat 1 0 = 3 then putBits w 1 0 0 else w

/-- Reads the scalar part of an image back into a context. -/
def loadImage (s : State) (b : Nat) (t : Thread) : Thread :=
  let w := fun k => s.rdWord (b + 8 * k)
  let c := fun k => w (74 + k) &&& ctlMasks.getD k 0
  let t := { t with
    g := Vector.ofFn (fun i : Fin 64 => if i.val = 0 then 0 else w i.val)
    fe := w 64 ||| 1
    pend := w 65
    pfx := loadPfx t (c 0)
    h := Vector.ofFn (fun i : Fin 8 => w (66 + i.val))
    tstat := legalPriv (c 0)
    epc := c 1
    ecause := c 2
    eval := c 3
    estat := legalPriv (c 4)
    fmt := c 6
    mstat := c 7
    tlog := c 8
    htab := c 9
    pc := w 84 &&& ~~~7
    inbox := (List.range 8).filterMap (fun k =>
      let r := (w (85 + 2 * k)).toNat
      if r = 0 then none else some ((match t.inbox.toArray[k]? with | some e => e.1 | none => false), r % 64, w (86 + 2 * k))) }
  t.setFctl (c 5)

/-- Reads the vector part of an image back, at 128 lanes. -/
def loadVec (s : State) (b : Nat) (t : Thread) : Thread :=
  { t with
    v := Vector.ofFn (fun r : Fin 32 => (List.range 128).map (fun l => BitVec.ofNat 32 (s.rd (b + 3072 + 512 * r.val + 4 * l) 4)))
    m := Vector.ofFn (fun k : Fin 8 => (List.range 128).map (fun l => bitAt (s.rd (b + 19456 + 16 * k.val) 16) l)) }

/-! ### Swap-out (R157, R158, R160) -/

/-- SWAP_REQUEST (R148, R157): the request stands until a boundary takes it. -/
def execSwapRequest (s : State) : Host.Outcome State Fault Refusal :=
  onThread s (fun tid t => match t.place with
    | .image _ _ => s
    | _ => (s.updThread tid (fun t => { t with swapReq := true })).post .swapStart (.thread tid))

/-- Whether a vector SFU request of a thread is outstanding (R220). -/
def vectorSfu (s : State) (tid : Nat) : Bool :=
  s.quads.any (fun q => (q.2.queue ++ q.2.serving.toList).any (fun r => r.tid == tid && (!r.dead && (match r.res with
    | .lanes _ _ _ => true
    | .scalar _ _ => false))))

/-- Waits that a swap-out withdraws although their bundle has issued: the instruction is issued again after swap-in (R130, 16). -/
def Wait.swapWithdraws : Wait → Bool
  | .tnext _ _ => true
  | .tpost _ _ _ => true
  | .mslot => true
  | .lazySave _ _ _ => true
  | _ => false

/-- Whether a resident thread is at a bundle boundary, where a debug halt takes effect (R162). -/
def atBoundary (t : Thread) : Bool := t.slot?.isSome && (t.status == .ready || (t.status == .parked || t.status == .waking))

/-- SWAP_START (R148, R157). -/
def execSwapStart (s : State) : Host.Outcome State Fault Refusal :=
  onThread s (fun tid t =>
    if t.swapReq ∧ atBoundary t = true ∧ t.priv ≠ 2 ∧ t.khold = false ∧ vectorSfu s tid = false then
      let s := finishTail tid s
      let s := match t.wait with
        | some w => if w.swapWithdraws then backOut tid s else s
        | none => s
      let s := leaveMatrixLine t.pos.tileRef tid s
      (s.updThread tid (fun t => { t with
        status := .swapOut, swapReq := false, vmemPass := 0, vmemRead := [], notBefore := 0, lastIssue := none })).post .swapOutDone (.thread tid)
    else s)

/-- The lowest free image area of a partition on a package (24 CTXMEM; log 24). -/
def freeArea (s : State) (p : PartRef) : Option Nat :=
  (List.range ((s.part p).ctxSize / 163840)).find? (fun k => !((s.part p).images.contains k))

/-- The saved context leaves its slot; what waits at its TCM area goes with it (R130, R138), and visitor shares follow their thread. -/
def swapOut (tid : Nat) (t : Thread) (p : Pos) (a : Nat) (s : State) : State :=
  let part : PartRef := ⟨p.pkg, t.part⟩
  let tl := p.tileRef
  let b := imageAddr s p.pkg t.part a
  let s := putWords (saveArea b) (List.replicate 8 0) (saveImage b t p s)
  let s := s.updPart part (fun x => { x with images := x.images ++ [a] })
  let s := (ownedAccs s tl tid).foldl (fun s k => setAcc tl k (fun x => { x with state := .away }) s) s
  let s := rehome tl tid (devAddr p.pkg (tcmBase p)) (b + 1024) s
  let s := s.updThread tid (fun t => { t.endClaim with
    place := .image tl a
    savedVlen := if t.vlen = 0 then t.savedVlen else t.vlen
    status := if t.wait.isSome then .parked else .ready })
  let s := carryShares tid t t.visitor (pokeRestore tl (setDir t (.image tl a) s))
  let s := repostMsgs t.epid (slotFreed (crewAway t.crew (dropPoint tl s)))
  killBoundary tid s

/-- SWAP_OUT_DONE (R158, R160): a swap-out without a free image area waits (24). -/
def execSwapOutDone (s : State) : Host.Outcome State Fault Refusal :=
  onThread s (fun tid t => match t.place with
    | .slot p =>
      if t.status = .swapOut then
        (match freeArea s ⟨p.pkg, t.part⟩ with
         | some a => swapOut tid t p a s
         | none => s)
      else s
    | _ => s)

/-! ### Swap-in (R160, R161, R264) -/

/-- Whether a swapped-out thread may come back only on its own tile (R160, R255). -/
def tiedToTile (s : State) (tid : Nat) (t : Thread) (home : TileRef) (image : Nat) : Bool :=
  !(ownedSlots s home tid).isEmpty || (!(ownedAccs s home tid).isEmpty || (!(savedTiles s image).isEmpty ||
    (!(jobsOf s home tid).isEmpty || t.streams.toList.any (·.isSome))))

/-- Whether a slot is free for the swap-in that holds it: no launch has claimed it (R382). -/
def slotOpen (s : State) (tid : Nat) (p : Pos) : Bool :=
  !claimHeld s p && !s.threads.any (fun x => (x.1 != tid && x.2.swapTo == some p && x.2.status == .swapIn) || (match x.2.place with
    | .slot q => q == p
    | .flight _ q => q == p
    | _ => false))

/-- SWAP_IN_REQUEST: the hypervisor gives a swapped-out context a slot; the swap-in starts once the slot is free (R161). A context that a
kill has reached never comes back (R315). -/
def execSwapInRequest (s : State) : Host.Outcome State Fault Refusal :=
  match s.obj with
  | .place tid p =>
    match s.thread? tid with
    | none => .next s
    | some t => match t.place with
      | .image home a =>
        if t.status = .swapIn ∨ t.kill = .held ∨ p.pkg ≠ home.pkg ∨ 14 ≤ p.slot ∨ 8 ≤ p.core ∨ 4 ≤ p.die ∨ 144 ≤ p.tile ∨
            (tiedToTile s tid t home (imageAddr s home.pkg t.part a) = true ∧ p.tileRef ≠ home) then .next s
        else
          let s := s.updThread tid (fun t => { t with swapTo := some p })
          .next (if slotOpen s tid p then (s.updThread tid (fun t => { t with status := .swapIn })).post .accumulatorRestore (.thread tid)
            else s)
      | _ => .next s
  | _ => .next s

/-- Whether a saved tile must wait for the tile it goes to (R264). -/
def restoreBlocked (s : State) (tl : TileRef) (tid k : Nat) : Bool :=
  let x := accOf s tl k
  accLocked s tl k || (x.releasing || (x.state == .owned && x.owner != tid))

/-- ACCUMULATOR_RESTORE (R264): all saved tiles of a swap-in, once none of their tiles is in use. -/
def execAccumulatorRestore (s : State) : Host.Outcome State Fault Refusal :=
  onThread s (fun tid t => match t.place, t.swapTo with
    | .image home a, some p =>
      let b := imageAddr s home.pkg t.part a
      let tl := p.tileRef
      let ks := savedTiles s b
      if t.status ≠ .swapIn then s
      else if ks.any (restoreBlocked s tl tid) ∨ (ownedAccs s tl tid).any (fun k => (accOf s tl k).saving) = true then s
      else
        let s := ks.foldl (fun s k =>
          let s := if (accOf s tl k).state = .away then saveTile tl k s else s
          restoreTile tl b tid t.crew k s) s
        s.post .swapInDone (.thread tid)
    | _, _ => s)

/-- The wait that a thread has when it may issue again: one that has come true is over, a retried bundle is issued again, and SFU
requests that are left are waited for (R15, R159, R163). -/
def resumeWait (t : Thread) : Option Wait :=
  match t.wait with
  | none => if t.sfuLeft = 0 then none else some .sfu
  | some w => if w.retry then none else some w

/-- The restored context takes its slot; its lanes are renegotiated when it is READY (R191). -/
def swapIn (tid : Nat) (t : Thread) (home : TileRef) (a : Nat) (p : Pos) (s : State) : State :=
  let b := imageAddr s home.pkg t.part a
  let tl := p.tileRef
  let w := resumeWait t
  let now := s.now p.pkg
  let s := copyArea (b + 1024) (devAddr p.pkg (tcmBase p)) s
  let s' := s
  let s := s.updThread tid (fun t =>
    let t := loadImage s' b t
    let t := if t.savedVlen = 0 then t else loadVec s' b t
    { t with
      place := .slot p
      swapTo := none
      wait := w
      parkedAt := now
      status := if w.isSome then .parked else .ready })
  let s := rehome home tid (b + 1024) (devAddr p.pkg (tcmBase p)) (moveJobs tl tid p s)
  let s := if w.isSome then s else restoreLanes tid s
  let s := (ownedAccs s tl tid).foldl (fun s k => setAcc tl k (fun x => { x with state := .owned }) s) s
  let s := s.updPart ⟨home.pkg, t.part⟩ (fun x => { x with images := x.images.erase a })
  let s := areaFreed (addFocus p.coreRef (setDir t (.slot p) (crewBack t.crew s)))
  let s := arriveShares tid p p s
  let s := checkFence tid s
  let s := match w with
    | some (.late d v) => finish tid d v s
    | _ => s
  let s := repostMsgs t.epid s
  let s := match s.thread? tid with
    | some t => if t.priv = 0 then releaseInbox tid s else s
    | none => s
  killBoundary tid (boundary tid s)

/-- SWAP_IN_DONE (R159, R160): the image is restored as it stands, and the thread is READY or still parked. A tile of it that is being
saved comes back first, with ACCUMULATOR_RESTORE after the save (R264). -/
def execSwapInDone (s : State) : Host.Outcome State Fault Refusal :=
  onThread s (fun tid t => match t.place, t.swapTo with
    | .image home a, some p =>
      if t.status = .swapIn ∧ t.kill ≠ .held ∧ (ownedAccs s home tid).any (fun k => (accOf s home k).saving) = false ∧
          savedTiles s (imageAddr s home.pkg t.part a) = [] then swapIn tid t home a p s else s
    | _, _ => s)

/-- The messages of an image that are held for a result owed to a register: their places in its inbox (R126). -/
def heldFor (t : Thread) (r : Nat) : List Nat := (t.inbox.zipIdx.filter (fun e => e.1.1 && e.1.2.1 == r)).map (·.2)

/-- Takes entries out of the inbox of an image, those after them moving up; waiting messages try again. -/
def dropEntries (b tid : Nat) (t : Thread) (ks : List Nat) (s : State) : State :=
  let keep := ((List.range 8).filter (fun k => !ks.contains k)).flatMap (fun k => [s.rdWord (b + 680 + 16 * k), s.rdWord (b + 688 + 16 * k)])
  let s := putWords (b + 680) ((keep ++ List.replicate 16 0).take 16) s
  retryMsgs t.epid (s.updThread tid (fun t => { t with inbox := (t.inbox.zipIdx.filter (fun e => !ks.contains e.2)).map (·.1) }))

/-- OWED_RESULT_WRITE (R159): value, FEB and PEND of the image change in one step, a message held for the result delivered after it
(R126); a thread that is back takes it as any result. -/
def execOwedResultWrite (s : State) : Host.Outcome State Fault Refusal :=
  match s.obj with
  | .threadReg tid r v =>
    match s.thread? tid with
    | none => .next s
    | some t =>
      match imageOf s t with
      | none => .next (regFill tid r v s)
      | some b =>
        if r = 0 ∨ 64 ≤ r then .next s
        else
          let bit : Word := 1#64 <<< r
          let ks := heldFor t r
          let v := match ks.getLast? with
            | some k => s.rdWord (b + 688 + 16 * k)
            | none => v
          let s := if ks.isEmpty then s else dropEntries b tid t ks s
          let m := memWrite s.mem (b + 8 * r) 8 v.toNat
          let m := memWrite m (b + 512) 8 (s.rdWord (b + 512) ||| bit).toNat
          let m := memWrite m (b + 520) 8 (s.rdWord (b + 520) &&& ~~~bit).toNat
          .next (wakeIf (.reg r) tid (({ s with mem := m }).updThread tid (·.setReg r v)))
  | _ => .next s

/-- Threads of a partition in the slots of a tile that are handed over, in slot order (R161). -/
def sliceThreads (s : State) (tl : TileRef) (part : Nat) : List Nat :=
  (List.range 14).flatMap (fun k => s.tids (fun t => t.part == part && (match t.slot? with
    | some p => p.tileRef == tl && p.slot == k
    | none => false)))

/-- The dies that a partition occupies on a package. -/
def partDies (s : State) (p : PartRef) : List Nat := ((s.part p).tiles.map (· / 144)).eraseDups

/-- A TENANT event for the partition's configured core of each die that it occupies (R149). -/
def tenantEvent (p : PartRef) (s : State) : State :=
  (partDies s p).foldl (fun s d => raiseSystem ⟨sysCore s p d, 4, []⟩ s) s

/-- TIME_SLICE_END (R161). -/
def execTimeSliceEnd (s : State) : Host.Outcome State Fault Refusal :=
  match s.obj with
  | .tileNum tl part =>
    .next ((sliceThreads s tl part).foldl (fun s tid =>
      (s.updThread tid (fun t => { t with swapReq := true })).post .swapStart (.thread tid)) (tenantEvent ⟨tl.pkg, part⟩ s))
  | _ => .next s

/-! ### Debug (R162, R163) -/

/-- DEBUG_HALT (R162): at the next bundle boundary, at every privilege; between two passes of a vector access its bundle issues again from
the first, which R162 and R198 leave open (log 66). With a number, whether BRK halts. Either is a debug request (R149). -/
def execDebugHalt (s : State) : Host.Outcome State Fault Refusal :=
  match s.obj with
  | .threadNum tid n =>
    match s.thread? tid with
    | none => .next s
    | some t => .next ((tenantEvent ⟨t.pos.pkg, t.part⟩ s).updThread tid (fun t => { t with haltBrk := n != 0 }))
  | .thread tid =>
    match s.thread? tid with
    | none => .next s
    | some t =>
      let s := if t.haltReq then s else tenantEvent ⟨t.pos.pkg, t.part⟩ s
      .next (if t.status = .halted then s
        else if atBoundary t then (finishTail tid s).updThread tid (fun t => { t with
            status := .halted, haltReq := false, vmemPass := 0, vmemRead := [] })
        else s.updThread tid (fun t => { t with haltReq := true }))
  | _ => .next s

/-- What the debugger writes: g0 to g63 are 0 to 63, h0 to h7 64 to 71, the pc 72, control register `n` 0x100 + n, lane `l` of vector
register `r` 0x1000 + 128 r + l, lane `l` of mask `k` 0x2000 + 128 k + l (log 26). -/
def debugWrite (t : Thread) (n : Nat) (v : Word) : Thread :=
  if n < 48 ∨ (60 ≤ n ∧ n < 64) then t.setReg n v
  else if n < 64 then t
  else if n < 72 then { t with h := t.h.setIfInBounds (n - 64) v }
  else if n = 72 then { t with pc := v &&& ~~~7, brkHalt := false }
  else if n < 0x100 then t
  else if n < 0x500 then (if crReadOnly (n - 0x100) || crUnassigned (n - 0x100) v.toNat then t else t.crWrite (n - 0x100) v)
  else if n < 0x1000 then t
  else if n < 0x2000 then
    { t with v := t.v.setIfInBounds ((n - 0x1000) / 128) ((t.v.toArray.getD ((n - 0x1000) / 128) []).set (n % 128) (v.setWidth 32)) }
  else if n < 0x2400 then
    { t with m := t.m.setIfInBounds ((n - 0x2000) / 128) ((t.m.toArray.getD ((n - 0x2000) / 128) []).set (n % 128) (v.getLsbD 0)) }
  else t

/-- DEBUG_REGISTER_WRITE (R163); a bundle that the pc no longer names stands in no line of the matrix engine (R266). -/
def execDebugRegisterWrite (s : State) : Host.Outcome State Fault Refusal :=
  match s.obj with
  | .threadReg tid n v =>
    match s.thread? tid with
    | none => .next s
    | some t => .next (if t.status = .halted then
        (if n = 72 then leaveMatrixLine t.pos.tileRef tid s else s).updThread tid (fun t => debugWrite t n v) else s)
  | _ => .next s

/-- DEBUG_RESUME (R163): a BRK halt goes on after the BRK, a park goes on unless what it waits for has come, and a thread halted before the
firmware's first bundle enters it. -/
def execDebugResume (s : State) : Host.Outcome State Fault Refusal :=
  onThread s (fun tid t =>
    if t.status = .halted then
      let w := resumeWait t
      let now := s.now t.pos.pkg
      let s := s.updThread tid (fun t =>
        let t := if t.brkHalt then { t with pc := t.pc + 8, pfx := 0, afterPfx := false, brkHalt := false } else t
        { t with wait := w, parkedAt := now, status := if w.isSome then .parked else .ready })
      let s := checkFence tid (if t.priv = 0 then releaseInbox tid s else s)
      match s.thread? tid with
      | some t => if t.status = .ready ∧ (hyperCode t).isSome = true ∧ t.pc = (s.pkg t.pos.pkg).blob.firmware then entered tid t s
          else killBoundary tid (boundary tid (if t.status = .ready then restoreLanes tid s else s))
      | none => s
    else s)

end Sys2Proof.Machine
end

