-- ==== Sys2Proof/Machine/Tasks.lean ====
section
/-!
DEFINITION. Machine/Tasks.lean: task packets, SEND, EPID, MIG, QBIND and LWAIT (06 R120 to R129).
-/
namespace Sys2Proof.Machine
open Sys2Proof

/-- The queue that a binding number names for a thread; none when it is above 7 or unused (R121). -/
def threadBinding (s : State) (t : Thread) (b : Word) : Option TaskQueueRef :=
  (s.launches.get? t.launch).bind (fun x => bindingOf x t.start b.toNat)

/-! ### TNEXT, TEND, TPOST -/

/-- TNEXT (R121): ends the current task, then delivers a packet, answers a closed queue, or parks. -/
def semTnext (d a : BitVec 6) : Sem :=
  { srcs := [a], wg := d.toNat :: taskRegs
    illreg := fun _ _ => if d.toNat = 1 ∨ d.toNat = 2 ∨ (7 ≤ d.toNat ∧ d.toNat ≤ 47) ∨ 60 ≤ d.toNat then none else some d.toNat
    check := fun c s => if c.pre.task.isSome then drainCheck c s else .ok
    run := fun c s =>
      let s := if c.pre.task.isSome then endTask c.tid s else s
      match threadBinding s c.pre (c.g a) with
      | none => regWrite c.tid d.toNat ones64 s
      | some q =>
        let x := s.taskQueue q
        match x.packets, x.waiters with
        | k :: ks, [] => serveQueue q (deliverPacket c.tid d.toNat q k (s.updTaskQueue q (fun x => { x with packets := ks })))
        | ks, ws =>
          if ks.isEmpty && !x.isOpen then regWrite c.tid d.toNat 0 s
          else
            let s := s.updThread c.tid (fun t => (d.toNat :: taskRegs).foldl (fun t r => t.owe r) t)
            serveQueue q (park c.tid (.tnext d.toNat q) (s.updTaskQueue q (fun x => { x with waiters := ws ++ [c.tid] }))) }

/-- TEND (R122). -/
def semTend : Sem := { check := fun c s => drainCheck c s, run := fun c s => endTask c.tid s }

/-- Whether a packet's ENTRY or a handle field is malformed (R386). -/
def packetMalformed (ws : List Word) : Bool :=
  (ws.getD 0 0) == 0 || ((ws.getD 0 0).toNat % 8 != 0 || (List.range 4).any (fun k => bits (packetField ws k) 47 42 != 0))

/-- Whether a thread may push to the queue of a binding: bound and not CLOSED (R123, R387). -/
def postable (s : State) (t : Thread) (b : Word) : Option TaskQueueRef :=
  (threadBinding s t b).bind (fun q => if (s.taskQueue q).isOpen then some q else none)

/-- TPOST (R123); its packet is looked at once no relaxed access is outstanding (R132), a loss among them being reported after it (R142). -/
def semTpost (d a b : BitVec 6) : Sem :=
  { srcs := [a, b], wg := [d.toNat]
    check := fun c s =>
      if (c.g b).toNat % 64 ≠ 0 then .fault 6 cALIGN 0 (c.g b)
      else if (postable s c.pre (c.g a)).isNone then drainCheck c s
      else
        let hs := fun (ws : List Word) => if packetMalformed ws then Verdict.ok
          else match ((List.range 4).map (fun k => packetHandle c.pre.pos.pkg (packetField ws k))).find? (fun h =>
              h != 0 && !handleLive s c.pre h) with
            | some h => .fault 14 cHANDLE 0 h
            | none => .ok
        let drain := if c.pre.relaxed.isEmpty then Verdict.ok else .wait (park c.tid .drain s)
        firstVerdict [recordCheck c s (c.g b) 1, drain, hs (readRecord s c.pre (c.g b) 1), drainCheck c s]
    run := fun c s =>
      match postable s c.pre (c.g a) with
      | none => regWrite c.tid d.toNat ones64 s
      | some q =>
        let ws := readRecord s c.pre (c.g b) 1
        if packetMalformed ws then regWrite c.tid d.toNat (ones64 - 1) s
        else
          let s := park c.tid (.tpost d.toNat q ws) (s.updThread c.tid (·.owe d.toNat))
          serveQueue q (s.updTaskQueue q (fun x => { x with posters := x.posters ++ [c.tid] })) }

/-! ### SEND and EPID (R126, R127, R358, R359) -/

/-- SEND: the message leaves for the position its core last learned, or for the home. Its package decides whether the sender parks or the
SEND is posted: R126 and R136 do not say how a target is classed that has moved since (log 46). -/
def semSend (r a b : BitVec 6) : Sem :=
  { srcs := [a, b]
    check := fun c s => drainCheck c s
    run := fun c s =>
      let e : BitVec 32 := if (c.g a).toNat < 2 ^ 32 then (c.g a).setWidth 32 else 0
      let me := c.pre.pos.coreRef
      let aim := s.learned.getD (me, e) (epidHome e)
      let id := s.fresh
      let near := aim.pkg == me.pkg
      let m : Msg := ⟨c.pre.part, me.pkg, e, r.toNat, c.g b, if near then some c.tid else none, if near then none else some c.tid, me, aim, 0, false, c.pre.launch, false, false⟩
      let s := ({ s.tick with msgs := s.msgs.set id m }).post .messageDelivery (.num id)
      if near then park c.tid (.send id) s else s.updThread c.tid (fun t => { t with posted := t.posted + 1 }) }

/-- The position that a COORDR word names, if its reserved bits are 0 (R68, R127). -/
def coordPos (w : Nat) : Option Pos :=
  if bits w 63 32 ≠ 0 ∨ bits w 11 7 ≠ 0 then none
  else some ⟨bits w 31 22, bits w 21 20, bits w 19 12, bits w 6 4, bits w 3 0⟩

/-- EPID (R127): the endpoint of the thread that the launch started at a position. -/
def semEpid (d a : BitVec 6) : Sem :=
  { srcs := [a], wg := [d.toNat]
    run := fun c s =>
      let v := match coordPos (c.g a).toNat, s.launches.get? c.pre.launch with
        | some p, some x => ((x.eps.find? (fun e => e.1 == p)).map (fun e => e.2.setWidth 64)).getD 0
        | _, _ => 0
      regWrite c.tid d.toNat v s }

/-! ### MIG and QBIND (R128, R129) -/

/-- Whether MIG fails (R128, R255). -/
def migFails (s : State) (tid : Nat) (t : Thread) (tg : Target) : Bool :=
  tg.aper == 2 || (holdsResources s tid t || (t.khold || (t.queues.toList.any (·.isSome) || (t.streams.toList.any (·.isSome) ||
    !hosts s tg.pkg t.part))))

/-- Whether the V slot of a MIG bundle reads the same register, which is then read on arrival (R44, R420). -/
def vslotReads (v : Option Instr) (a : BitVec 6) : Bool :=
  match v with
  | some (.vclaim b) => a == b
  | _ => false

/-- MIG moves its thread to the die that holds a word; its V slot executes on arrival (R128, R420). -/
def semMig (a : BitVec 6) : Sem :=
  { srcs := [a]
    check := fun c s =>
      match translate s c.pre (c.g a).toNat 0 with
      | .miss => .divert 7 (missPark c.tid (c.g a).toNat 0 s)
      | .fault cause => .fault (if cause = cXLATE then 7 else 8) cause 0 (c.g a)
      | .ok tg =>
        if tg.aper ≠ 2 ∧ (attachment tg.pkg tg.pa).isNone then .fault 8 cPERM 0 (c.g a)
        else if migFails s c.tid c.pre tg then .fault 13 cMIGFAIL 0 (c.g a)
        else match attachment tg.pkg tg.pa with
        | none => .ok
        | some at_ =>
          if at_.dieRef = c.pre.pos.dieRef then .ok
          else match drainCheck c s with
          | .ok =>
            if jobsPending s c.pre.pos.tileRef c.tid then .wait (park c.tid .jobsDone s)
            else match memorySlot s c.pre tg.pkg tg.pa (tg.pkg == c.pre.pos.pkg) with
            | none => .wait (park c.tid .migSlot s)
            | some dst =>
              let v := match decodeBundle c.bundle with
                | .ok (_, v) => some v
                | .error _ => none
              let s := if vslotReads v a then s else readAction c.tid a.toNat s
              .wait (depart c.tid dst v (s.updThread c.tid (fun t => t.issued ((s.core c.pre.pos.coreRef).cycle - 1))))
          | v => v }

/-- QBIND (R129). -/
def semQbind (r a b : BitVec 6) : Sem :=
  { srcs := [a, b]
    check := fun c s =>
      if bitAt (c.g a).toNat 4 = false ∧ (s.hwQueue c.pre.pos.tileRef (bits (c.g a).toNat 3 0)).part ≠ some c.pre.part then
        .fault 8 cPERM 0 (c.g a)
      else .ok
    run := fun c s =>
      let crew := if bitAt (c.g b).toNat 63 then none else some (bits (c.g b).toNat 25 0)
      let x := if bitAt (c.g a).toNat 4 then none else some ⟨bits (c.g a).toNat 3 0, crew⟩
      s.updThread c.tid (fun t => { t with queues := t.queues.setIfInBounds (r.toNat - 56) x }) }

/-! ### LWAIT (R124, R390) -/

/-- Whether a completion is on its way to the event ring, and so taken for LWAIT (R390). -/
def ringBound (p : Part) (w : Word) : Bool := p.held.any (fun e => e.ty == 1 && e.w0 == w)

/-- What LWAIT finds on the package of a launch of a partition: the completion word, which is taken, or a refusal; none while the launch
runs. -/
def lwaitAnswer (part id : Nat) (s : State) : Option (Word × State) :=
  let p : PartRef := ⟨bits id 27 18, part⟩
  match (s.part p).completions.get? id with
  | none => some (refusalWord 1, s)
  | some none => none
  | some (some w) =>
    if ringBound (s.part p) w then some (refusalWord 1, s)
    else some (w, s.updPart p (fun x => { x with completions := x.completions.del id }))

/-- The request of an LWAIT has reached the launch's package (R124, R351): it is answered, or waits for the completion. -/
def lwaitArrive (tid d id part : Nat) (s : State) : State :=
  match lwaitAnswer part id s with
  | some (w, s) => finish tid d w s
  | none => s.updThread tid (fun t => { t with wait := some (.lwait d id) })

/-- LWAIT: the completion word of a launch of this partition, a wait for it, or a refusal; the request for a launch of another package
travels there through Span, its thread parked (R350, R351). -/
def semLwait (d a : BitVec 6) : Sem :=
  { srcs := [a], wg := [d.toNat]
    run := fun c s =>
      let id := (c.g a).toNat
      let dest := bits id 27 18
      if 2 ^ 32 ≤ id ∨ bits id 31 28 ≠ c.pre.part then regWrite c.tid d.toNat (refusalWord 1) s
      else if dest = c.pre.pos.pkg then
        match lwaitAnswer c.pre.part id s with
        | some (w, s) => regWrite c.tid d.toNat w s
        | none => park c.tid (.lwait d.toNat id) (s.updThread c.tid (·.owe d.toNat))
      else
        let q := s.fresh
        let s := park c.tid .answer (s.tick.updThread c.tid (·.owe d.toNat))
        ({ s with keyReqs := s.keyReqs.set q ⟨c.tid, c.pre.part, d.toNat, ⟨dest, 0, 0, 0⟩, .lwait id⟩ }).post .memoryReply (.num q) }

/-- TNEXT. -/
def execTnext (d a : BitVec 6) (σ : State) : Host.Outcome State Fault Refusal := issueS (semTnext d a) σ
/-- TPOST. -/
def execTpost (d a b : BitVec 6) (σ : State) : Host.Outcome State Fault Refusal := issueS (semTpost d a b) σ
/-- SEND. -/
def execSend (r a b : BitVec 6) (σ : State) : Host.Outcome State Fault Refusal := issueS (semSend r a b) σ
/-- EPID. -/
def execEpid (d a : BitVec 6) (σ : State) : Host.Outcome State Fault Refusal := issueS (semEpid d a) σ
/-- MIG. -/
def execMig (a : BitVec 6) (σ : State) : Host.Outcome State Fault Refusal := issueS (semMig a) σ
/-- QBIND. -/
def execQbind (r a b : BitVec 6) (σ : State) : Host.Outcome State Fault Refusal := issueS (semQbind r a b) σ
/-- LWAIT. -/
def execLwait (d a : BitVec 6) (σ : State) : Host.Outcome State Fault Refusal := issueS (semLwait d a) σ
/-- TEND. -/
def execTend (σ : State) : Host.Outcome State Fault Refusal := issueS (semTend) σ

end Sys2Proof.Machine
end

