-- ==== Sys2Proof/Machine/Launch.lean ====
section
/-!
DEFINITION. Machine/Launch.lean: the dispatcher: checks, claims and starts of launches, their completion, the event ring, partition
reset, and the host's registers of a partition function (23 R375 to R398, 24 R401, R402).
-/
namespace Sys2Proof.Machine
open Sys2Proof

/-! ### The record (R375 to R379) -/

def recEntry (ws : List Word) : Word := ws.getD 0 0
def recLev (ws : List Word) : Nat := (ws.getD 2 0).toNat
def recPlace (ws : List Word) : Nat := (ws.getD 3 0).toNat
def levShares (w : Nat) : Nat := bits w 63 56
def levPrio (w : Nat) : Nat := bits w 52 48
def placeLocal (w : Nat) : Bool := bitAt w 54
def placeNpkg (w : Nat) : Nat := bits w 21 16 + 1

/-- The PKGS field: 64 entries of 10 bits (R375). -/
def pkgEntry (ws : List Word) (i : Nat) : Nat :=
  let n := ((ws.drop 6).take 10).zipIdx.foldl (fun a x => a + x.1.toNat * 2 ^ (64 * x.2)) 0
  bits n (10 * i + 9) (10 * i)

/-- The packages a record names; entry 0 under LOCAL is the launching package. -/
def recPkgs (pkg : Nat) (ws : List Word) : List Nat :=
  (List.range (placeNpkg (recPlace ws))).map (fun i => if i = 0 ∧ placeLocal (recPlace ws) = true then pkg else pkgEntry ws i)

/-- Crews that a record starts on each package. -/
def recCrews (ws : List Word) : Nat :=
  placeRows (recPlace ws) * placeCols (recPlace ws) * (placeSlots (recPlace ws)).length

/-- Level `i`: scope and domain. -/
def levelAt (w i : Nat) : Nat × Nat := (bits w (6 * i + 5) (6 * i + 3), bits w (6 * i + 2) (6 * i))

/-- Whether a domain permits a scope (R379). -/
def scopeOk (x : Nat × Nat) : Bool :=
  x.1 ≤ 4 && (match x.2 with
    | 0 => x.1 == 0
    | 1 => decide (1 ≤ x.1)
    | 2 => decide (1 ≤ x.1)
    | 3 => decide (2 ≤ x.1)
    | 4 => decide (2 ≤ x.1)
    | 5 => decide (3 ≤ x.1)
    | 6 => x.1 == 4
    | _ => false)

/-- R379: level 0 is CORE with TCM, domains rise strictly, scopes never fall. -/
def levelsOk (w : Nat) : Bool :=
  let n := bits w 55 53 + 1
  levelAt w 0 == (0, 0) && ((List.range n).all (fun i => scopeOk (levelAt w i)) &&
    (List.range (n - 1)).all (fun i => (levelAt w i).2 < (levelAt w (i + 1)).2 && (levelAt w i).1 ≤ (levelAt w (i + 1)).1))

/-- Reason 1: a reserved field that is not 0. -/
def recResv (ws : List Word) : Bool :=
  let w := recPlace ws
  let l := recLev ws
  bits w 63 55 != 0 || ((List.range 8).any (fun i => bits l 55 53 < i && levelAt l i != (0, 0)) ||
    ((List.range 64).any (fun i => placeNpkg w ≤ i && pkgEntry ws i != 0) || (placeLocal w && pkgEntry ws 0 != 0)))

/-- Whether a tile has left the available set, itself or with a core (R381 reason 7, R410). -/
def tileGone (s : State) (tl : TileRef) : Bool := (s.tile tl).fenced || (coresOf tl).any (fun c => !(s.core c).available)

/-- Whether a tile can be claimed: in the partition's set, not fenced, every core available (R381 reason 7). -/
def claimable (s : State) (tl : TileRef) (part : Nat) : Bool :=
  (s.part ⟨tl.pkg, part⟩).tiles.contains (tl.die * 144 + tl.tile) && !tileGone s tl

/-- Reason 7: the rectangle. -/
def recRect (s : State) (part : Nat) (ws : List Word) (pkgs : List Nat) : Bool :=
  let w := recPlace ws
  placeRows w == 0 || (placeCols w == 0 || (24 < placeRow0 w + placeRows w || (24 < placeCol0 w + placeCols w ||
    (pkgs.any (fun p => hosts s p part && (rectTiles w p).any (fun tl => !claimable s tl part)) || pkgs.eraseDups.length != pkgs.length))))

/-- Reason 8: a used binding whose queue is not the partition's. -/
def recQueue (s : State) (part : Nat) (ws : List Word) (pkgs : List Nat) : Bool :=
  pkgs.any (fun p => hosts s p part && (List.range 8).any (fun b =>
    let e := bits (ws.getD 4 0).toNat (8 * b + 7) (8 * b)
    bitAt (recPlace ws) (46 + b) && (s.taskQueue ⟨p, e / 64, e % 64⟩).part != some part))

/-- Translation by a dispatcher, which has no tile (R381 TREE). -/
def translatePkg (s : State) (pkg part priv va : Nat) : Option Nat :=
  match walk s (s.part ⟨pkg, part⟩).root pkg part va with
  | none => none
  | some e => match throughLeaf pkg part priv va 0 e with
    | .ok tg => if tg.aper = 2 ∨ regionOf tg.pa ≠ .none then some tg.ga else none
    | _ => none

/-- The tree table of a record: 64 doublewords, or none when it cannot be read. -/
def readTrees (s : State) (pkg part priv : Nat) (ws : List Word) : Option (List Word) :=
  let a := (ws.getD 5 0).toNat
  if a = 0 then some []
  else if a % 64 ≠ 0 then none
  else allSome ((List.range 64).map (fun k => (translatePkg s pkg part priv ((a + 8 * k) % 2 ^ 64)).map s.rdWord))

/-- Whether a tree entry breaks R378. -/
def treeBad (place e : Nat) : Bool :=
  bits e 62 16 != 0 || (bits e 11 8 != 0 || (bitAt e 63 && (!bitAt place (bits e 15 12) || bits e 7 0 == 0)))

/-- Whether an unfinished launch of the partition defines a group that a table defines (R381 reason 9). -/
def treeTaken (s : State) (part : Nat) (trees : List Word) : Bool :=
  (List.range 64).any (fun g => bitAt (trees.getD g 0).toNat 63 && s.launches.any (fun x =>
    x.2.part == part && bitAt (x.2.trees.getD g 0).toNat 63))

/-- Whether a package can be reached through the partition's routes (R381 reason 10). -/
def reaches (s : State) (pkg part dest : Nat) : Bool :=
  dest == pkg || (s.part ⟨pkg, part⟩).routes.any (fun r => r.1 == dest && r.2 != 0)

/-- The first failing check of R381, or the tree table. -/
def checkRecord (s : State) (pkg part priv : Nat) (ws : List Word) : Except Nat (List Word) :=
  let p := s.part ⟨pkg, part⟩
  let w := recPlace ws
  let l := recLev ws
  let pkgs := recPkgs pkg ws
  let hosting := pkgs.filter (fun k => hosts s k part)
  if recResv ws then .error 1
  else if recEntry ws = 0 ∨ (recEntry ws).toNat % 8 ≠ 0 then .error 2
  else if levPrio l < p.pfloor then .error 3
  else if levelsOk l = false then .error 4
  else if bits w 15 0 = 0 ∨ bits w 15 14 ≠ 0 ∨
      hosting.any (fun k => (placeSlots w).any (fun b => !bitAt (s.part ⟨k, part⟩).slots b)) = true then .error 5
  else if levShares l < 8 ∨ 186 < levShares l ∨ hosting.any (fun k => (s.part ⟨k, part⟩).allot < recCrews ws * levShares l) = true then .error 6
  else if recRect s part ws pkgs then .error 7
  else if recQueue s part ws pkgs then .error 8
  else match readTrees s pkg part priv ws with
  | none => .error 9
  | some ts =>
    if ts.any (fun e => treeBad w e.toNat) ∨ treeTaken s part ts = true then .error 9
    else if pkgs.any (fun k => !reaches s pkg part k || !hosts s k part) then .error 10
    else if 1024 ≤ p.completions.length then .error 11
    else if p.resetting then .error 12
    else .ok ts

/-! ### Event ring (R395, R396) -/

/-- Adds an entry to what waits for the ring. -/
def ringEntry (p : PartRef) (e : RingEntry) (s : State) : State :=
  (s.updPart p (fun x => { x with held := x.held ++ [e] })).post .eventRingWrite (.part p)

/-- Raises the vector of a function. -/
def raiseVector (pkg fn : Nat) (s : State) : State := s.updPkg pkg (fun x => { x with vectors := x.vectors ++ [fn] })

/-- Writes the oldest held entry to host memory, then the notify word, then raises the vector (R395). -/
def writeRing (p : PartRef) (s : State) : State :=
  let x := s.part p
  match x.held with
  | [] => s
  | e :: rest =>
    if ringRoom x = 0 then s
    else
      let n := x.erSeq + 1
      let ws := [word (e.ty + n * 2 ^ 16), word e.time, e.w0, e.w1] ++ (List.range 4).map (fun k => e.detail.getD k 0)
      let s := putWords (hostAddr p.pkg (x.erBase.toNat + (n - 1) % 2 ^ x.erSize * 64)) ws s
      let s := putWords (hostAddr p.pkg x.erNote.toNat) [word n] s
      let s := s.updPart p (fun x => { x with
        held := rest, erSeq := n, completions := if e.ty = 1 then x.completions.del (e.w0.toNat % 2 ^ 32) else x.completions })
      let s := if x.erIntc then raiseVector p.pkg (1 + p.part) s else s
      if rest.isEmpty then s else s.post .eventRingWrite (.part p)

/-- EVENT_RING_WRITE. -/
def execEventRingWrite (s : State) : Host.Outcome State Fault Refusal :=
  match s.obj with
  | .part p => .next (writeRing p s)
  | _ => .next s

/-! ### Acceptance (R381, R384, R402) -/

/-- The next launch number of a partition on a package. -/
def nextSeq (n : Nat) : Nat := if 262143 ≤ n then 1 else n + 1

/-- The ID of a launch (R384). -/
def launchId (pkg part n : Nat) : Nat := part * 2 ^ 28 + pkg * 2 ^ 18 + n

/-- The first launch number from `n` on that no launch has (R384); only after a device reset can one have it. -/
def freeSeq (s : State) (pkg part : Nat) : Nat → Nat → Nat
  | 0, n => n
  | k + 1, n => if (s.launches.get? (launchId pkg part n)).isSome then freeSeq s pkg part k (nextSeq n) else n

/-- An accepted record enters its package's launch queue, with an entry in the completion table; the launch keeps the partition's
configuration on every package that hosts it (R392). -/
def acceptLaunch (x : Submission) (trees : List Word) (s : State) : State × Nat :=
  let p : PartRef := ⟨x.pkg, x.part⟩
  let n := freeSeq s x.pkg x.part s.launches.length (nextSeq (s.part p).seq)
  let id := launchId x.pkg x.part n
  let s := s.updPart p (fun y => { y with seq := n, completions := y.completions.set id none })
  let l : Launch := ⟨x.pkg, x.part, x.words, trees, recPkgs x.pkg x.words, s.fresh, [], false, 0, 0, 0, [], [], false,
    (s.parts.filter (fun e => e.1.part == x.part)).map (fun e => (e.1.pkg, e.2.cfg)), []⟩
  (({ s.tick with launches := s.launches.set id l }).post .launchClaim .none, id)

/-- The answer to a submission (R119, R402): the launch ID, or the reason of its rejection. -/
def answerSub (x : Submission) (r : Except Nat Nat) (s : State) : State :=
  match x.src with
  | .thread tid d => finish tid d (match r with | .ok id => word id | .error k => refusalWord k) s
  | .host p tag =>
    let s := s.updPart p (fun y => match r with
      | .ok id => { y with lmBusy := false, lmDone := true, lmReason := 0, lmId := id }
      | .error k => { y with lmBusy := false, lmDone := true, lmReason := k, lmId := 0 })
    match r with
    | .ok _ => s
    | .error k => ringEntry p ⟨2, s.now p.pkg, word tag, word k, []⟩ s

/-- LAUNCH_CHECK (R381); a record whose partition's reset was requested while it was checked gets reason 12 (R397, R402). -/
def execLaunchCheck (s : State) : Host.Outcome State Fault Refusal :=
  match s.obj with
  | .num q =>
    match s.subs.get? q with
    | none => .next s
    | some x =>
      let s := { s with subs := s.subs.del q }
      let priv := match x.src with
        | .thread tid _ => ((s.thread? tid).map (·.priv)).getD 0
        | .host _ _ => 0
      match (if x.reset then .error 12 else checkRecord s x.pkg x.part priv x.words) with
      | .error k => .next (answerSub x (.error k) s)
      | .ok ts =>
        let y := acceptLaunch x ts s
        .next (answerSub x (.ok y.2) y.1)
  | _ => .next s

/-! ### Claim and start (R382, R383) -/

/-- The next package that a waiting launch claims. -/
def nextPkg (x : Launch) : Option Nat :=
  if x.started then none
  else (x.pkgs.filter (fun p => !x.claimed.contains p)).foldl (fun a p => match a with
    | none => some p
    | some q => some (min p q)) none

/-- Rank of a partition in the round of a priority: after the one claimed last. -/
def roundRank (last : Option Nat) (part : Nat) : Nat :=
  match last with
  | none => part
  | some l => (part + 16 - (l + 1)) % 16

/-- Key of a waiting launch in the order of claims on a package. -/
def claimKey (s : State) (pkg : Nat) (x : Launch) : Nat :=
  let prio := levPrio (recLev x.words)
  (prio * 16 + roundRank ((s.pkg pkg).rrPart.get? prio) x.part) * 2 ^ 64 + x.order

def insertLaunch (key : Launch → Nat) (e : Nat × Launch) : List (Nat × Launch) → List (Nat × Launch)
  | [] => [e]
  | x :: xs => if key e.2 < key x.2 then e :: x :: xs else x :: insertLaunch key e xs

/-- The launches that wait for a package, in the order of R382. -/
def waitingOn (s : State) (pkg : Nat) : List (Nat × Launch) :=
  (s.launches.filter (fun e => nextPkg e.2 == some pkg)).foldl (fun l e => insertLaunch (claimKey s pkg) e l) []

/-- The slots that a launch takes on a package. -/
def claimSlots (x : Launch) (pkg : Nat) : List Pos :=
  let w := recPlace x.words
  (rectTiles w pkg).flatMap (fun tl => (coresOf tl).flatMap (fun c => (placeSlots w).map c.pos))

/-- Base shares that a launch takes on a package. -/
def claimCost (x : Launch) : Nat := recCrews x.words * levShares (recLev x.words)

/-- Whether a pool and `more` that is to come to it can pay for new crews, beside what it holds for others. -/
def poolPays (s : State) (p : PartRef) (more n : Nat) : Bool := n + poolReserved s p ≤ (s.part p).pool + more

/-- Whether a claim can be made: of tiles in the available set (R410), with their slots free, by a pool that can pay, with `more` shares. -/
def claimReady (s : State) (x : Launch) (pkg more : Nat) : Bool :=
  poolPays s ⟨pkg, x.part⟩ more (claimCost x) && ((rectTiles (recPlace x.words) pkg).all (fun tl => !tileGone s tl) &&
    (claimSlots x pkg).all (fun p => slotFree s p))

/-- The first launch in order that may claim: no earlier one waits for a slot of its. -/
def firstClaim (s : State) (pkg : Nat) (more : Nat → Nat) : List Launch → List (Nat × Launch) → Option Nat
  | _, [] => none
  | before, e :: es =>
    if claimReady s e.2 pkg (more e.2.part) && before.all (fun y => !(claimSlots e.2 pkg).any (fun p => y.wants p)) then some e.1
    else firstClaim s pkg more (e.2 :: before) es

/-- Starts a thread, at its slot's next own cycle (R383); HTAB keeps the bits it has (R65). -/
def startThread (id : Nat) (x : Launch) (pkgi row col : Nat) (p : Pos) (s : State) : State :=
  let gen := s.gens.getD p 0 % 31 + 1
  let e : BitVec 32 := BitVec.ofNat 32 (gen * 2 ^ 27 + p.pkg * 2 ^ 17 + p.die * 2 ^ 15 + p.tile * 2 ^ 7 + p.core * 16 + p.slot)
  let g2 := word (pkgi * 2 ^ 48 + row * 2 ^ 40 + col * 2 ^ 32 + p.core * 256 + p.slot)
  let htab := word ((s.cfg p.pkg x.part id).htabs.getD (bits (recPlace x.words) 45 43) 0) &&& 0xFFFFFFFFFFFC0
  let t := { Thread.init p x.part id e (recEntry x.words) (x.words.getD 1 0) g2 htab with notBefore := s.nextOwn p }
  let s := { s with threads := s.threads ++ [(s.nextTid, t)], nextTid := s.nextTid + 1, gens := s.gens.set p gen }
  addFocus p.coreRef (setDir t (.slot p) { s with launches := s.launches.upd id (fun y =>
    { y with threads := y.threads + 1, eps := y.eps ++ [(p, e)] }) })

/-- Loads the routers of a launch's trees and starts every thread of it (R360, R383). -/
def startLaunch (id : Nat) (x : Launch) (s : State) : State :=
  let w := recPlace x.words
  let rs := treeRouters x s.fresh
  let s := { s with
    launches := s.launches.upd id (fun y => { y with started := true, routers := rs })
    fresh := s.fresh + rs.length }
  x.pkgs.zipIdx.foldl (fun s (pk, i) =>
    (rectTiles w pk).foldl (fun s tl =>
      (coresOf tl).foldl (fun s c =>
        (placeSlots w).foldl (fun s k =>
          startThread id x i (tl.row - placeRow0 w) (tl.col - placeCol0 w) (c.pos k) s) s) s) s) s

/-- The crews of a launch on a package receive their base shares, which the pool pays first (R324). -/
def fundCrews (id : Nat) (x : Launch) (pkg : Nat) (s : State) : State :=
  let p : PartRef := ⟨pkg, x.part⟩
  let n := levShares (recLev x.words)
  let s := debitPool p (claimCost x) s
  (rectTiles (recPlace x.words) pkg).foldl (fun s tl => (placeSlots (recPlace x.words)).foldl (fun s k =>
    { s with crews := s.crews.set ⟨tl.pkg, tl.die, tl.tile, k, id⟩ (Crew.init x.part id n) }) s) s

/-- One claim on a package, and the start of a launch that has claimed its last. -/
def claimOn (id : Nat) (x : Launch) (pkg : Nat) (s : State) : State :=
  let s := fundCrews id x pkg s
  let s := s.updPkg pkg (fun y => { y with rrPart := y.rrPart.set (levPrio (recLev x.words)) x.part })
  let x' := { x with claimed := x.claimed ++ [pkg] }
  let s := { s with launches := s.launches.upd id (fun _ => x') }
  if (nextPkg x').isNone then startLaunch id x' s else s

/-- A claim that can be made now: package and launch (R382). -/
def claimNow (s : State) : Option (Nat × Nat) :=
  (s.pkgs.map (·.1)).findSome? (fun p => (firstClaim s p (fun _ => 0) [] (waitingOn s p)).map (fun id => (p, id)))

/-- A pool whose slack a claim waits for: with it and with what is on its way to the pool the claim could be made (R337, R382). -/
def claimSlack (s : State) : Option PartRef :=
  if s.launches.all (fun e => e.2.started) then none
  else (s.pkgs.map (·.1)).findSome? (fun k =>
    let lent := fun (part : Nat) => ((s.part ⟨k, part⟩).slackOut.map (·.2)).sum
    match (firstClaim s k (fun part => lent part + poolComing s ⟨k, part⟩) [] (waitingOn s k)).bind s.launches.get? with
    | some x => if lent x.part = 0 then none else some ⟨k, x.part⟩
    | none => none)

/-- LAUNCH_CLAIM (R382): one claim that can be made, and then the others. -/
def execLaunchClaim (s : State) : Host.Outcome State Fault Refusal :=
  match claimNow s with
  | none => .next s
  | some (p, id) => match s.launches.get? id with
    | none => .next s
    | some x => .next ((claimOn id x p s).post .launchClaim .none)

/-! ### Completion (R388 to R390) -/

/-- The completion word (R389). -/
def completionWord (id : Nat) (x : Launch) : Word := word (b2n x.reset * 2 ^ 62 + min x.nkill 0xFFFF * 2 ^ 32 + id)

/-- A partition with no launch running and none queued holds no join slot (R394). -/
def freeIdle (part : Nat) (s : State) : State :=
  if s.launches.any (fun e => e.2.part == part) then s
  else { s with joins := s.joins.map (fun (e : (DieRef × Nat) × Join) =>
    (e.1, if e.2.part = part then { Join.init with gen := e.2.gen } else e.2)) }

/-- The completion reaches the table or the ring, if its package still hosts the partition, and every LWAIT parked on it. -/
def completeLaunch (id : Nat) (x : Launch) (s : State) : State :=
  let p : PartRef := ⟨x.pkg, x.part⟩
  let w := completionWord id x
  let ws := s.threads.filterMap (fun e => match e.2.wait with
    | some (.lwait d k) => if k = id ∧ e.2.part = x.part then some (e.1, d) else none
    | _ => none)
  let s := freeIdle x.part { s with launches := s.launches.del id }
  let s := if (s.parts.get? p).isNone then s
    else if bitAt (recPlace x.words) 42 then
      ringEntry p ⟨1, s.now x.pkg, w, 0, []⟩ (s.updPart p (fun y => { y with completions := y.completions.set id (some w) }))
    else s.updPart p (fun y => { y with
      completions := if ws.isEmpty then y.completions.set id (some w) else y.completions.del id })
  ws.foldl (fun s e => finish e.1 e.2 w s) s

/-! ### Partition reset (R397) -/

/-- A thread is retired by its partition's reset, which no count names (R297): no replay, and all that it holds is given back, its relaxed
accesses of its own package done; one between packages has left its shares with the pool of the first (R334). -/
def resetThread (tid : Nat) (s : State) : State :=
  match s.thread? tid with
  | none => s
  | some t =>
    let s := withdraw tid (performRelaxed t (finishTail tid s))
    let s := { s with reqs := s.reqs.filter (fun (e : Nat × SpanReq) => e.2.acc.tid != tid) }
    let s := match t.place with
      | .flight a b => if a.pkg = b.pkg then s else s.updThread tid (fun t => { t with visitor := 0 })
      | _ => s
    removeThread tid false (releaseAll tid (killJobs t.pos.tileRef tid (discardSfu tid s)))

/-- Queues, joins and groups of a partition are emptied, freed and closed (R397 step 3). -/
def resetQueues (part : Nat) (s : State) : State :=
  { s with
    taskQueues := s.taskQueues.map (fun (e : TaskQueueRef × TaskQueue) =>
      (e.1, if e.2.part = some part then { e.2 with isOpen := false, packets := [], waiters := [], posters := [] } else e.2))
    joins := s.joins.map (fun (e : (DieRef × Nat) × Join) => (e.1, if e.2.part = part then { Join.init with gen := e.2.gen } else e.2))
    groups := s.groups.filter (fun (e : (Nat × Nat) × Group) => e.1.1 != part)
    contribs := s.contribs.filter (fun (e : Nat × Contribution) => e.2.part != part)
    parts := s.parts.map (fun (e : PartRef × Part) => (e.1, if e.1.part = part then { e.2 with rangeTab := [] } else e.2))
    ports := s.ports.map (fun (e : PortRef × SpanPort) => (e.1, { e.2 with redSlots := e.2.redSlots.filter (fun r => r.1 != part) })) }

/-- Every share that a partition's crews and loans hold on a package, or that is on its way to one, returns to its pool (R397 step 4). -/
def resetShares (p : PartRef) (s : State) : State :=
  let s := reclaimSlack p s
  let mine := fun (c : CrewRef) => c.pkg == p.pkg && ((s.crew? c).map (·.part)) == some p.part
  let own := (s.crews.filter (fun e => mine e.1)).map (fun e => (e.1, ownHeld s e.1))
  let lent := s.loans.filter (fun l => mine l.owner)
  let s := { s with
    loans := s.loans.filter (fun l => !mine l.owner)
    crews := s.crews.filter (fun (e : CrewRef × Crew) => !mine e.1)
    transits := s.transits.map (fun (e : Nat × Transit) => match e.2.dest with
      | .own c => if mine c then (e.1, { e.2 with dest := .pool p }) else e
      | .away c => if mine c then (e.1, { e.2 with dest := .pool p }) else e
      | .visitor _ c none => if mine c then (e.1, { e.2 with dest := .pool p }) else e
      | _ => e) }
  let s := lent.foldl (fun s l => match l.at_ with
    | .held => sendShares (some l.holder.tileRef) l.amount (.pool p) s
    | .pool => s
    | _ => sendShares l.leaves l.amount (.pool p) s) s
  own.foldl (fun s e => sendShares (some e.1.tileRef) e.2 (.pool p) s) s

/-- Steps 1 to 4 of the reset of a partition, on every package (R397); its running launches wait for what its threads had begun (R391). -/
def resetWork (part : Nat) (s : State) : State :=
  let gone := (s.launches.filter (fun e => e.2.part == part && !e.2.started)).map (·.1)
  let s := { s with
    launches := s.launches.filter (fun (e : Nat × Launch) => !gone.contains e.1)
    parts := s.parts.map (fun (e : PartRef × Part) =>
      (e.1, { e.2 with completions := e.2.completions.filter (fun (c : Nat × Option Word) => !gone.contains c.1) })) }
  let s := { s with msgs := s.msgs.filter (fun (e : Nat × Msg) => e.2.part != part) }
  let s := (s.tids (fun t => t.part == part)).foldl (fun s t => resetThread t s) s
  let s := resetQueues part s
  let s := ((s.parts.map (·.1)).filter (fun p => p.part == part)).foldl (fun s p => resetShares p s) s
  { s with launches := s.launches.map (fun (e : Nat × Launch) =>
    (e.1, if e.2.part = part then { e.2 with reset := true, packets := 0 } else e.2)) }

/-- Step 5: every launch completes, one RESET entry is written on each package, and records are accepted again (R397). -/
def resetEnd (part : Nat) (s : State) : State :=
  let ps := (s.parts.map (·.1)).filter (fun p => p.part == part)
  let run := s.launches.filter (fun e => e.2.part == part)
  let s := run.foldl (fun s e => completeLaunch e.1 e.2 s) s
  let s := ps.foldl (fun s p => ringEntry p ⟨4, s.now p.pkg, word (run.filter (fun e => e.2.pkg == p.pkg)).length, 0, []⟩
    (tenantEvent p (s.updPart p (fun x => { x with resetting := false })))) s
  s.post .launchClaim .none

/-- The reset of a partition on every package; its end follows the last access of its launches (R391, R397). -/
def resetPartition (part : Nat) (s : State) : State :=
  let s := resetWork part s
  if s.launches.any (fun e => e.2.part == part && e.2.threads != 0) then s else resetEnd part s

/-- LAUNCH_COMPLETE (R388); the launches of a partition under reset complete together, when the last of them can (R397). -/
def execLaunchComplete (s : State) : Host.Outcome State Fault Refusal :=
  match s.obj with
  | .num id =>
    match s.launches.get? id with
    | some x => .next (if x.started ∧ x.threads = 0 ∧ x.packets = 0 then
        (if x.reset = false then completeLaunch id x s
         else if s.launches.any (fun e => e.2.part == x.part && e.2.threads != 0) then s
         else resetEnd x.part s) else s)
    | none => .next s
  | _ => .next s

/-- From the request of a partition's reset on its new records are rejected, and those under check will be (R397, R402). -/
def askReset (part : Nat) (s : State) : State :=
  { s with
    parts := s.parts.map (fun (e : PartRef × Part) => (e.1, if e.1.part = part then { e.2 with resetting := true } else e.2))
    subs := s.subs.map (fun (e : Nat × Submission) => (e.1, if e.2.part = part then { e.2 with reset := true } else e.2)) }

/-- PARTITION_RESET (R397), as the host's PRESET or the hypervisor asks for it. -/
def execPartitionReset (s : State) : Host.Outcome State Fault Refusal :=
  match s.obj with
  | .part p => .next (resetPartition p.part (askReset p.part s))
  | _ => .next s

/-! ### Registers of a partition function (R400 to R402) -/

/-- The partition of a function that is set up. -/
def fnPart (s : State) (pkg fn : Nat) : Option PartRef :=
  if 1 ≤ fn ∧ (s.parts.get? ⟨pkg, fn - 1⟩).isSome then some ⟨pkg, fn - 1⟩ else none

/-- A write to a register of a partition function. -/
def onFn (s : State) (f : PartRef → Word → State) : Host.Outcome State Fault Refusal :=
  match s.obj with
  | .reg pkg fn _ w => match fnPart s pkg fn with
    | some p => .next (f p w)
    | none => .next s
  | _ => .next s

/-- A write ignored while BUSY is counted (R402). -/
def dropWrite (p : PartRef) (s : State) : State := s.updPart p (fun x => { x with lmDrop := min 0xFFFF (x.lmDrop + 1) })

/-- LMDOOR (R402): the staged record is submitted. -/
def execLmdoor (s : State) : Host.Outcome State Fault Refusal :=
  onFn s (fun p w =>
    if (s.part p).lmBusy then dropWrite p s
    else
      let q := s.fresh
      let x : Submission := ⟨.host p (w.toNat % 2 ^ 32), p.pkg, p.part, (s.part p).lmrec, none, false⟩
      let s := s.tick.updPart p (fun y => { y with lmBusy := true, lmDone := false })
      ({ s with subs := s.subs.set q x }).post .launchCheck (.num q))

/-- The queue that a doorbell names. -/
def doorQueue (p : PartRef) (w : Word) : TaskQueueRef := ⟨p.pkg, bits w.toNat 7 6, bits w.toNat 5 0⟩

/-- The staged packet is pushed, or the result says why not; BUSY ends. -/
def pushHost (p : PartRef) (s : State) : State :=
  let x := s.part p
  let q := doorQueue p (word x.hpDoor)
  let k := s.taskQueue q
  let r := if k.part ≠ some p.part ∨ k.isOpen = false then 2 else if packetMalformed x.hpkt then 3 else if 256 ≤ k.packets.length then 1 else 0
  let s := s.updPart p (fun x => { x with hpResult := r, hpBusy := false })
  if r = 0 then serveQueue q (s.updTaskQueue q (fun k => { k with packets := k.packets ++ [⟨x.hpkt, none⟩] })) else s

/-- HPDOOR (R401, R402): the write sets BUSY; the same event on the partition then pushes the staged packet. -/
def execHpdoor (s : State) : Host.Outcome State Fault Refusal :=
  match s.obj with
  | .part p => .next (if (s.part p).hpBusy then pushHost p s else s)
  | _ => onFn s (fun p w =>
    if (s.part p).hpBusy then dropWrite p s
    else (s.updPart p (fun x => { x with hpBusy := true, hpDoor := w.toNat })).post .hpdoor (.part p))

/-- A queue is closed (R387, R398): TNEXT returns 0 to each waiter, parked TPOSTs return all ones. -/
def closeQueue (q : TaskQueueRef) (s : State) : State :=
  let x := s.taskQueue q
  let s := s.updTaskQueue q (fun x => { x with isOpen := false, waiters := [], posters := [] })
  let s := x.waiters.foldl (fun s w => match (s.thread? w).bind (·.wait) with
    | some (.tnext d _) => answerClosed w d s
    | _ => s) s
  x.posters.foldl (fun s w => match (s.thread? w).bind (·.wait) with
    | some (.tpost d _ _) => finish w d ones64 s
    | _ => s) s

/-- TQCLOSE (R401). -/
def execTqclose (s : State) : Host.Outcome State Fault Refusal :=
  onFn s (fun p w =>
    let q := doorQueue p w
    if (s.taskQueue q).part = some p.part ∧ (s.taskQueue q).isOpen = true then closeQueue q s else s)

/-- PRESET (R401, R402): the key requests the partition's reset, on every package; records under check will be rejected for it. -/
def execPreset (s : State) : Host.Outcome State Fault Refusal :=
  onFn s (fun p w => if w = 0x0000000000525354 then (askReset p.part s).post .partitionReset (.part p) else s)

/-- ERCONS (R401): room for held entries. -/
def execErcons (s : State) : Host.Outcome State Fault Refusal :=
  onFn s (fun p w => (s.updPart p (fun x => { x with erCons := w.toNat })).post .eventRingWrite (.part p))

/-- Whether the ring holds entries that the host has not consumed. -/
def ringUnread (x : Part) : Bool := x.erSeq - x.erCons != 0

/-- ERSIZE (R401). -/
def execErsize (s : State) : Host.Outcome State Fault Refusal :=
  onFn s (fun p w =>
    let k := w.toNat
    if ringUnread (s.part p) ∨ k < 4 ∨ 16 < k then s
    else (s.updPart p (fun x => { x with erSize := k })).post .eventRingWrite (.part p))

/-- A write to a register without an action of its own (R401). -/
def writeFn (p : PartRef) (off : Nat) (w : Word) (s : State) : State :=
  let x := s.part p
  if off % 8 ≠ 0 then s
  else if off < 0x80 then (if x.lmBusy then dropWrite p s else s.updPart p (fun x => { x with lmrec := x.lmrec.set (off / 8) w }))
  else if 0xC0 ≤ off ∧ off < 0x100 then
    (if x.hpBusy then dropWrite p s else s.updPart p (fun x => { x with hpkt := x.hpkt.set ((off - 0xC0) / 8) w }))
  else if off = 0x140 then (if ringUnread x ∨ w.toNat % 4096 ≠ 0 then s else s.updPart p (fun x => { x with erBase := w }))
  else if off = 0x150 then (if ringUnread x ∨ w.toNat % 8 ≠ 0 then s else s.updPart p (fun x => { x with erNote := w }))
  else if off = 0x160 then s.updPart p (fun x => { x with erIntc := w.getLsbD 0 })
  else s

/-- REGISTER_WRITE (R401, R414): function 0 holds MGINTC and the request buffer. -/
def execRegisterWrite (s : State) : Host.Outcome State Fault Refusal :=
  match s.obj with
  | .reg pkg fn off w =>
    if fn = 0 then
      if (s.pkg pkg).ready = false then .next s else
      let m := (s.pkg pkg).mgmt
      let put := fun (m : Mgmt) => s.updPkg pkg (fun x => { x with mgmt := m })
      if off = 0x18 then .next (put { m with intc := w.toNat % 4 })
      else if 0x1000 ≤ off ∧ off < 0x2000 ∧ off % 8 = 0 then
        .next (if m.busy then put { m with drop := min 0xFFFF (m.drop + 1) } else put { m with req := m.req.set ((off - 0x1000) / 8) w })
      else .next s
    else match fnPart s pkg fn with
    | some p => .next (writeFn p off w s)
    | none => .next s
  | _ => .next s

end Sys2Proof.Machine
end

