-- ==== Sys2Proof/Machine/Mem.lean ====
section
/-!
DEFINITION. Machine/Mem.lean: loads, stores, full/empty operations, atomics and locks (06 R94 to R110).
-/
namespace Sys2Proof.Machine
open Sys2Proof

/-- Effective address of format M (R94): base plus the offset in units of the size. -/
def eaM (base : Word) (i : BitVec 12) (size : Nat) : Word := base + word (2 ^ size) * i.signExtend 64

/-- A load of 2^size bytes (R99). -/
def loadReq (ea : Word) (size : Nat) (signed : Bool) (d : BitVec 6) : MemReq :=
  { ea := ea, bytes := 2 ^ size, kind := 0, op := .load (2 ^ size) signed, d := d.toNat, relax := true }

/-- A store of 2^size bytes (R99). -/
def storeReq (ea : Word) (size : Nat) (v : Word) : MemReq :=
  { ea := ea, bytes := 2 ^ size, kind := 1, op := .store (2 ^ size), a := v, store := true, relax := true }

/-- A full/empty operation on a 64-bit word (R101, R103). -/
def feReq (ea : Word) (op : AccOp) (d : Nat) (v : Word) (store : Bool) : MemReq :=
  { ea := ea, bytes := 8, kind := 3, op := op, d := d, a := v, ind := true, fe := true, store := store }

/-- An atomic (R105 to R107). -/
def atomicReq (ea : Word) (bytes : Nat) (op : AccOp) (d : BitVec 6) (a b : Word) : MemReq :=
  { ea := ea, bytes := bytes, kind := 3, op := op, d := d.toNat, a := a, b := b, ind := true, relax := true }

/-- LOCK and UNLK (R109). -/
def lockReq (ea : Word) (op : AccOp) (d : BitVec 6) : MemReq :=
  { ea := ea, bytes := 8, kind := 3, op := op, d := d.toNat, ind := true }

/-! ### Loads and stores (R98, R99) -/

def semLd (d a : BitVec 6) (i : BitVec 12) (m : BitVec 2) : Sem :=
  semMem [a] [d.toNat] (fun c => loadReq (eaM (c.g a) i m.toNat) m.toNat true d)
def semLdU (d a : BitVec 6) (i : BitVec 12) (m : BitVec 2) : Sem :=
  semMem [a] [d.toNat] (fun c => loadReq (eaM (c.g a) i m.toNat) m.toNat false d)
def semSt (t a : BitVec 6) (i : BitVec 12) (m : BitVec 2) : Sem :=
  semMem [t, a] [] (fun c => storeReq (eaM (c.g a) i m.toNat) m.toNat (c.g t))
def semLdx (d a b : BitVec 6) (z : BitVec 2) (u : BitVec 1) : Sem :=
  semMem [a, b] [d.toNat] (fun c => loadReq (c.g a + c.g b) z.toNat (u == 0#1) d)
def semStx (t a b : BitVec 6) (z : BitVec 2) : Sem :=
  semMem [t, a, b] [] (fun c => storeReq (c.g a + c.g b) z.toNat (c.g t))

/-! ### Full/empty words (R100 to R103) -/

def semLds (d a : BitVec 6) (i : BitVec 12) : Sem := semMem [a] [d.toNat] (fun c => feReq (eaM (c.g a) i 3) .lds d.toNat 0 false)
def semLdc (d a : BitVec 6) (i : BitVec 12) : Sem := semMem [a] [d.toNat] (fun c => feReq (eaM (c.g a) i 3) .ldc d.toNat 0 false)
def semStf (t a : BitVec 6) (i : BitVec 12) : Sem := semMem [t, a] [] (fun c => feReq (eaM (c.g a) i 3) .stf 0 (c.g t) true)
def semFeset (a : BitVec 6) : Sem := semMem [a] [] (fun c => feReq (c.g a) .feset 0 0 false)
def semFeclr (a : BitVec 6) : Sem := semMem [a] [] (fun c => feReq (c.g a) .feclr 0 0 false)
def semFetst (d a : BitVec 6) : Sem := semMem [a] [d.toNat] (fun c => feReq (c.g a) .fetst d.toNat 0 false)

/-! ### Atomics (R104 to R107) -/

def semAmo (d a b : BitVec 6) (o : BitVec 4) (z : BitVec 2) (k : BitVec 1) : Sem :=
  semMem [a, b] [d.toNat] (fun c => atomicReq (c.g a) (2 ^ z.toNat) (.amo o.toNat (2 ^ z.toNat) (k == 1#1)) d (c.g b) 0)
/-- CAS compares with its destination register, which it also reads (R106). -/
def semCas (d a b : BitVec 6) (z : BitVec 2) : Sem :=
  semMem [d, a, b] [d.toNat] (fun c => atomicReq (c.g a) (2 ^ z.toNat) (.cas (2 ^ z.toNat)) d (c.g b) (c.g d))
def semFamo (d a b : BitVec 6) (o : BitVec 2) (p : BitVec 1) : Sem :=
  semMem [a, b] [d.toNat] (fun c =>
    atomicReq (c.g a) (if p = 1#1 then 8 else 4) (.famo o.toNat (p == 1#1)) d (c.g b) 0)

/-! ### Locks (R108 to R110) -/

def semLock (d a : BitVec 6) : Sem := semMem [a] [d.toNat] (fun c => lockReq (c.g a) .lock d)
def semUnlk (d a : BitVec 6) : Sem := semMem [a] [d.toNat] (fun c => lockReq (c.g a) .unlk d)

/-- LD. -/
def execLd (d a : BitVec 6) (i : BitVec 12) (m : BitVec 2) (σ : State) : Host.Outcome State Fault Refusal := issueS (semLd d a i m) σ
/-- LD_U. -/
def execLdU (d a : BitVec 6) (i : BitVec 12) (m : BitVec 2) (σ : State) : Host.Outcome State Fault Refusal := issueS (semLdU d a i m) σ
/-- ST. -/
def execSt (t a : BitVec 6) (i : BitVec 12) (m : BitVec 2) (σ : State) : Host.Outcome State Fault Refusal := issueS (semSt t a i m) σ
/-- LDX. -/
def execLdx (d a b : BitVec 6) (z : BitVec 2) (u : BitVec 1) (σ : State) : Host.Outcome State Fault Refusal := issueS (semLdx d a b z u) σ
/-- STX. -/
def execStx (t a b : BitVec 6) (z : BitVec 2) (σ : State) : Host.Outcome State Fault Refusal := issueS (semStx t a b z) σ
/-- LDS. -/
def execLds (d a : BitVec 6) (i : BitVec 12) (σ : State) : Host.Outcome State Fault Refusal := issueS (semLds d a i) σ
/-- LDC. -/
def execLdc (d a : BitVec 6) (i : BitVec 12) (σ : State) : Host.Outcome State Fault Refusal := issueS (semLdc d a i) σ
/-- STF. -/
def execStf (t a : BitVec 6) (i : BitVec 12) (σ : State) : Host.Outcome State Fault Refusal := issueS (semStf t a i) σ
/-- FESET. -/
def execFeset (a : BitVec 6) (σ : State) : Host.Outcome State Fault Refusal := issueS (semFeset a) σ
/-- FECLR. -/
def execFeclr (a : BitVec 6) (σ : State) : Host.Outcome State Fault Refusal := issueS (semFeclr a) σ
/-- FETST. -/
def execFetst (d a : BitVec 6) (σ : State) : Host.Outcome State Fault Refusal := issueS (semFetst d a) σ
/-- AMO. -/
def execAmo (d a b : BitVec 6) (o : BitVec 4) (z : BitVec 2) (c : BitVec 1) (σ : State) : Host.Outcome State Fault Refusal := issueS (semAmo d a b o z c) σ
/-- CAS. -/
def execCas (d a b : BitVec 6) (z : BitVec 2) (σ : State) : Host.Outcome State Fault Refusal := issueS (semCas d a b z) σ
/-- FAMO. -/
def execFamo (d a b : BitVec 6) (o : BitVec 2) (p : BitVec 1) (σ : State) : Host.Outcome State Fault Refusal := issueS (semFamo d a b o p) σ
/-- LOCK. -/
def execLock (d a : BitVec 6) (σ : State) : Host.Outcome State Fault Refusal := issueS (semLock d a) σ
/-- UNLK. -/
def execUnlk (d a : BitVec 6) (σ : State) : Host.Outcome State Fault Refusal := issueS (semUnlk d a) σ

end Sys2Proof.Machine
end

