-- ==== Sys2Proof/Machine/Messages.lean ====
section
/-!
DEFINITION. Machine/Messages.lean: how a SEND finds its target and is delivered, deferred, forwarded, resent or discarded (06 R126,
08 R150, 22 R359).
-/
namespace Sys2Proof.Machine
open Sys2Proof

def updMsg (id : Nat) (f : Msg → Msg) (s : State) : State := { s with msgs := s.msgs.upd id f }

/-- A message is done with: its sender goes on, or its posted operation is acknowledged (R126, R136). -/
def endMsg (id : Nat) (m : Msg) (s : State) : State :=
  let s := { s with msgs := s.msgs.del id }
  let s := match m.sender with
    | some tid => wakeIf (.send id) tid s
    | none => s
  match m.posted with
  | some tid => settleLinger tid (checkFence tid (s.updThread tid (fun t => { t with posted := t.posted - 1 })))
  | none => s

/-- A message that finds no live target is discarded and counted (R126). -/
def discardMsg (id : Nat) (m : Msg) (s : State) : State := reportFault ⟨m.src.pkg, m.part⟩ 2 [] (endMsg id m s)

/-- The delivery or deferral is accepted: the sender's core learns the position (R359). -/
def acceptMsg (id : Nat) (m : Msg) (s : State) : State := endMsg id m { s with learned := s.learned.set (m.src, m.epid) m.at_ }

/-- Messages to the same thread that began to wait before this one. -/
def waitingBefore (s : State) (id : Nat) (e : BitVec 32) : List Msg :=
  ((s.msgs.takeWhile (fun x => x.1 != id)).filter (fun x => x.2.waiting && x.2.epid == e)).map (·.2)

/-- The message waits where it is, behind those that wait already. -/
def holdMsg (id : Nat) (m : Msg) (s : State) : State :=
  if m.waiting then s else { s with msgs := s.msgs.del id ++ [(id, { m with waiting := true })] }

/-- A free inbox entry of a context image (R158). -/
def imageInbox (s : State) (b : Nat) : Option Nat := (List.range 8).find? (fun k => s.rdWord (b + 680 + 16 * k) == 0)

/-- A message at the tile of its target (R126, R150): written, held for an owed result, deferred, or made to wait. -/
def meetTarget (id : Nat) (m : Msg) (tid : Nat) (t : Thread) (s : State) : State :=
  let ahead := waitingBefore s id m.epid
  match imageOf s t with
  | some b =>
    (match imageInbox s b, ahead with
     | some k, [] => acceptMsg id m ((putWords (b + 680 + 16 * k) [word m.reg, m.val] s).updThread tid (fun t =>
         { t with inbox := t.inbox ++ [(false, m.reg, m.val)] }))
     | _, _ => holdMsg id m s)
  | none =>
    if t.defers || t.pend.getLsbD m.reg then
      if 8 ≤ t.inbox.length ∨ ahead ≠ [] then holdMsg id m s
      else acceptMsg id m (s.updThread tid (fun t => { t with inbox := t.inbox ++ [(!t.defers, m.reg, m.val)] }))
    else if ahead.any (fun x => x.reg == m.reg) then holdMsg id m s
    else acceptMsg id m (deliver tid m.reg m.val s)

/-- A message goes back MOVED to its sender's core (R359). -/
def goBack (id : Nat) (s : State) : State :=
  (updMsg id (fun m => { m with moved := true, waiting := false }) s).post .messageDelivery (.num id)

/-- A message on its way back reaches its sender's package, where slot 14 of the sender's core takes it (R126, R359). -/
def comeBack (id : Nat) (m : Msg) (s : State) : State :=
  if routed s m.from_ m.part m.launch m.src.pkg then addFocus m.src (updMsg id (fun m => { m with from_ := m.src.pkg }) s) else s

/-- One attempt at delivery (R359): at the target, at its stub, or back to the sender's core; each way waits for a route (R350). -/
def tryDeliver (id : Nat) (s : State) : State :=
  match s.msgs.get? id with
  | none => s
  | some m =>
    if m.moved then comeBack id m s
    else if routed s m.from_ m.part m.launch m.at_.pkg = false then s
    else
      let m := { m with from_ := m.at_.pkg, retry := false }
      let s := updMsg id (fun _ => m) s
      let lost := fun (s : State) => if m.hops < 4 ∧ (stubAt s m.at_ m.epid).isSome then s.post .sendForward (.num id) else goBack id s
      match s.threads.find? (fun x => x.2.epid == m.epid) with
      | none => lost s
      | some (tid, t) =>
        match t.place with
        | .slot p => if p.tileRef = m.at_ then meetTarget id m tid t s else lost s
        | .image h _ => if h = m.at_ then meetTarget id m tid t s else lost s
        | .flight src _ => if src.tileRef = m.at_ then holdMsg id m s else lost s

/-- An event on a message. -/
def onMsg (s : State) (f : Nat → Msg → State) : Host.Outcome State Fault Refusal :=
  match s.obj with
  | .num id => match s.msgs.get? id with
    | some m => .next (f id m)
    | none => .next s
  | _ => .next s

/-- MESSAGE_DELIVERY (R126). -/
def execMessageDelivery (s : State) : Host.Outcome State Fault Refusal := onMsg s (fun id _ => tryDeliver id s)

/-- INBOX_RETRY (R150). -/
def execInboxRetry (s : State) : Host.Outcome State Fault Refusal := onMsg s (fun id m => if m.waiting then tryDeliver id (updMsg id (fun m => { m with retry := false }) s) else s)

/-- SEND_FORWARD (R359): the newest stub sends the message on, one hop. -/
def execSendForward (s : State) : Host.Outcome State Fault Refusal :=
  onMsg s (fun id m =>
    if m.moved then s
    else match stubAt s m.at_ m.epid with
    | some x => (updMsg id (fun m => { m with at_ := x.dest.tileRef, hops := m.hops + 1, waiting := false }) s).post .messageDelivery (.num id)
    | none => goBack id s)

/-- MOVED_RESEND (R126, R359), by slot 14 of the sender's core: the home's directory gives the position, or the message is discarded. -/
def execMovedResend (s : State) : Host.Outcome State Fault Refusal :=
  onMsg s (fun id m =>
    if m.resends s then
      (match (s.tile (epidHome m.epid)).dir.get? m.epid with
       | none => discardMsg id m s
       | some p => (updMsg id (fun m => { m with at_ := placeTile p, from_ := m.src.pkg, hops := 0, waiting := false, moved := false }) s).post
           .messageDelivery (.num id))
    else s)

/-- The work of slot 14 of a core with messages (R18, R126, R150, R359; log 45): the oldest to be sent again, or tried again at its target. -/
def commWork (s : State) (c : CoreRef) : Option (Instr × Obj) :=
  (s.msgs.find? (fun e => e.2.commCore s == some c)).map (fun e => (if e.2.moved then .movedResend else .inboxRetry, .num e.1))

/-- STUB_EXPIRY (R359). -/
def execStubExpiry (s : State) : Host.Outcome State Fault Refusal :=
  match s.obj with
  | .tile tl => .next (s.updTile tl (fun x => { x with stubs := x.stubs.filter (fun y => s.now tl.pkg < y.until_) }))
  | _ => .next s

end Sys2Proof.Machine
end

