-- ==== Sys2Proof/Machine/Span.lean ====
section
/-!
DEFINITION. Machine/Span.lean: replies, relaxed accesses, round trips and their reissue and loss, combining, links, and the answers of
the page walker (06 R62, R115, 08 R156, 22 R350 to R353, 24 R413).
-/
namespace Sys2Proof.Machine
open Sys2Proof

def updReq (q : Nat) (f : SpanReq → SpanReq) (s : State) : State := { s with reqs := s.reqs.upd q f }

/-- An event on a round trip. -/
def onReq (s : State) (f : Nat → SpanReq → State) : Host.Outcome State Fault Refusal :=
  match s.obj with
  | .num q => match s.reqs.get? q with
    | some r => .next (f q r)
    | none => .next s
  | _ => .next s

/-! ### Relaxed accesses (R115, R132) -/

/-- A relaxed access has completed: its register is filled, waits for it are served, the thread's next relaxed access to its word is under
way, and a kill that waited for it is due (R21, R115, R132, R310). -/
def relaxedDone (tid : Nat) (a : Access) (v : Word) (s : State) : State :=
  let s := s.updThread tid (fun t => { t with relaxed := t.relaxed.filter (fun x => x.id != a.id) })
  let s := checkFence tid (regWrite tid a.d v s)
  match s.thread? tid with
  | none => s
  | some t =>
    let s := match t.relaxed.find? (fun x => x.pa / 8 == a.pa / 8) with
      | none => s
      | some x => if (s.reqs.get? x.id).isSome then sendReq x.id s else s.post .relaxedReply (.threadNum tid x.id)
    killBoundary tid s

/-- A request is answered: it is gone, and a posted store no longer holds its thread's FENCE.H (R136, R351). -/
def closeReq (q : Nat) (r : SpanReq) (s : State) : State :=
  let s := { s with reqs := s.reqs.del q }
  if r.posted then s.updThread r.acc.tid (fun t => { t with posted := t.posted - 1 }) else s

/-- RELAXED_REPLY: a local relaxed access takes its place and completes; a remote one completes with its reply. -/
def execRelaxedReply (s : State) : Host.Outcome State Fault Refusal :=
  match s.obj with
  | .threadNum tid id =>
    match s.thread? tid with
    | none => .next s
    | some t => match t.relaxed.find? (fun x => x.id == id) with
      | none => .next s
      | some a =>
        if relaxedBefore t a ∨ (56 ≤ a.d ∧ a.d ≤ 59 ∧ queueFull s t a.d = true) then .next s
        else match s.reqs.get? id with
        | some r => match r.result with
          | some v => .next (relaxedDone tid a v (closeReq id r s))
          | none => .next s
        | none => match performAt a none s with
          | (s, some v) => .next (relaxedDone tid a v s)
          | (s, none) => .next s
  | _ => .next s

/-! ### Replies (R62, R351) -/

/-- The reply of a round trip reaches its thread; a retired one's launch may have waited for it, and a kill may (R21, R137, R310). -/
def replyReq (q : Nat) (r : SpanReq) (v : Word) (s : State) : State :=
  let tid := r.acc.tid
  match s.thread? tid with
  | none => settleLinger tid (closeReq q r s)
  | some t =>
    if r.relaxed then s.post .relaxedReply (.threadNum tid q)
    else
      let s := closeReq q r s
      killBoundary tid (if r.posted then checkFence tid s else if t.wait = some (.remote q) then finish tid r.acc.d v s else s)

/-- The answer to a thread's request that its own core waits for: JOPEN's reads, COPEN, LWAIT (R304, R351); without a route it waits. -/
def replyKey (q : Nat) (r : KeyReq) (s : State) : State :=
  if keyRouted s r = false then s
  else match r.op with
  | .openAt ga => openArrive q r ga s
  | .group k ga gb => groupArrive q r k ga gb s
  | .lwait id => lwaitArrive r.tid r.d id r.part { s with keyReqs := s.keyReqs.del q }
  | _ => s

/-- MEMORY_REPLY (R62): the reply of an ordinary access, or of a round trip. -/
def execMemoryReply (s : State) : Host.Outcome State Fault Refusal :=
  match s.obj with
  | .thread tid => match (s.thread? tid).bind (·.wait) with
    | some (.reply d v) => .next (finish tid d v s)
    | _ => .next s
  | .num q => match s.reqs.get? q, s.keyReqs.get? q with
    | some r, _ => match r.result with
      | some v => .next (replyReq q r v s)
      | none => .next s
    | none, some r => .next (replyKey q r s)
    | none, none => .next s
  | _ => .next s

/-! ### At the destination (R352) -/

/-- Entries of indivisible accesses in use at a port: waiting ones and those with a result. -/
def cacheUsed (s : State) (p : PortRef) : Nat := ((s.port p).replies.filter (fun e => e.until_ == 0 || e.result.isSome)).length

/-- Whether a request waits at its destination's port because every entry of the reply cache is in use (R352). -/
def waitsEntry (s : State) (r : SpanReq) : Bool := !r.host && (!r.arrived && (r.acc.op.cached && 65536 ≤ cacheUsed s (replyPort r)))

/-- The merge that a request is part of. -/
def mergeOf (s : State) (q : Nat) : Option (Nat × Merge) := s.merges.find? (fun m => m.2.parts.contains q)

/-- Operand of a combinable addition, with its width in bytes. -/
def addOperand (s : State) (q : Nat) : Nat × Nat :=
  match s.reqs.get? q with
  | some r => match r.acc.op with
    | .amo _ n _ => (r.acc.a.toNat % 2 ^ (8 * n), n)
    | _ => (0, 4)
  | none => (0, 4)

/-- The merged request is performed: one addition of the sum (R353). -/
def performMerge (m : Nat) (x : Merge) (r : SpanReq) (s : State) : State :=
  let n := match r.acc.op with
    | .amo _ n _ => n
    | _ => 8
  let o := s.rd r.acc.pa n
  let sum := (x.parts.map (fun q => (addOperand s q).1)).sum
  let s := dropTlb (r.acc.pa / 8) (storeAt r.acc.pa n ((o + sum) % 2 ^ (8 * n)) s)
  let s := x.parts.foldl (fun s q => updReq q (fun r => { r with arrived := true }) s) s
  ({ s with merges := s.merges.upd m (fun x => { x with old := some o }) }).post .combineSplit (.num m)

/-- The first copy of a request is performed, or waits at its word, where its thread can take a kill (R21). -/
def firstCopy (q : Nat) (r : SpanReq) (s : State) : State :=
  let s := updReq q (fun r => { r with arrived := true }) s
  match performAt r.acc (some q) s with
  | (s, some v) => (updReq q (fun r => { r with result := some v }) (keepReply q r (some v) s)).post .memoryReply (.num q)
  | (s, none) => killBoundary r.acc.tid (updReq q (fun r => { r with waiting := true }) (keepReply q r none s))

/-- A store of a thread to host memory that has not become visible there (R136). -/
def hostStoreDue (tid : Nat) (e : Nat × SpanReq) : Bool :=
  e.2.host && (e.2.acc.tid == tid && (!e.2.arrived && (match e.2.acc.op with | .store _ => true | _ => false)))

/-- Whether a host store must wait for an earlier one of its thread: they become visible in program order (R136). -/
def behindStore (s : State) (q : Nat) (r : SpanReq) : Bool :=
  hostStoreDue r.acc.tid (q, r) && s.reqs.any (fun e => e.1 < q && hostStoreDue r.acc.tid e)

/-- After a host store the thread's next one is performed, if it has left (R136). -/
def nextStore (r : SpanReq) (s : State) : State :=
  match s.reqs.find? (hostStoreDue r.acc.tid) with
  | some e => if e.2.held then s else s.post .remoteRequest (.num e.1)
  | none => s

/-- Whether a request has a way to its destination (R350). -/
def reqRouted (s : State) (r : SpanReq) : Bool :=
  r.host || ((s.thread? r.acc.tid).map (fun t => routed s r.src.pkg t.part t.launch r.dest)).getD true

/-- REMOTE_REQUEST (R136, R351 to R353): performed, answered from the reply cache, answered with a wait reply, or held for a route, an
earlier store or a free entry. -/
def execRemoteRequest (s : State) : Host.Outcome State Fault Refusal :=
  onReq s (fun q r =>
    if r.held then s
    else if reqRouted s r = false then updReq q (fun r => { r with held := true }) s
    else if r.arrived then
      if r.waiting then s.post .waitReply (.num q)
      else if r.acc.op.isLoad then
        match performAt r.acc (some q) s with
        | (s, some v) => (updReq q (fun r => { r with result := some v }) s).post .memoryReply (.num q)
        | (s, none) => s
      else if r.result.isSome then s.post .memoryReply (.num q) else s
    else if behindStore s q r || waitsEntry s r then s
    else match mergeOf s q with
    | some (m, x) => performMerge m x r s
    | none => nextStore r (firstCopy q r s))

/-- WAIT_REPLY (R351): the count of reissues and the 20 µs start again. -/
def execWaitReply (s : State) : Host.Outcome State Fault Refusal :=
  onReq s (fun q r => if r.waiting then updReq q (fun x => { x with reissues := 0, sent := s.now r.src.pkg }) s else s)

/-- REPLY_CACHE_EXPIRY (R352): requests that wait at the port for an entry try again. -/
def execReplyCacheExpiry (s : State) : Host.Outcome State Fault Refusal :=
  match s.obj with
  | .port p =>
    let now := s.now p.pkg
    let s := s.updPort p (fun x => { x with replies := x.replies.filter (fun e => e.until_ == 0 || now < e.until_) })
    .next (s.reqs.foldl (fun s e => if !e.2.host && (!e.2.held && (!e.2.arrived && replyPort e.2 == p)) then
      s.post .remoteRequest (.num e.1) else s) s)
  | _ => .next s

/-! ### Reissue and loss (R351) -/

/-- Whether a request has stood without reply for 20 µs; one that waits for an entry of a reply cache only waits (R352). -/
def stale (s : State) (r : SpanReq) : Bool := !r.host && (!r.held && (!waitsEntry s r && r.sent + 20000 ≤ s.now r.src.pkg))

/-- REQUEST_REISSUE: the same tag again, at most four times. -/
def execRequestReissue (s : State) : Host.Outcome State Fault Refusal :=
  onReq s (fun q r =>
    if stale s r && r.reissues < 4 then
      let now := s.now r.src.pkg
      let s := s.updPort r.src (fun x => { x with used := x.used.set r.seq now })
      (updReq q (fun r => { r with reissues := r.reissues + 1, sent := now }) s).post .remoteRequest (.num q)
    else s)

/-- Number of a link in LINKCNT: CXL 0, Span port k at 1 + k, Ethernet port k at 13 + k (R415). -/
def bump (l : List Nat) (k : Nat) : List Nat := l.set k (l.getD k 0 + 1)

/-- A link event is counted by the firmware and reported to the affected partitions (R413, R396 KIND 6). -/
def linkEvent (pkg k : Nat) (ps : List Nat) (s : State) : State :=
  let s := s.updPkg pkg (fun x => { x with mgmt := { x.mgmt with links := bump x.mgmt.links k } })
  (ps.filter (fun p => (s.parts.get? ⟨pkg, p⟩).isSome)).foldl (fun s p => reportFault ⟨pkg, p⟩ 6 [] s) s

/-- The partitions of a package that a link serves. -/
def linkParts (s : State) (pkg k : Nat) : List Nat :=
  let ps := (s.parts.filter (fun e => e.1.pkg == pkg)).map (fun e => (e.1.part, e.2))
  if k = 0 then ps.map (·.1)
  else if k ≤ 12 then (ps.filter (fun e => e.2.routes.any (fun r => bitAt r.2 (k - 1)))).map (·.1)
  else
    let es := (s.eth.getD ⟨pkg, k - 13⟩ EthPort.init).streams
    (es.filterMap (fun e => if e.2.enabled then some (bits (e.2.desc.getD 1 0).toNat 56 53) else none)).eraseDups

/-- LINK_EVENT (R413). -/
def execLinkEvent (s : State) : Host.Outcome State Fault Refusal :=
  match s.obj with
  | .pkgNum p k => .next (if k < 17 then linkEvent p k (linkParts s p k) s else s)
  | _ => .next s

/-- The bundle of a lost request stands at its thread again, in its slot or in its image, with RLOST to come when it would issue (R351). -/
def loseParked (tid va kind : Nat) (s : State) : State :=
  match s.thread? tid with
  | none => s
  | some t =>
    let ds := match t.wait with
      | some w => owedBy s tid w
      | none => []
    let s := backOut tid s
    match imageOf s t with
    | none =>
      match s.thread? tid with
      | none => s
      | some t => if t.status = .parked then takeTrap tid cRLOST kind (word va) t.pc s
          else s.updThread tid (fun t => { t with lost := ⟨64, va, kind⟩ :: t.lost })
    | some b => (imageBackOut b t ds s).updThread tid (fun t => { t with status := .ready, lost := ⟨64, va, kind⟩ :: t.lost })

/-- Access kind of an operation (R66). -/
def AccOp.kind : AccOp → Nat
  | .load _ _ => 0
  | .store _ => 1
  | _ => 3

/-- The loss of a round trip: its port's link has an event, its thread takes RLOST, and what waited behind it goes on (R351, R352). -/
def loseReq (q : Nat) (r : SpanReq) (s : State) : State :=
  let tid := r.acc.tid
  let k := r.acc.op.kind
  let s := linkEvent r.src.pkg (1 + r.src.port) (((s.thread? tid).map (·.part)).toList) s
  let done := fun (s : State) => settleLinger tid { closeReply s (q, r) with
    reqs := s.reqs.del q
    feWaiters := s.feWaiters.filter (fun x => x.req != some q)
    lockWaiters := s.lockWaiters.filter (fun x => x.req != some q) }
  if r.relaxed then
    let s := done (s.updThread tid (fun t => { t with
      relaxed := t.relaxed.filter (fun x => x.id != q)
      lost := t.lost ++ [⟨r.acc.d, r.acc.va, k⟩]
      pend := t.pend &&& ~~~(1#64 <<< r.acc.d) }))
    let s := checkFence tid (wakeIf (.reg r.acc.d) tid s)
    match (s.thread? tid).bind (fun t => t.relaxed.find? (fun x => x.pa / 8 == r.acc.pa / 8)) with
    | some x => killBoundary tid (sendReq x.id s)
    | none => killBoundary tid s
  else match (s.thread? tid).bind (·.wait) with
    | some (.remote q') => killBoundary tid (if q' = q then done (loseParked tid r.acc.va k s) else done s)
    | _ => done s

/-- The package to which a parked thread's Keystone, collective or LWAIT request is carried, if it is another one. -/
def awayRequest (s : State) (tid : Nat) (t : Thread) : Option Nat :=
  let dest := match t.wait with
    | some .answer => (s.keyReqs.find? (fun e => e.2.tid == tid)).map (·.2.join.pkg)
    | some (.joinWait _ j _) => some j.pkg
    | some (.lwait _ id) => some (bits id 27 18)
    | some (.reg r) => if 52 ≤ r ∧ r ≤ 55 then some t.start.pkg else none
    | some (.cwait _ _) => some t.start.pkg
    | some (.cclose _ _) => some t.start.pkg
    | _ => none
  if dest = some t.pos.pkg then none else dest

/-- The address of a parked thread's lost request: that of the word that JOPEN reads; the others have none (R351). -/
def lostAddress (s : State) (tid : Nat) (t : Thread) : Nat :=
  match (s.keyReqs.find? (fun e => e.2.tid == tid)).map (fun e => e.2.op) with
  | some (KeyOp.openAt ga) => ((openWords s t ga).find? (fun a => (peerOf s t a).isSome)).getD 0
  | _ => 0

/-- The peer packages that a copy job still has elements or scale bytes on. -/
def jobPeers (s : State) (tl : TileRef) (j : CopyJob) : List Nat :=
  let peer := fun (va kind : Nat) (ind : Bool) => match jobTarget s tl j va kind ind with
    | .ok tg => if tg.aper = 1 then [tg.pkg] else []
    | .error _ => []
  let side := fun (x : Side) (kind : Nat) (ind : Bool) => (List.range (recTotal j.record - j.count)).flatMap (fun k =>
    peer (elemAddr j.record x (j.count + k)).1 kind ind ++ (if x.kind.isMx then peer (scaleAddr j.record x (j.count + k)) kind ind else []))
  side (srcSide j.record j.src) (if j.consume then 3 else 0) j.consume ++
    (if j.stream then [] else side (dstSide j.record j.dst) 1 j.fill)

/-- A request that went from one package to another is lost: a link event of the port it left by, and what follows. One that has no
route waits and is not lost (R350, R351). -/
def lostAway (pkg part launch dest : Nat) (f : State → State) (s : State) : State :=
  match routePort s pkg part launch dest with
  | none => s
  | some p => f (linkEvent pkg (1 + p.port) [part] s)

/-- REQUEST_LOST (R351): a round trip after its fourth reissue, a request of an engine's unit for a thread, a SEND, a copy job's. -/
def execRequestLost (s : State) : Host.Outcome State Fault Refusal :=
  match s.obj with
  | .num q =>
    match s.reqs.get? q, s.msgs.get? q with
    | some r, _ => .next (if stale s r && 4 ≤ r.reissues then loseReq q r s else s)
    | none, some m => .next (if m.posted.isSome && (!m.waiting && !m.moved) then lostAway m.from_ m.part m.launch m.at_.pkg (discardMsg q m) s else s)
    | none, none => .next s
  | .thread tid =>
    match s.thread? tid with
    | none => .next s
    | some t => match awayRequest s tid t with
      | some dest => .next (lostAway t.pos.pkg t.part t.launch dest (loseParked tid (lostAddress s tid t) 0) s)
      | none => .next s
  | .tileNum tl e =>
    match jobAt s tl e with
    | none => .next s
    | some j => match (jobPeers s tl j).find? (fun p => routed s tl.pkg j.part j.launch p) with
      | some p => .next (if j.state = .running then lostAway tl.pkg j.part j.launch p (endJob tl e 10) s else s)
      | none => .next s
  | _ => .next s

/-- SEQUENCE_NUMBER_RELEASE (R351): numbers not sent for 100 µs are free again, and requests that wait for one leave. -/
def execSequenceNumberRelease (s : State) : Host.Outcome State Fault Refusal :=
  match s.obj with
  | .port p =>
    let now := s.now p.pkg
    let s := s.updPort p (fun x => { x with used := x.used.filter (fun (e : Nat × Nat) => now < e.2 + 100000) })
    .next ((s.reqs.filter (fun e => e.2.held && e.2.src == p)).foldl (fun s e => sendReq e.1 s) s)
  | _ => .next s

/-! ### Combining (R353) -/

/-- Whether two requests may be merged at a port: combinable additions of one size to one word, within 64 ns. -/
def mergeable (a b : SpanReq) : Bool :=
  let add := fun (r : SpanReq) => match r.acc.op with
    | .amo 0 n true => some n
    | _ => none
  (add a).isSome && (add a == add b && (a.acc.pa == b.acc.pa && (a.src == b.src && (!a.host && (!a.held && (!b.held &&
    (!a.arrived && (!b.arrived && (a.sent ≤ b.sent + 64 && b.sent ≤ a.sent + 64)))))))))

/-- COMBINE_MERGE: the second request joins the first's merge, of at most 16 parts. -/
def execCombineMerge (s : State) : Host.Outcome State Fault Refusal :=
  match s.obj with
  | .nums a b =>
    match s.reqs.get? a, s.reqs.get? b with
    | some x, some y =>
      if a ≠ b ∧ mergeable x y = true ∧ (mergeOf s b).isNone = true then
        match mergeOf s a with
        | some (m, g) =>
          .next (if g.parts.length < 16 ∧ g.parts.all (fun q => match s.reqs.get? q with | some z => mergeable z y | none => false) = true then
            { s with merges := s.merges.upd m (fun g => { g with parts := g.parts ++ [b] }) } else s)
        | none => .next { s.tick with merges := s.merges.set s.fresh ⟨x.src, [a, b], none⟩ }
      else .next s
    | _, _ => .next s
  | _ => .next s

/-- The parts' replies, in recorded order: each the old value with the operands before it added (R353). -/
def splitParts : List Nat → Nat → State → State
  | [], _, s => s
  | q :: qs, o, s =>
    let (b, n) := addOperand s q
    let v := sext (o % 2 ^ (8 * n)) (8 * n)
    let s := match s.reqs.get? q with
      | some r => (updReq q (fun r => { r with result := some v }) (keepReply q r (some v) s)).post .memoryReply (.num q)
      | none => s
    splitParts qs (o + b) s

/-- COMBINE_SPLIT. -/
def execCombineSplit (s : State) : Host.Outcome State Fault Refusal :=
  match s.obj with
  | .num m =>
    match s.merges.get? m with
    | some x => match x.old with
      | some o => .next (splitParts x.parts o { s with merges := s.merges.del m })
      | none => .next s
    | none => .next s
  | _ => .next s

/-! ### Links (R350) -/

/-- LINK_DOWN: the port's traffic moves to the other ports of its routes; the failure is a link event (R413). -/
def execLinkDown (s : State) : Host.Outcome State Fault Refusal :=
  match s.obj with
  | .port p => .next (linkEvent p.pkg (1 + p.port) (linkParts s p.pkg (1 + p.port)) (s.updPort p (fun x => { x with up := false })))
  | _ => .next s

/-- The event that carries a request to a join's home. -/
def KeyOp.event : KeyOp → Instr
  | .bind _ => .joinBindRequest
  | .arrive _ _ => .joinArrival
  | .wait _ => .joinWaitRequest
  | .close => .joinCloseRequest
  | .query => .joinQuery
  | .depart => .joinDeparture
  | _ => .memoryReply

/-- A read of a group's result that waited for a route to the member's leaf (R350, R360). -/
def readsAway (s : State) (t : Thread) : Bool :=
  match t.wait with
  | some (.reg r) => 52 ≤ r && (r ≤ 55 && (t.pos.pkg != t.start.pkg && (match sourceOf s t r with | .value _ => true | _ => false)))
  | _ => false

/-- What waits for a route tries again: requests, messages, kills, moves, contributions, reads of results, copy jobs (R350, R351). -/
def retryRoutes (s : State) : State :=
  let s := (s.reqs.filter (fun e => e.2.held)).foldl (fun s e => sendReq e.1 s) s
  let s := s.keyReqs.foldl (fun s e => s.post e.2.op.event (.num e.1)) s
  let s := (s.msgs.filter (fun m => !m.2.waiting)).foldl (fun s m => s.post .messageDelivery (.num m.1)) s
  let s := s.contribs.foldl (fun s e => s.post .groupContribute (.num e.1)) s
  let s := (s.tids (fun t => t.kill != .none && t.kill != .held)).foldl (fun s t => s.post .killDelivery (.thread t)) s
  let s := (s.tids (fun t => match t.place with | .flight _ _ => true | _ => false)).foldl (fun s t => s.post .migrationArrival (.thread t)) s
  let s := (s.tiles.filter (fun e => e.2.copy.any (fun c => c.2.job.isSome))).foldl (fun s e => s.post .copyChunk (.tile e.1)) s
  wakeAll (readsAway s) s

/-- LINK_UP: what waited for a route leaves. -/
def execLinkUp (s : State) : Host.Outcome State Fault Refusal :=
  match s.obj with
  | .port p => .next (retryRoutes (s.updPort p (fun x => { x with up := true })))
  | _ => .next s

/-! ### Translation (R156) -/

/-- A leaf enters a tile's TLB of 256 entries, the oldest giving way (log 12). -/
def tlbInsert (tl : TileRef) (e : TlbEntry) (s : State) : State :=
  s.updTile tl (fun x =>
    let l := x.tlb.filter (fun y => !(y.part == e.part && (y.root == e.root && (y.va == e.va && y.size == e.size))))
    { x with tlb := (if 256 ≤ l.length then l.tail else l) ++ [e] })

/-- TLB_WALK_DONE (R155, R156): the leaf, or the fault of the parked bundle. -/
def execTlbWalkDone (s : State) : Host.Outcome State Fault Refusal :=
  match s.obj with
  | .threadNum tid va =>
    match s.thread? tid with
    | none => .next s
    | some t => match t.wait with
      | some (.walk va' kind) =>
        if va' ≠ va then .next s
        else match walk s (s.cfgOf t).root t.pos.pkg t.part va with
        | some e => .next (wake tid (tlbInsert t.pos.tileRef e s))
        | none => .next (if t.status = .parked ∧ t.slot?.isSome then takeTrap tid cXLATE kind (word va) t.pc s else wake tid s)
      | _ => .next s
  | _ => .next s

/-- TRANSLATION_DROP_DONE (R156): the copies of a table word are gone, and its writer goes on. -/
def execTranslationDropDone (s : State) : Host.Outcome State Fault Refusal :=
  match s.obj with
  | .threadNum tid w =>
    let s := dropTlb w s
    match (s.thread? tid).bind (·.wait) with
    | some (.reply d v) => .next (finish tid d v s)
    | _ => .next s
  | _ => .next s

end Sys2Proof.Machine
end

