-- ==== Sys2Proof/Machine/Device.lean ====
section
/-!
DEFINITION. Machine/Device.lean: host accesses to device memory, Ethernet ingest, droop, soft errors and diagnosis, margins, power and
device reset (24 R403 to R411, R418).
-/
namespace Sys2Proof.Machine
open Sys2Proof

/-! ### Host accesses to device memory (R403, R422) -/

/-- Whether every byte of one access lies in decoder `d` of the function and is backed. -/
def hostReaches (s : State) (p : PartRef) (d addr : Nat) (bytes : List (Nat × Byte)) : Bool :=
  let r := (s.part p).hdm.getD d (0, 0)
  bytes.all (fun b => r.1 ≤ addr + b.1 && (addr + b.1 < r.1 + r.2 && regionOf (addr + b.1) != .none))

/-- One access to one 64-byte line. -/
def oneLine (addr : Nat) (bytes : List (Nat × Byte)) : Bool := addr % 64 == 0 && bytes.all (fun b => b.1 < 64)

/-- An access outside the decoders' ranges is a link event of the CXL port (R403). -/
def hostOutside (p : PartRef) (s : State) : State := linkEvent p.pkg 0 [p.part] s

def setHostData (pkg : Nat) (bs : List Byte) (s : State) : State := s.updPkg pkg (fun x => { x with hostData := bs })

/-- HOST_READ: the bytes named, or all ones. -/
def execHostRead (s : State) : Host.Outcome State Fault Refusal :=
  match s.obj with
  | .host p addr bytes =>
    if oneLine addr bytes = false then .next s
    else if hostReaches s p 0 addr bytes ∨ hostReaches s p 1 addr bytes then
      .next (setHostData p.pkg (bytes.map (fun b => BitVec.ofNat 8 (s.rd (devAddr p.pkg (addr + b.1)) 1))) s)
    else .next (setHostData p.pkg (bytes.map (fun _ => 0xFF)) (hostOutside p s))
  | _ => .next s

/-- The value of word `k` of a line after a write that carries some of its bytes. -/
def mergeBytes (old k : Nat) (bytes : List (Nat × Byte)) : Nat :=
  (List.range 8).foldl (fun v i => match bytes.find? (fun b => b.1 == 8 * k + i) with
    | some b => v + b.2.toNat * 2 ^ (8 * i)
    | none => v + old / 2 ^ (8 * i) % 256 * 2 ^ (8 * i)) 0

/-- The words of a line that a write carries bytes of, in ascending order. -/
def touchedWords (bytes : List (Nat × Byte)) : List Nat := (List.range 8).filter (fun k => bytes.any (fun b => b.1 / 8 == k))

/-- Bytes reach the words of a line at their points of coherence (R137); a word written whole loses a soft error (R142). -/
def hostStore (a : Nat) (bytes : List (Nat × Byte)) (s : State) : State :=
  (touchedWords bytes).foldl (fun s k =>
    let w := a / 8 + k
    let whole := (List.range 8).all (fun i => bytes.any (fun b => b.1 == 8 * k + i))
    let bad := s.poison
    let s := dropTlb w (storeAt (8 * w) 8 (mergeBytes (s.rd (8 * w) 8) k bytes) s)
    if whole then s else { s with poison := bad }) s

/-- HOST_WRITE: through decoder 0, FE bits unchanged. -/
def execHostWrite (s : State) : Host.Outcome State Fault Refusal :=
  match s.obj with
  | .host p addr bytes =>
    if oneLine addr bytes = false then .next s
    else .next (if hostReaches s p 0 addr bytes then hostStore (devAddr p.pkg addr) bytes s else hostOutside p s)
  | _ => .next s

/-- HOST_FILL_WRITE: through the fill alias; every word that the write carries a byte of is set full, and its waiters are served. -/
def execHostFillWrite (s : State) : Host.Outcome State Fault Refusal :=
  match s.obj with
  | .host p addr bytes =>
    if oneLine addr bytes = false then .next s
    else if hostReaches s p 1 addr bytes then
      let a := devAddr p.pkg addr
      .next ((touchedWords bytes).foldl (fun s k => setFe (a / 8 + k) true s) (hostStore a bytes s))
    else .next (hostOutside p s)
  | _ => .next s

/-! ### Ethernet ingest (R404 to R407) -/

def State.ethPort (s : State) (p : PortRef) : EthPort := s.eth.getD p EthPort.init
def State.updEth (s : State) (p : PortRef) (f : EthPort → EthPort) : State := { s with eth := s.eth.updD p EthPort.init f }
def State.stream (s : State) (p : PortRef) (k : Nat) : Ingest := (s.ethPort p).streams.getD k Ingest.init
def State.updStream (s : State) (p : PortRef) (k : Nat) (f : Ingest → Ingest) : State :=
  s.updEth p (fun x => { x with streams := x.streams.updD k Ingest.init f })

/-- Counts in a counter of the port (R415 PORTCNT). -/
def countPort (p : PortRef) (k : Nat) (s : State) : State := s.updEth p (fun x => { x with counts := bump x.counts k })

/-! What a frame is (R404; the layouts of IEEE 802.3, 802.1Q, IPv4, IPv6 and UDP, log 52) -/

/-- One byte of the CRC-32 of IEEE 802.3. -/
def crcByte (c b : Nat) : Nat :=
  (List.range 8).foldl (fun c _ => if c % 2 = 1 then c / 2 ^^^ 0xEDB88320 else c / 2) (c ^^^ b)

def crc32 (bs : List Nat) : Nat := bs.foldl crcByte 0xFFFFFFFF ^^^ 0xFFFFFFFF

/-- A number of `n` bytes at place `k`, first byte highest. -/
def beAt (bs : List Nat) (k n : Nat) : Nat := ((bs.drop k).take n).foldl (fun v b => 256 * v + b % 256) 0

/-- What of a frame a stream matches and takes. -/
structure Frame where
  dmac : Nat
  vid : Option Nat
  uport : Nat
  payload : List Nat
deriving DecidableEq, Repr

/-- The VLAN ID of a tagged frame and where its type stands. -/
def frameType (bs : List Nat) : Option Nat × Nat :=
  if beAt bs 12 2 = 0x8100 then (some (beAt bs 14 2 % 4096), 16) else (none, 12)

/-- Where the upper layer of an IPv6 packet starts, and its length: extension headers are passed over, a fragment header is none. -/
def ip6Upper (bs : List Nat) : Nat → Nat → Nat → Nat → Option (Nat × Nat)
  | 0, _, _, _ => none
  | n + 1, next, k, len =>
    if next = 17 then some (k, len)
    else if next = 0 ∨ next = 43 ∨ next = 60 then
      let h := 8 * (beAt bs (k + 1) 1 + 1)
      if len < h then none else ip6Upper bs n (beAt bs k 1) (k + h) (len - h)
    else none

/-- The UDP datagram of an unfragmented IPv4 or IPv6 packet at place `k` of `len` bytes: its place and length. -/
def ipUdp (bs : List Nat) (ty k len : Nat) : Option (Nat × Nat) :=
  if ty = 0x0800 then
    let h := 4 * (beAt bs k 1 % 16)
    let n := beAt bs (k + 2) 2
    if beAt bs k 1 / 16 = 4 ∧ 20 ≤ h ∧ h ≤ n ∧ n ≤ len ∧ beAt bs (k + 6) 2 % 16384 = 0 ∧ beAt bs (k + 9) 1 = 17 then some (k + h, n - h)
    else none
  else if ty = 0x86DD then
    let n := beAt bs (k + 4) 2
    if beAt bs k 1 / 16 = 6 ∧ n + 40 ≤ len then ip6Upper bs 16 (beAt bs (k + 6) 1) (k + 40) n else none
  else none

/-- A received frame that a port takes (R404): of 64 to 2,000 bytes, with a correct FCS, a UDP datagram without IP fragmentation. -/
def parseFrame (bs : List Nat) : Option Frame :=
  let n := bs.length - 4
  if bs.length < 64 ∨ 2000 < bs.length ∨ crc32 (bs.take n) ≠ beAt (bs.drop n).reverse 0 4 then none
  else
    let (vid, k) := frameType bs
    match ipUdp (bs.take n) (beAt bs k 2) (k + 2) (n - (k + 2)) with
    | none => none
    | some (u, len) =>
      let l := beAt bs (u + 4) 2
      if len < 8 ∨ l < 8 ∨ len < l then none
      else some ⟨beAt bs 0 6, vid, beAt bs (u + 2) 2, (bs.drop (u + 8)).take (l - 8)⟩

namespace Ingest
def dword (x : Ingest) (k : Nat) : Nat := (x.desc.getD k 0).toNat
def act (x : Ingest) : Nat := bits (x.dword 1) 62 61
def hdr (x : Ingest) : Bool := bitAt (x.dword 1) 60
def pri (x : Ingest) : Nat := bits (x.dword 1) 59 57
def part (x : Ingest) : Nat := bits (x.dword 1) 56 53
def recw (x : Ingest) : Nat := bits (x.dword 1) 47 32
def nrec (x : Ingest) : Nat := bits (x.dword 1) 23 0
/-- Whether a taken frame matches the descriptor (R405). -/
def wants (x : Ingest) (f : Frame) : Bool :=
  x.enabled && ((!bitAt (x.dword 2) 63 || bits (x.dword 2) 47 0 == f.dmac) &&
    ((!bitAt (x.dword 2) 61 || some (bits (x.dword 2) 59 48) == f.vid) && (!bitAt (x.dword 3) 63 || bits (x.dword 3) 15 0 == f.uport)))
/-- The number of the first word of the record that is written next (R406). -/
def recordWord (x : Ingest) (pkg : Nat) : Nat := devAddr pkg (x.dword 0 + x.frame % max 1 x.nrec * x.recw * 8) / 8
/-- Word `k` of the record that holds a payload (R406). -/
def word (x : Ingest) (payload : List Nat) (k : Nat) : Nat :=
  if x.hdr && k == 0 then payload.length % 2 ^ 16 * 2 ^ 32 + x.frame % 2 ^ 32
  else (List.range 8).foldl (fun v i => v + payload.getD (8 * (k - b2n x.hdr) + i) 0 % 256 * 2 ^ (8 * i)) 0
/-- Payload bytes that a record holds. -/
def room (x : Ingest) : Nat := 8 * (x.recw - b2n x.hdr)
end Ingest

/-- Whether every word of the next record is empty. -/
def recordEmpty (s : State) (p : PortRef) (x : Ingest) : Bool :=
  (List.range x.recw).all (fun k => !feGet s.fe (x.recordWord p.pkg + k))

/-- The port sends a PAUSE frame (`n` = 8) or a PFC frame on a priority, with a time; one with a time is to be repeated (R407). -/
def sendPause (p : PortRef) (n quanta : Nat) (s : State) : State :=
  countPort p (if n = 8 then 6 else 7) (s.updEth p (fun x => { x with
    sent := x.sent ++ [(n, quanta)]
    refresh := if quanta = 0 then x.refresh.del n else x.refresh.set n (s.now p.pkg) }))

/-- What a stopped stream holds back: PAUSE (8), PFC on a priority, or nothing. -/
def Ingest.holds (x : Ingest) : Option Nat := if x.act = 0 then some 8 else if x.act = 1 then some x.pri else none

/-- Whether a stopped stream of the port holds back `n`. -/
def heldBack (s : State) (p : PortRef) (n : Nat) : Bool := (s.ethPort p).streams.any (fun e => e.2.stopped && e.2.holds == some n)

/-- The next record has a full word: the stream stops (R407). -/
def stopStream (p : PortRef) (k : Nat) (s : State) : State :=
  let x := s.stream p k
  let s := s.updStream p k (fun x => { x with stopped := true })
  match x.holds with
  | some n => sendPause p n (s.ethPort p).quanta s
  | none =>
    let n := (x.waiting.map List.length).sum
    (s.updStream p k (fun x => { x with waiting := [], dropped := x.dropped + x.waiting.length })).updEth p
      (fun y => { y with buffered := y.buffered - n })

/-- FRAME_RECEIVE (R404, R407): a frame is dropped and counted, or waits in the receive buffer for its stream. -/
def execFrameReceive (s : State) : Host.Outcome State Fault Refusal :=
  match s.obj with
  | .frame p bytes =>
    let s := countPort p 0 s
    match parseFrame bytes with
    | none => .next (countPort p 2 s)
    | some f =>
      let s := countPort p 1 s
      match (List.range 64).find? (fun k => (s.stream p k).wants f) with
      | none => .next (countPort p 3 s)
      | some k =>
        let x := s.stream p k
        if x.stopped ∧ x.holds = none then .next (s.updStream p k (fun x => { x with dropped := x.dropped + 1 }))
        else if 2 ^ 24 < (s.ethPort p).buffered + f.payload.length then
          .next (countPort p 4 (s.updStream p k (fun x => { x with dropped := x.dropped + 1 })))
        else
          let s := (s.updStream p k (fun x => { x with waiting := x.waiting ++ [f.payload] })).updEth p
            (fun y => { y with buffered := y.buffered + f.payload.length })
          .next (if x.stopped then s else s.post .ingestRecordWrite (.portNum p k))
  | _ => .next s

/-- Whether an enabled stream finds a full word in its next record and has not stopped for it (R407). -/
def stopDue (s : State) (p : PortRef) (x : Ingest) : Bool :=
  x.enabled && (!x.stopped && (x.next.isNone && !recordEmpty s p x))

/-- A record is complete (R406): bytes beyond it are counted, the next record is tested (R407), and the next frame follows. -/
def recordDone (p : PortRef) (k : Nat) (x : Ingest) (f : List Nat) (s : State) : State :=
  let cut := x.room < f.length
  let s := s.updStream p k (fun x => { x with
    waiting := x.waiting.tail, next := none, frame := x.frame + 1, written := x.written + 1, truncated := x.truncated + b2n cut })
  let s := s.updEth p (fun y => { y with buffered := y.buffered - f.length })
  let s := if cut then countPort p 5 s else s
  if stopDue s p (s.stream p k) then stopStream p k s
  else if x.waiting.tail.isEmpty then s else s.post .ingestRecordWrite (.portNum p k)

/-- INGEST_RECORD_WRITE (R406): the test of the record, and then one word at each event: word 1 and those after it in ascending order,
word 0 last. -/
def execIngestRecordWrite (s : State) : Host.Outcome State Fault Refusal :=
  match s.obj with
  | .portNum p k =>
    let x := s.stream p k
    if stopDue s p x then .next (stopStream p k s) else
    match x.waiting, x.next with
    | [], _ => .next s
    | f :: _, some n =>
      let s := dropTlb (x.recordWord p.pkg + n) (storeFull (x.recordWord p.pkg + n) (x.word f n) s)
      if n = 0 then .next (recordDone p k x f s)
      else .next ((s.updStream p k (fun x => { x with next := some (if n + 1 < x.recw then n + 1 else 0) })).post
        .ingestRecordWrite (.portNum p k))
    | _ :: _, none =>
      if x.enabled = false ∨ x.stopped then .next s
      else .next ((s.updStream p k (fun x => { x with next := some (if 1 < x.recw then 1 else 0) })).post .ingestRecordWrite (.portNum p k))
  | _ => .next s

/-- STREAM_RESUME (R407): the next record is empty again. -/
def execStreamResume (s : State) : Host.Outcome State Fault Refusal :=
  match s.obj with
  | .portNum p k =>
    let x := s.stream p k
    if x.stopped ∧ recordEmpty s p x = true then
      let s := s.updStream p k (fun x => { x with stopped := false })
      let s := match x.holds with
        | some n => if heldBack s p n then s else sendPause p n 0 s
        | none => s
      .next (if x.waiting.isEmpty then s else s.post .ingestRecordWrite (.portNum p k))
    else .next s
  | _ => .next s

/-- Whether half of the time that a PAUSE (8) or PFC frame gave has passed while a stream needs it (R407): a quantum is 512 bit times at
800 Gb/s, 0.64 ns. -/
def refreshDue (s : State) (p : PortRef) (n : Nat) : Bool :=
  let e := s.ethPort p
  match e.refresh.get? n with
  | none => false
  | some t => e.quanta != 0 && (heldBack s p n && 100 * t + 32 * e.quanta ≤ 100 * s.now p.pkg)

/-- PAUSE_REFRESH (R407): a PAUSE (8) or PFC frame is sent again while a stream that needs it is stopped. -/
def execPauseRefresh (s : State) : Host.Outcome State Fault Refusal :=
  match s.obj with
  | .portNum p n => .next (if heldBack s p n then sendPause p n (s.ethPort p).quanta s else s)
  | _ => .next s

/-! ### Droop (R409) -/

/-- A DROOP event for a partition that asks: at most one per tile in 100 µs, with the trips since its last one (R149, R409). -/
def reportDroop (tl : TileRef) (p : PartRef) (s : State) : State :=
  let t := s.tile tl
  let last := t.drpTold.getD p.part (0, 0)
  let now := s.now tl.pkg
  if (t.drpTold.get? p.part).isSome ∧ now < last.2 + 100000 then s
  else
    let n := t.drpTrips.toNat
    let r : List Word := [word now, word (tl.die * 256 + tl.tile), word ((n + 2 ^ 32 - last.1) % 2 ^ 32)]
    raiseSystem ⟨sysCore s p tl.die, 3, r⟩ (s.updTile tl (fun x => { x with drpTold := x.drpTold.set p.part (n, now) }))

/-- DROOP_TRIP (R409, R68): the sequence starts anew; on a partition: it asks for DROOP events, or no longer (log 31). -/
def execDroopTrip (s : State) : Host.Outcome State Fault Refusal :=
  match s.obj with
  | .tile tl =>
    let s := s.updTile tl (fun x => { x with drpFrom := some (tileCycle s tl), drpStr := x.drpStr + 6, drpTrips := x.drpTrips + 1 })
    .next ((s.parts.filter (fun e => e.1.pkg == tl.pkg && (e.2.askDroop && e.2.tiles.contains (tl.die * 144 + tl.tile)))).foldl
      (fun s e => reportDroop tl e.1 s) s)
  | .partNum p n => .next (s.updPart p (fun x => { x with askDroop := n != 0 }))
  | _ => .next s

/-- Whether the 6 stretched and the 64 thinned cycles are past. -/
def droopOver (s : State) (tl : TileRef) : Bool :=
  match (s.tile tl).drpFrom with
  | none => false
  | some f => (s.cores.filter (fun e => e.1.tileRef == tl)).all (fun e => f + 70 ≤ e.2.cycle)

/-- DROOP_SEQUENCE_END (R409). -/
def execDroopSequenceEnd (s : State) : Host.Outcome State Fault Refusal :=
  match s.obj with
  | .tile tl => .next (if droopOver s tl then s.updTile tl (fun x => { x with drpFrom := none }) else s)
  | _ => .next s

/-! ### Soft errors, diagnosis and margins (R142, R410) -/

/-- A RETIRE-REQUEST (R149, R410): to every partition's configured core of die 0, and held for host and board management controller. -/
def raiseRetire (pkg kind cause die tile core mask : Nat) (s : State) : State :=
  let r : List Word := [word (s.now pkg), word (kind + cause * 2 ^ 8 + die * 2 ^ 16 + tile * 2 ^ 24 + core * 2 ^ 32 + mask * 2 ^ 40),
    0, 0, 0, 0, 0, 0]
  let s := (s.parts.filter (fun (e : PartRef × Part) => e.1.pkg == pkg)).foldl (fun s (e : PartRef × Part) =>
    raiseSystem ⟨sysCore s e.1 0, 2, r⟩ s) s
  let s := s.updPkg pkg (fun x => { x with mgmt := { x.mgmt with
    retire := (if 64 ≤ x.mgmt.retire.length then x.mgmt.retire.tail else x.mgmt.retire) ++ [r] } })
  if bitAt (s.pkg pkg).mgmt.intc 1 then raiseVector pkg 0 s else s

/-- Diagnosis of an extension's unit on a core: the bit leaves EXTID, and a core without BASE leaves the available set (R54, R410). -/
def diagnoseUnit (c : CoreRef) (ext cause : Nat) (s : State) : State :=
  if (s.core c).extid.getLsbD ext = false then s
  else
    let m : BitVec 5 := 1#5 <<< ext
    let s := s.updCore c (fun x => { x with extid := x.extid &&& ~~~m, available := x.available && ext != 0 })
    let s := s.updPkg c.pkg (fun x => { x with blob := { x.blob with
      lostExts := x.blob.lostExts ++ [((c.die * 144 + c.tile) * 8 + c.core, 2 ^ ext)] } })
    raiseRetire c.pkg 1 cause c.die c.tile c.core (2 ^ ext) s

/-- Diagnosis of a tile: it leaves the available set, and is gated when no thread is on it (R410). -/
def diagnoseTile (tl : TileRef) (cause : Nat) (s : State) : State :=
  if (s.tile tl).fenced then s
  else
    let s := dropPoint tl (s.updTile tl (fun x => { x with fenced := true }))
    let s := s.updPkg tl.pkg (fun x => { x with blob := { x.blob with fencedTiles := x.blob.fencedTiles ++ [tl.die * 144 + tl.tile] } })
    raiseRetire tl.pkg 2 cause tl.die tl.tile 0 0 s

/-- One hour in nanoseconds. -/
def hourNs : Nat := 3600000000000

/-- A corrected soft error is counted in the partition's fault reporting (R142, R396 KIND 1). -/
def countCorrected (p : PartRef) (s : State) : State := if (s.parts.get? p).isSome then reportFault p 1 [] s else s

/-- SOFT_ERROR (R142, R410): corrected in a tile or in a unit of a core, counted, and diagnosed when more than 16 fall in an hour; or
uncorrectable in a word of memory or in a register (log 29). The number for a core is 16 × extension bit + partition. -/
def execSoftError (s : State) : Host.Outcome State Fault Refusal :=
  match s.obj with
  | .tileNum tl part =>
    let now := s.now tl.pkg
    let l := now :: (s.tile tl).errors.filter (fun t => now < t + hourNs)
    let s := countCorrected ⟨tl.pkg, part⟩ (s.updTile tl (fun x => { x with errors := l }))
    .next (if 16 < l.length then diagnoseTile tl 2 s else s)
  | .coreNum c n =>
    let now := s.now c.pkg
    let e := n / 16
    let l := (e, now) :: (s.core c).errors.filter (fun x => now < x.2 + hourNs)
    let s := countCorrected ⟨c.pkg, n % 16⟩ (s.updCore c (fun x => { x with errors := l }))
    .next (if e < 5 ∧ 16 < (l.filter (fun x => x.1 == e)).length then diagnoseUnit c e 2 s else s)
  | .num a => .next { s with poison := if s.poison.contains a then s.poison else a :: s.poison }
  | .threadNum tid r => .next (s.updThread tid (fun t => { t with badRegs := if 0 < r ∧ r < 64 then t.badRegs ||| (1#64 <<< r) else t.badRegs }))
  | _ => .next s

/-- The number of a tile in the blob: die × 144 + tile. -/
def tileIndex (tl : TileRef) : Nat := tl.die * 144 + tl.tile

/-- A re-plan at one tile: new costs for its next point change (R325), points below their guard disabled, the running point left when it is one of them, and a tile
whose P0 has fallen below its guard diagnosed (R410). -/
def replanTile (n : Nat) (tl : TileRef) (s : State) : State :=
  let costs := (List.range 16).map (fun p => if p = 0 then max 8 (Config.marginCost n tl p) else Config.marginCost n tl p)
  let bad := (List.range 16).filter (fun p => Config.marginBelowGuard n tl p)
  let s := s.updTile tl (fun x => { x with newCosts := some costs, disabled := bad })
  let s := s.updPkg tl.pkg (fun x => { x with blob := { x.blob with
    tileCosts := x.blob.tileCosts.set (tileIndex tl) costs, tileDisabled := x.blob.tileDisabled.set (tileIndex tl) bad } })
  let s := match (s.tile tl).point with
    | some p => if bad.contains p then settleSurplus tl (dropPoint tl s) else s
    | none => s
  let s := if bad.contains 0 then diagnoseTile tl 1 s else s
  (coresOf tl).foldl (fun s c => (List.range 5).foldl (fun s e => if Config.unitBelowGuard n c e then diagnoseUnit c e 1 s else s) s) s

/-- Margins of a package are re-planned, and will be again in 24 hours (R410). -/
def replan (pkg : Nat) (s : State) : State :=
  (allTiles pkg).foldl (fun s tl => replanTile s.fresh tl s.tick) (s.updPkg pkg (fun x => { x with replanned := s.now pkg }))

/-- Whether 24 hours have passed since a package's margins were last planned (R410). -/
def replanDue (x : Pkg) : Bool := x.ready && x.replanned + 24 * hourNs ≤ x.time

/-- MARGIN_REPLAN. -/
def execMarginReplan (s : State) : Host.Outcome State Fault Refusal :=
  match s.obj with
  | .pkg p => .next (replan p s)
  | _ => .next s

/-! ### Power (R418) -/

/-- POWER_SAMPLE: the telemetry with the package total averaged over 1 ms, and one step of the throttle (R415 TELEM, R418). -/
def execPowerSample (s : State) : Host.Outcome State Fault Refusal :=
  match s.obj with
  | .pkgWords p ws =>
    let total := (ws.getD 8 0).toNat
    .next (if ws.length = 9 then s.updPkg p (fun x => { x with mgmt := { x.mgmt with
      telemetry := ws.map (fun (w : Word) => w.toNat)
      throttle := if 2400000 < total then min 20 (x.mgmt.throttle + 1)
        else if total < 2280000 then x.mgmt.throttle - 1 else x.mgmt.throttle } }) else s)
  | _ => .next s

/-! ### Device reset (R411) -/

/-- Values that the blob gives to single tiles or cores: a word with the kind in bits 63:60 and the number in bits 31:0. -/
def blobItem (b : Blob) (w : Word) : Blob :=
  let k := bits w.toNat 31 0
  let v := bits w.toNat 47 32
  match bits w.toNat 63 60 with
  | 1 => { b with extids := b.extids.set k (BitVec.ofNat 5 v) }
  | 2 => { b with drpThs := b.drpThs.set k v }
  | 3 => { b with tileCosts := b.tileCosts.updD (k % 65536) b.costs (fun l => l.set (k / 65536) v) }
  | 4 => { b with tileDisabled := b.tileDisabled.updD (k % 65536) [] (fun l => l ++ [k / 65536]) }
  | 5 => { b with lostExts := b.lostExts ++ [(k, v)] }
  | 6 => { b with costs := b.costs.set k v }
  | _ => b

/-- The blob that a reset finds in the module flash, from its words: EXTID, security version, DRPTH, firmware entry, 9 words of the tile
set, 32 band registers, 9 words of the fenced set, a word whose bits 0 and 1 say that the vendor's and the device's section fail their
checks, and the values of single tiles and cores (log 5). -/
def Blob.ofWords (b : Blob) (ws : List Word) : Blob :=
  let set := fun (k : Nat) => (List.range 576).filter (fun i => (ws.getD (k + i / 64) 0).getLsbD (i % 64))
  (ws.drop 55).foldl blobItem { b with
    extid := BitVec.ofNat 5 (ws.getD 0 0).toNat
    extids := []
    version := (ws.getD 1 0).toNat
    drpTh := (ws.getD 2 0).toNat
    drpThs := []
    firmware := ws.getD 3 0
    tiles := set 4
    clkplan := (List.range 32).map (fun k => ws.getD (13 + k) 0)
    fencedTiles := set 45
    signed := !(ws.getD 54 0).getLsbD 0
    costs := defaultCosts
    tileCosts := []
    tileDisabled := []
    deviceGood := !(ws.getD 54 0).getLsbD 1
    lostExts := [] }

/-- A clock plan with nothing but band registers in it, which leaves P0 enabled (R408). -/
def planOk (plan : List Word) : Bool := plan.all (fun w => w &&& ~~~(0x80007FFF00007FFF : Word) == 0) && clockClear plan (pointMHz 0)

/-- A threshold within its range (R409; log 5). -/
def drpOk (v : Nat) : Nat := if 20 ≤ v ∧ v ≤ 120 then v else 20

/-- A blob as a reset installs it: the firmware entry is a bundle's address (R40), a plan that is refused leaves no band, thresholds lie in
their range, P0 costs at least 8, and a device section that fails is built anew (R325, R408, R409, R411; log 5). -/
def Blob.installed (b : Blob) : Blob :=
  let b := if b.deviceGood then b else { b with costs := defaultCosts, tileCosts := [], tileDisabled := [], fencedTiles := [], lostExts := [] }
  let cost := fun (l : List Nat) => l.set 0 (max 8 (l.getD 0 8))
  { b with
    firmware := b.firmware &&& ~~~7
    clkplan := if planOk b.clkplan then b.clkplan else List.replicate 32 0
    drpTh := drpOk b.drpTh
    drpThs := b.drpThs.map (fun (e : Nat × Nat) => (e.1, drpOk e.2))
    costs := cost b.costs
    tileCosts := b.tileCosts.map (fun (e : Nat × List Nat) => (e.1, cost e.2)) }

/-- Everything of a package but its memory is lost; its FE bits are empty (R12, R13, R63, R394, R411). What a launch of it has fixed for
its threads on other packages stays (R85, R392). -/
def resetDevice (p : Nat) (b : Blob) (s : State) : State :=
  let b := b.installed
  let gone := s.tids (fun t => t.pos.pkg == p)
  let mine := fun (w : Nat) => w / 2 ^ 49 == p
  { s with
    fe := s.fe.filter (fun w => !mine w)
    poison := s.poison.filter (fun w => !mine w)
    threads := s.threads.filter (fun (e : Nat × Thread) => !gone.contains e.1)
    feWaiters := s.feWaiters.filter (fun x => !gone.contains x.tid && !mine x.word)
    lockWaiters := s.lockWaiters.filter (fun x => !gone.contains x.tid && !mine x.word)
    cores := s.cores.filter (fun (e : CoreRef × CoreSt) => e.1.pkg != p)
    quads := s.quads.filter (fun (e : QuadRef × Quad) => e.1.pkg != p)
    tiles := s.tiles.filter (fun (e : TileRef × Tile) => e.1.pkg != p)
    joins := s.joins.filter (fun (e : (DieRef × Nat) × Join) => e.1.1.pkg != p)
    keyReqs := s.keyReqs.filter (fun (e : Nat × KeyReq) => !gone.contains e.2.tid)
    taskQueues := s.taskQueues.filter (fun (e : TaskQueueRef × TaskQueue) => e.1.pkg != p)
    gens := s.gens.filter (fun (e : Pos × Nat) => e.1.pkg != p)
    learned := s.learned.filter (fun (e : (CoreRef × BitVec 32) × TileRef) => e.1.1.pkg != p)
    reqs := s.reqs.filter (fun (e : Nat × SpanReq) => e.2.src.pkg != p)
    ports := s.ports.filter (fun (e : PortRef × SpanPort) => e.1.pkg != p)
    merges := s.merges.filter (fun (e : Nat × Merge) => e.2.port.pkg != p)
    msgs := s.msgs.filter (fun (e : Nat × Msg) => e.2.at_.pkg != p)
    contribs := s.contribs.filter (fun (e : Nat × Contribution) => e.2.from_ != p)
    groups := s.groups.filter (fun (e : (Nat × Nat) × Group) => ((s.launches.get? e.2.launch).map (·.pkg)) != some p)
    crews := s.crews.filter (fun (e : CrewRef × Crew) => e.1.pkg != p)
    loans := s.loans.filter (fun l => l.owner.pkg != p)
    transits := s.transits.filter (fun (e : Nat × Transit) => e.2.dest.pkg != p)
    cycles := s.cycles.filter (fun l => !l.any (fun c => c.pkg == p))
    subs := s.subs.filter (fun (e : Nat × Submission) => e.2.pkg != p)
    launches := s.launches.filter (fun (e : Nat × Launch) => e.2.pkg != p || s.threads.any (fun t => t.2.launch == e.1 && t.2.pos.pkg != p))
    parts := s.parts.filter (fun (e : PartRef × Part) => e.1.pkg != p)
    eth := s.eth.filter (fun (e : PortRef × EthPort) => e.1.pkg != p)
    sysEvents := s.sysEvents.filter (fun e => e.core.pkg != p)
    focus := s.focus.filter (fun c => c.pkg != p)
    pkgs := s.pkgs.set p { Pkg.init with ready := false, blob := b, clkplan := b.clkplan, highestVersion := (s.pkg p).highestVersion } }

/-- DEVICE_RESET (R411): under the blob that the flash holds, or under the one given. -/
def execDeviceReset (s : State) : Host.Outcome State Fault Refusal :=
  match s.obj with
  | .pkg p => .next ((resetDevice p (s.pkg p).blob s).post .deviceReady (.pkg p))
  | .pkgWords p ws => .next ((resetDevice p ((s.pkg p).blob.ofWords ws) s).post .deviceReady (.pkg p))
  | _ => .next s

/-- DEVICE_READY (R411): a vendor section that fails its check, or whose security version is below the highest accepted one, halts boot; a
device section that failed is rebuilt by a measurement of every margin. -/
def execDeviceReady (s : State) : Host.Outcome State Fault Refusal :=
  match s.obj with
  | .pkg p =>
    let b := (s.pkg p).blob
    .next (if b.signed = false ∨ b.version < (s.pkg p).highestVersion then s
      else
        let s := s.updPkg p (fun x => { x with ready := true, highestVersion := b.version, blob := { x.blob with deviceGood := true } })
        if b.deviceGood then s else replan p s)
  | _ => .next s

end Sys2Proof.Machine
end

