-- ==== Sys2Proof/Machine/Fp.lean ====
section
/-!
DEFINITION. Machine/Fp.lean: scalar float instructions in float and rational mode (12 R226 to R229).
-/
namespace Sys2Proof.Machine
open Sys2Proof

/-- The float format and the rational format of a width field: .S 0, .D 1 (R226). -/
def fpOf (w : BitVec 1) : FpFmt := if w = 1#1 then fp64 else fp32
def ratOf (w : BitVec 1) : RatFmt := if w = 1#1 then rat64 else rat32

/-- An operand in the width: bits 31:0 for .S (R226). -/
def opnd (w : BitVec 1) (x : Word) : Nat := if w = 1#1 then x.toNat else x.toNat % 2 ^ 32

/-- A result of the width or narrower, zero-extended (R226). -/
def fpOut (r : Nat × Flags) : Word × Flags := (word r.1, r.2)
/-- A 64-bit integer result. -/
def intOut (r : Int × Flags) : Word × Flags := (BitVec.ofInt 64 r.1, r.2)

/-- A scalar F-instruction (R227): float mode in the core or, for FDIV and FSQRT, on the SFU; rational mode always on the SFU. -/
def semFp (srcs : List (BitVec 6)) (d : BitVec 6) (onSfu : Bool) (fl rt : Ctx → Word × Flags) : Sem :=
  { srcs := srcs, wg := [d.toNat]
    exts := fun c _ => if c.pre.qmode then extRAT else extBASE
    run := fun c s =>
      if c.pre.qmode then sfuScalar c d.toNat (rt c).1 (rt c).2 s
      else if onSfu then sfuScalar c d.toNat (fl c).1 (fl c).2 s
      else regWrite c.tid d.toNat (fl c).1 s
    flags := fun c => if c.pre.qmode || onSfu then noFlags else (fl c).2 }

/-- A two-operand float instruction. -/
def semFp2 (d a b : BitVec 6) (w : BitVec 1) (onSfu : Bool) (fl : FpFmt → Nat → Nat → Nat → Nat × Flags)
    (rt : QVal → QVal → QRes) : Sem :=
  semFp [a, b] d onSfu (fun c => fpOut (fl (fpOf w) c.pre.rm (opnd w (c.g a)) (opnd w (c.g b))))
    (fun c => fpOut ((ratOf w).deliver c.pre.qrm (rt ((ratOf w).decode (opnd w (c.g a))) ((ratOf w).decode (opnd w (c.g b))))))

def semFadd (d a b : BitVec 6) (w : BitVec 1) : Sem := semFp2 d a b w false (fun f rm x y => f.add rm false x y) qAdd
def semFsub (d a b : BitVec 6) (w : BitVec 1) : Sem := semFp2 d a b w false (fun f rm x y => f.sub rm false x y) qSub
def semFmul (d a b : BitVec 6) (w : BitVec 1) : Sem := semFp2 d a b w false (fun f rm x y => f.mul rm false x y) qMul
def semFdiv (d a b : BitVec 6) (w : BitVec 1) : Sem := semFp2 d a b w true (fun f rm x y => f.div rm x y) qDiv

/-- FMA (R226): the variant's bit 1 negates the product, and the addend is negated by variants 1 and 3. -/
def semFma (d a b : BitVec 6) (w : BitVec 1) (v : BitVec 3) : Sem :=
  let np := 2 ≤ v.toNat
  let nc := v.toNat % 2 == 1
  semFp [d, a, b] d false
    (fun c => fpOut ((fpOf w).fma c.pre.rm false np nc (opnd w (c.g a)) (opnd w (c.g b)) (opnd w (c.g d))))
    (fun c => fpOut ((ratOf w).deliver c.pre.qrm (qFma np nc ((ratOf w).decode (opnd w (c.g a)))
      ((ratOf w).decode (opnd w (c.g b))) ((ratOf w).decode (opnd w (c.g d))))))

def semFsqrt (d a : BitVec 6) (w : BitVec 1) : Sem :=
  semFp [a] d true (fun c => fpOut ((fpOf w).sqrt c.pre.rm (opnd w (c.g a))))
    (fun c => fpOut ((ratOf w).deliver c.pre.qrm (qSqrt ((ratOf w).decode (opnd w (c.g a))))))

def semFminmax (d a b : BitVec 6) (w : BitVec 1) (isMax : Bool) : Sem :=
  semFp [a, b] d false (fun c => fpOut ((fpOf w).minMax isMax (opnd w (c.g a)) (opnd w (c.g b))))
    (fun c => fpOut ((ratOf w).minMax isMax ((ratOf w).decode (opnd w (c.g a))) ((ratOf w).decode (opnd w (c.g b)))))
def semFmin (d a b : BitVec 6) (w : BitVec 1) : Sem := semFminmax d a b w false
def semFmax (d a b : BitVec 6) (w : BitVec 1) : Sem := semFminmax d a b w true

def semFcmp (d a b : BitVec 6) (w : BitVec 1) (k : BitVec 3) : Sem :=
  let out := fun (r : Bool × Flags) => (word (b2n r.1), r.2)
  semFp [a, b] d false (fun c => out ((fpOf w).compare k.toNat (opnd w (c.g a)) (opnd w (c.g b))))
    (fun c => out (qCompare k.toNat ((ratOf w).decode (opnd w (c.g a))) ((ratOf w).decode (opnd w (c.g b)))))

/-- Limits of the 64-bit integers that FCVT writes. -/
def i64Lo (sg : Bool) : Int := if sg then sMin 64 else 0
def i64Hi (sg : Bool) : Int := if sg then sMax 64 else 2 ^ 64 - 1
/-- A register as the integer that FCVT reads. -/
def intIn (sg : Bool) (x : Word) : Int := if sg then x.toInt else (x.toNat : Int)

/-- FCVT in float mode, variants 0 to 4 (R229). -/
def cvtFloat (v : Nat) (w : BitVec 1) (rm : Nat) (x : Word) : Word × Flags :=
  match v with
  | 0 => fpOut ((fpOf (~~~w)).convert rm false ((fpOf w).decode (opnd w x)))
  | 1 => intOut (toIntRange rm (i64Lo true) (i64Hi true) ((fpOf w).decode (opnd w x)))
  | 2 => intOut (toIntRange rm (i64Lo false) (i64Hi false) ((fpOf w).decode (opnd w x)))
  | _ => fpOut ((fpOf w).round rm false (Xr.ofInt (intIn (v == 3) x)))

/-- FCVT in rational mode, variants 0 to 6 (R229). -/
def cvtRat (v : Nat) (w : BitVec 1) (rm qrm : Nat) (x : Word) : Word × Flags :=
  match v with
  | 0 => fpOut ((ratOf (~~~w)).ofQ qrm ((ratOf w).decode (opnd w x)))
  | 1 => intOut (qToInt rm (i64Lo true) (i64Hi true) ((ratOf w).decode (opnd w x)))
  | 2 => intOut (qToInt rm (i64Lo false) (i64Hi false) ((ratOf w).decode (opnd w x)))
  | 5 => fpOut (qToFloat (fpOf w) rm ((ratOf w).decode (opnd w x)))
  | 6 => fpOut ((ratOf w).ofFloat qrm ((fpOf w).decode (opnd w x)))
  | _ => fpOut ((ratOf w).ofInt qrm (intIn (v == 3) x))

/-- FCVT; variants 5 and 6 exist only in rational mode (R229). -/
def semFcvt (d a : BitVec 6) (w : BitVec 1) (v : BitVec 3) : Sem :=
  { semFp [a] d false (fun c => cvtFloat v.toNat w c.pre.rm (c.g a)) (fun c => cvtRat v.toNat w c.pre.rm c.pre.qrm (c.g a)) with
    illop := fun t => 5 ≤ v.toNat && !t.qmode }

def semFclass (d a : BitVec 6) (w : BitVec 1) : Sem :=
  semFp [a] d false (fun c => (word ((fpOf w).classOf (opnd w (c.g a))), noFlags))
    (fun c => (word (qClass ((ratOf w).decode (opnd w (c.g a)))), noFlags))

def semFsgn (d a b : BitVec 6) (w : BitVec 1) (v : BitVec 3) : Sem :=
  semFp [a, b] d false (fun c => (word ((fpOf w).signOp v.toNat (opnd w (c.g a)) (opnd w (c.g b))), noFlags))
    (fun c => fpOut ((ratOf w).signOp v.toNat (opnd w (c.g a)) (opnd w (c.g b))))

/-- FADD. -/
def execFadd (d a b : BitVec 6) (w : BitVec 1) (σ : State) : Host.Outcome State Fault Refusal := issueS (semFadd d a b w) σ
/-- FSUB. -/
def execFsub (d a b : BitVec 6) (w : BitVec 1) (σ : State) : Host.Outcome State Fault Refusal := issueS (semFsub d a b w) σ
/-- FMUL. -/
def execFmul (d a b : BitVec 6) (w : BitVec 1) (σ : State) : Host.Outcome State Fault Refusal := issueS (semFmul d a b w) σ
/-- FDIV. -/
def execFdiv (d a b : BitVec 6) (w : BitVec 1) (σ : State) : Host.Outcome State Fault Refusal := issueS (semFdiv d a b w) σ
/-- FMA. -/
def execFma (d a b : BitVec 6) (w : BitVec 1) (v : BitVec 3) (σ : State) : Host.Outcome State Fault Refusal := issueS (semFma d a b w v) σ
/-- FSQRT. -/
def execFsqrt (d a : BitVec 6) (w : BitVec 1) (σ : State) : Host.Outcome State Fault Refusal := issueS (semFsqrt d a w) σ
/-- FMIN. -/
def execFmin (d a b : BitVec 6) (w : BitVec 1) (σ : State) : Host.Outcome State Fault Refusal := issueS (semFmin d a b w) σ
/-- FMAX. -/
def execFmax (d a b : BitVec 6) (w : BitVec 1) (σ : State) : Host.Outcome State Fault Refusal := issueS (semFmax d a b w) σ
/-- FCMP. -/
def execFcmp (d a b : BitVec 6) (w : BitVec 1) (c : BitVec 3) (σ : State) : Host.Outcome State Fault Refusal := issueS (semFcmp d a b w c) σ
/-- FCVT. -/
def execFcvt (d a : BitVec 6) (w : BitVec 1) (v : BitVec 3) (σ : State) : Host.Outcome State Fault Refusal := issueS (semFcvt d a w v) σ
/-- FCLASS. -/
def execFclass (d a : BitVec 6) (w : BitVec 1) (σ : State) : Host.Outcome State Fault Refusal := issueS (semFclass d a w) σ
/-- FSGN. -/
def execFsgn (d a b : BitVec 6) (w : BitVec 1) (v : BitVec 3) (σ : State) : Host.Outcome State Fault Refusal := issueS (semFsgn d a b w v) σ

end Sys2Proof.Machine
end

