-- ==== Sys2Proof/Machine/Hyper.lean ====
section
/-!
DEFINITION. Machine/Hyper.lean: the hypercalls of R146, and the hypervisor's assignment of tile hardware queues (06 R129).
-/
namespace Sys2Proof.Machine
open Sys2Proof

/-- A hypercall of a thread that the firmware has been entered for. -/
def onHyper (s : State) (code : Nat) (f : Nat → Thread → State) : Host.Outcome State Fault Refusal :=
  onThread s (fun tid t => if t.status = .ready ∧ hyperCode t = some code then f tid t else s)

/-- HVER: the interface version. -/
def execHver (s : State) : Host.Outcome State Fault Refusal := onHyper s 0x800 (fun tid _ => hyperReturn tid 1 s)

/-- The leaf that maps an address, with the global word number it lies at; one with another partition's PTAG maps it too, which R146 leaves
open (log 70). -/
def leafOf (s : State) (t : Thread) (va : Word) : Option (Nat × Word) :=
  (walk s (s.cfgOf t).root t.pos.pkg t.part va.toNat).bind (fun e => e.words.getLast?.map (fun w => (w, s.rdWord (8 * w))))

/-- PTEGET: the leaf entry, or 0. -/
def execPteget (s : State) : Host.Outcome State Fault Refusal :=
  onHyper s 0x802 (fun tid t => hyperReturn tid (((leafOf s t (t.reg 3)).map (·.2)).getD 0) s)

/-- Whether the partition's policy lets a request change a leaf's RAP and MIG bits (R146, R417 PTEPOL). -/
def ptePermits (pol : Nat) (old new : Nat) : Bool :=
  let ok := fun (b set clr : Nat) =>
    if bitAt old b == bitAt new b then true else if bitAt new b then bitAt pol set else bitAt pol clr
  ok 7 0 1 && ok 6 2 3

/-- PTEBITS: the checks in the order 3, 1, 2; the leaf is rewritten in place, and no TLB keeps its old copy (R146, R156). -/
def execPtebits (s : State) : Host.Outcome State Fault Refusal :=
  onHyper s 0x801 (fun tid t =>
    let a := t.reg 4
    let b := t.reg 5
    if (a ||| b) &&& ~~~(0xC0 : Word) ≠ 0 ∨ a &&& b ≠ 0 then hyperReturn tid 3 s
    else match leafOf s t (t.reg 3) with
    | none => hyperReturn tid 1 s
    | some (w, e) =>
      let e' := (e ||| a) &&& ~~~b
      if ptePermits (s.cfgOf t).ptepol e.toNat e'.toNat = false then hyperReturn tid 2 s
      else hyperReturn tid 0 (if e' = e then s else dropTlb w (storeAt (8 * w) 8 e'.toNat s)))

/-- TILE_QUEUE_ASSIGN (R129): a hardware queue of a tile goes to a partition, empty; a number above 13 leaves it unassigned. -/
def execTileQueueAssign (s : State) : Host.Outcome State Fault Refusal :=
  match s.obj with
  | .tileNums tl q p => .next (if q < 16 then s.updHwQueue tl q (fun _ => ⟨if p < 14 then some p else none, []⟩) else s)
  | _ => .next s

end Sys2Proof.Machine
end

