-- ==== Sys2Proof/Machine/Integer.lean ====
section
/-!
DEFINITION. Machine/Integer.lean: integer, immediate, constant, bit and bit-field instructions, LEA, SEL, COORD and PART (05 R71 to
R87).
-/
namespace Sys2Proof.Machine
open Sys2Proof

/-! ### The operations of R74 at width n -/

def iAdd {n : Nat} (a b : BitVec n) : BitVec n := a + b
def iSub {n : Nat} (a b : BitVec n) : BitVec n := a - b
def iMul {n : Nat} (a b : BitVec n) : BitVec n := a * b
def iMulh {n : Nat} (a b : BitVec n) : BitVec n := BitVec.ofInt n ((a.toInt * b.toInt) / ((2 ^ n : Nat) : Int))
def iMulhu {n : Nat} (a b : BitVec n) : BitVec n := BitVec.ofNat n (a.toNat * b.toNat / 2 ^ n)
/-- Quotient truncated toward zero; -1 for B = 0, M for M ÷ -1. -/
def iDiv {n : Nat} (a b : BitVec n) : BitVec n := if b = 0 then BitVec.allOnes n else BitVec.ofInt n (a.toInt.tdiv b.toInt)
def iDivu {n : Nat} (a b : BitVec n) : BitVec n := if b = 0 then BitVec.allOnes n else a / b
/-- Remainder of the truncated quotient; A for B = 0. -/
def iRem {n : Nat} (a b : BitVec n) : BitVec n := if b = 0 then a else BitVec.ofInt n (a.toInt.tmod b.toInt)
def iRemu {n : Nat} (a b : BitVec n) : BitVec n := if b = 0 then a else a % b
def iAnd {n : Nat} (a b : BitVec n) : BitVec n := a &&& b
def iOr {n : Nat} (a b : BitVec n) : BitVec n := a ||| b
def iXor {n : Nat} (a b : BitVec n) : BitVec n := a ^^^ b
def iAndn {n : Nat} (a b : BitVec n) : BitVec n := a &&& ~~~b
def iOrn {n : Nat} (a b : BitVec n) : BitVec n := a ||| ~~~b
/-- Shifts take their count modulo the width. -/
def iShl {n : Nat} (a b : BitVec n) : BitVec n := a <<< (b.toNat % n)
def iShr {n : Nat} (a b : BitVec n) : BitVec n := a >>> (b.toNat % n)
def iSar {n : Nat} (a b : BitVec n) : BitVec n := a.sshiftRight (b.toNat % n)
def iRor {n : Nat} (a b : BitVec n) : BitVec n := a.rotateRight (b.toNat % n)
def iMin {n : Nat} (a b : BitVec n) : BitVec n := if a.sle b then a else b
def iMax {n : Nat} (a b : BitVec n) : BitVec n := if b.sle a then a else b
def iMinu {n : Nat} (a b : BitVec n) : BitVec n := if a ≤ b then a else b
def iMaxu {n : Nat} (a b : BitVec n) : BitVec n := if b ≤ a then a else b
def iSlt {n : Nat} (a b : BitVec n) : BitVec n := if a.slt b then 1 else 0
def iSltu {n : Nat} (a b : BitVec n) : BitVec n := if a < b then 1 else 0
def iSeq {n : Nat} (a b : BitVec n) : BitVec n := if a = b then 1 else 0
def iSne {n : Nat} (a b : BitVec n) : BitVec n := if a = b then 0 else 1

/-- A 64-bit register-register operation (R73). -/
def semBin (d a b : BitVec 6) (f : Word → Word → Word) : Sem := semReg [a, b] d (fun c => f (c.g a) (c.g b))

/-- A 32-bit register-register operation: low words in, sign-extended result out (R72). -/
def semBinW (d a b : BitVec 6) (f : Lane → Lane → Lane) : Sem :=
  semReg [a, b] d (fun c => (f ((c.g a).setWidth 32) ((c.g b).setWidth 32)).signExtend 64)

/-- A unary operation (R78). -/
def semUn (d a : BitVec 6) (f : Word → Word) : Sem := semReg [a] d (fun c => f (c.g a))

/-- An immediate operation with S := sext(imm14, 14) (R76). -/
def immOp (d a : BitVec 6) (i : BitVec 14) (f : Word → Word → Word) : Sem := semReg [a] d (fun c => f (c.g a) (i.signExtend 64))

def semAdd (d a b : BitVec 6) : Sem := semBin d a b iAdd
def semSub (d a b : BitVec 6) : Sem := semBin d a b iSub
def semMul (d a b : BitVec 6) : Sem := semBin d a b iMul
def semMulh (d a b : BitVec 6) : Sem := semBin d a b iMulh
def semMulhu (d a b : BitVec 6) : Sem := semBin d a b iMulhu
def semDiv (d a b : BitVec 6) : Sem := semBin d a b iDiv
def semDivu (d a b : BitVec 6) : Sem := semBin d a b iDivu
def semRem (d a b : BitVec 6) : Sem := semBin d a b iRem
def semRemu (d a b : BitVec 6) : Sem := semBin d a b iRemu
def semAnd (d a b : BitVec 6) : Sem := semBin d a b iAnd
def semOr (d a b : BitVec 6) : Sem := semBin d a b iOr
def semXor (d a b : BitVec 6) : Sem := semBin d a b iXor
def semAndn (d a b : BitVec 6) : Sem := semBin d a b iAndn
def semOrn (d a b : BitVec 6) : Sem := semBin d a b iOrn
def semShl (d a b : BitVec 6) : Sem := semBin d a b iShl
def semShr (d a b : BitVec 6) : Sem := semBin d a b iShr
def semSar (d a b : BitVec 6) : Sem := semBin d a b iSar
def semRor (d a b : BitVec 6) : Sem := semBin d a b iRor
def semMin (d a b : BitVec 6) : Sem := semBin d a b iMin
def semMax (d a b : BitVec 6) : Sem := semBin d a b iMax
def semMinu (d a b : BitVec 6) : Sem := semBin d a b iMinu
def semMaxu (d a b : BitVec 6) : Sem := semBin d a b iMaxu
def semSlt (d a b : BitVec 6) : Sem := semBin d a b iSlt
def semSltu (d a b : BitVec 6) : Sem := semBin d a b iSltu
def semSeq (d a b : BitVec 6) : Sem := semBin d a b iSeq
def semSne (d a b : BitVec 6) : Sem := semBin d a b iSne
def semAddW (d a b : BitVec 6) : Sem := semBinW d a b iAdd
def semSubW (d a b : BitVec 6) : Sem := semBinW d a b iSub
def semMulW (d a b : BitVec 6) : Sem := semBinW d a b iMul
def semMulhW (d a b : BitVec 6) : Sem := semBinW d a b iMulh
def semMulhuW (d a b : BitVec 6) : Sem := semBinW d a b iMulhu
def semDivW (d a b : BitVec 6) : Sem := semBinW d a b iDiv
def semDivuW (d a b : BitVec 6) : Sem := semBinW d a b iDivu
def semRemW (d a b : BitVec 6) : Sem := semBinW d a b iRem
def semRemuW (d a b : BitVec 6) : Sem := semBinW d a b iRemu
def semAndW (d a b : BitVec 6) : Sem := semBinW d a b iAnd
def semOrW (d a b : BitVec 6) : Sem := semBinW d a b iOr
def semXorW (d a b : BitVec 6) : Sem := semBinW d a b iXor
def semAndnW (d a b : BitVec 6) : Sem := semBinW d a b iAndn
def semOrnW (d a b : BitVec 6) : Sem := semBinW d a b iOrn
def semShlW (d a b : BitVec 6) : Sem := semBinW d a b iShl
def semShrW (d a b : BitVec 6) : Sem := semBinW d a b iShr
def semSarW (d a b : BitVec 6) : Sem := semBinW d a b iSar
def semRorW (d a b : BitVec 6) : Sem := semBinW d a b iRor
def semMinW (d a b : BitVec 6) : Sem := semBinW d a b iMin
def semMaxW (d a b : BitVec 6) : Sem := semBinW d a b iMax
def semMinuW (d a b : BitVec 6) : Sem := semBinW d a b iMinu
def semMaxuW (d a b : BitVec 6) : Sem := semBinW d a b iMaxu
def semSltW (d a b : BitVec 6) : Sem := semBinW d a b iSlt
def semSltuW (d a b : BitVec 6) : Sem := semBinW d a b iSltu
def semSeqW (d a b : BitVec 6) : Sem := semBinW d a b iSeq
def semSneW (d a b : BitVec 6) : Sem := semBinW d a b iSne

/-! ### Immediate operations (R75, R76) -/

def semAddi (d a : BitVec 6) (i : BitVec 14) : Sem := immOp d a i iAdd
def semAndi (d a : BitVec 6) (i : BitVec 14) : Sem := immOp d a i iAnd
def semOri (d a : BitVec 6) (i : BitVec 14) : Sem := immOp d a i iOr
def semXori (d a : BitVec 6) (i : BitVec 14) : Sem := immOp d a i iXor
def semSlti (d a : BitVec 6) (i : BitVec 14) : Sem := immOp d a i iSlt
def semSltui (d a : BitVec 6) (i : BitVec 14) : Sem := immOp d a i iSltu
def semMuli (d a : BitVec 6) (i : BitVec 14) : Sem := immOp d a i iMul
def semShli (d a k : BitVec 6) : Sem := semReg [a] d (fun c => (c.g a) <<< k.toNat)
def semShri (d a k : BitVec 6) : Sem := semReg [a] d (fun c => (c.g a) >>> k.toNat)
def semSari (d a k : BitVec 6) : Sem := semReg [a] d (fun c => (c.g a).sshiftRight k.toNat)
def semRori (d a k : BitVec 6) : Sem := semReg [a] d (fun c => (c.g a).rotateRight k.toNat)

/-! ### Constants (R77) -/

def semImm (d : BitVec 6) (i : BitVec 20) : Sem := semReg [] d (fun _ => i.signExtend 64)
def semImmh (d : BitVec 6) (i : BitVec 20) : Sem := semReg [d] d (fun c => c.g d + (i.signExtend 64) <<< 20)
def semImmt (d : BitVec 6) (i : BitVec 20) : Sem := semReg [d] d (fun c => c.g d + (i.signExtend 64) <<< 40)

/-! ### Bit operations (R78) -/

def clz64 (x : Word) : Word := word (64 - bitlen x.toNat)
def ctz64 (x : Word) : Word := if x = 0 then 64 else word (Nat.log2 (x &&& (-x)).toNat)
def popc64 (x : Word) : Word := word ((List.range 64).filter (fun i => x.getLsbD i)).length
def brev64 (x : Word) : Word := x.reverse
/-- Byte j moves to byte 7 - j. -/
def bswap64 (x : Word) : Word := word (leNat (leBytes 8 x.toNat).reverse)
def bset64 (a b : Word) : Word := if b.toNat < 64 then a ||| (1#64 <<< b.toNat) else a
def bclr64 (a b : Word) : Word := if b.toNat < 64 then a &&& ~~~(1#64 <<< b.toNat) else a

def semClz (d a : BitVec 6) : Sem := semUn d a clz64
def semCtz (d a : BitVec 6) : Sem := semUn d a ctz64
def semPopc (d a : BitVec 6) : Sem := semUn d a popc64
def semBrev (d a : BitVec 6) : Sem := semUn d a brev64
def semBswap (d a : BitVec 6) : Sem := semUn d a bswap64
def semBset (d a b : BitVec 6) : Sem := semBin d a b bset64
def semBclr (d a b : BitVec 6) : Sem := semBin d a b bclr64

/-! ### Bit fields (R79, R80) -/

/-- The effective width: min(width, 64 - offset). -/
def fieldWidth (o w : BitVec 6) : Nat := min w.toNat (64 - o.toNat)

def bext64 (x : Word) (o w : BitVec 6) : Word :=
  if fieldWidth o w = 0 then 0 else sext (x.toNat / 2 ^ o.toNat % 2 ^ fieldWidth o w) (fieldWidth o w)
def bextu64 (x : Word) (o w : BitVec 6) : Word := word (x.toNat / 2 ^ o.toNat % 2 ^ fieldWidth o w)
def bins64 (old x : Word) (o w : BitVec 6) : Word :=
  let m := word ((2 ^ fieldWidth o w - 1) * 2 ^ o.toNat)
  (old &&& ~~~m) ||| ((x <<< o.toNat) &&& m)

def semBext (d a o w : BitVec 6) : Sem := semReg [a] d (fun c => bext64 (c.g a) o w)
def semBextu (d a o w : BitVec 6) : Sem := semReg [a] d (fun c => bextu64 (c.g a) o w)
def semBins (d a o w : BitVec 6) : Sem := semReg [d, a] d (fun c => bins64 (c.g d) (c.g a) o w)

/-! ### LEA and SEL (R81, R82) -/

def semLea (d a b : BitVec 6) (s : BitVec 3) (i : BitVec 5) : Sem :=
  semReg [a, b] d (fun c => c.g a + (c.g b) <<< s.toNat + i.signExtend 64)
def semSel (d a b : BitVec 6) : Sem := semReg [d, a, b] d (fun c => if c.g d ≠ 0 then c.g a else c.g b)

/-! ### COORD and PART (R83 to R87, R379, R380) -/

/-- A start position of a launch as COORD counts it: package entry, grid row, grid column, core. -/
structure GPos where
  pi : Nat
  r : Nat
  c : Nat
  k : Nat
deriving DecidableEq, Repr

/-- The instance of a domain that holds a position (R380): CORE, QUAD, TILE, BLOCK, DIE, PACKAGE, SYSTEM. -/
def domKey (dom : Nat) (g : GPos) : List Nat :=
  match dom with
  | 0 => [g.pi, g.r, g.c, g.k]
  | 1 => [g.pi, g.r, g.c, g.k / 4]
  | 2 => [g.pi, g.r, g.c]
  | 3 => [g.pi, g.r / 2, g.c / 2]
  | 4 => [g.pi, g.r / 12, g.c / 12]
  | 5 => [g.pi]
  | _ => []

/-- Row or column of an instance of TILE, BLOCK or DIE, from a grid coordinate (R380). -/
def domLine (dom x : Nat) : Nat := if dom = 2 then x else if dom = 3 then x / 2 else x / 12

/-- Level `l` of LEVCTL: its domain (R376). -/
def levelDomain (levctl l : Nat) : Nat := bits levctl (6 * l + 2) (6 * l)
def levelScope (levctl l : Nat) : Nat := bits levctl (6 * l + 5) (6 * l + 3)
/-- Number of levels minus 1 (R376). -/
def levelTop (levctl : Nat) : Nat := bits levctl 55 53

/-- Every start position of a launch (R375, R377), by package entry, then row, column and core. R85 orders CORE and QUAD instances by row and
column; between packages it gives no order, and the model goes by package entry (log 47). -/
def launchPositions (place npkg : Nat) : List GPos :=
  let r0 := bits place 26 22
  let c0 := bits place 31 27
  (List.range npkg).flatMap (fun pi => (List.range (bits place 36 32)).flatMap (fun r =>
    (List.range (bits place 41 37)).flatMap (fun c => (List.range 8).map (fun k => ⟨pi, r0 + r, c0 + c, k⟩))))

/-- The four 16-bit fields of a COORD value (R84), each with the low bits of what it holds (R35). -/
def coordWord (nrow ncol row col : Nat) : Word :=
  word (nrow % 2 ^ 16 * 2 ^ 48 + ncol % 2 ^ 16 * 2 ^ 32 + row % 2 ^ 16 * 2 ^ 16 + col % 2 ^ 16)

/-- The value of COORD at level `l` for a thread of a launch that started at `p` (R84, R85). -/
def coordValue (x : Launch) (p : Pos) (l : Nat) : Word :=
  let lev := (x.words.getD 2 0).toNat
  let tl := p.tileRef
  let own : GPos := ⟨x.pkgs.idxOf p.pkg, tl.row, tl.col, p.core⟩
  if levelTop lev < l then 0
  else
    let dom := levelDomain lev l
    let encl := if l = levelTop lev then 7 else levelDomain lev (l + 1)
    let all := (launchPositions (x.words.getD 3 0).toNat x.pkgs.length).filter (fun g => domKey encl g == domKey encl own)
    if 2 ≤ dom ∧ dom ≤ 4 then
      let rows := (all.map (fun g => domLine dom g.r)).eraseDups
      let cols := (all.map (fun g => domLine dom g.c)).eraseDups
      let row := (rows.filter (· < domLine dom own.r)).length
      let col := (cols.filter (· < domLine dom own.c)).length
      coordWord rows.length cols.length row col
    else
      let inst := (all.map (domKey dom)).eraseDups
      coordWord 1 inst.length 0 (inst.idxOf (domKey dom own))

def coordOf (s : State) (t : Thread) (l : Nat) : Word :=
  match s.launches.get? t.launch with
  | none => 0
  | some x => coordValue x t.start l

/-- PART of extent `e` under control word `ctl` at the COORD value `c` (R86, R87); at a level whose count of instances along the axis shows as
0, a multiple of 65,536, R87 gives no value (log 69). -/
def partValue (c e ctl : Nat) : Word :=
  let gr := bits ctl 10 5
  let ax := bits ctl 4 3
  let nr := bits c 63 48
  let nc := bits c 47 32
  let row := bits c 31 16
  let col := bits c 15 0
  let n := if ax = 0 then nr * nc else if ax = 1 then nr else nc
  if 0xFFFFFFFF < e ∨ ctl / 2048 ≠ 0 ∨ ax = 3 ∨ 31 < gr ∨ nr = 0 then ones64
  else if n = 0 then Config.partOfNone c e ctl
  else
    let i := if ax = 0 then row * nc + col else if ax = 1 then row else col
    let u := (e + 2 ^ gr - 1) / 2 ^ gr
    let q := u / n
    let m := u % n
    let cnt := if i < m then q + 1 else q
    let start := (i * q + min i m) * 2 ^ gr
    if e ≤ start then word e else word (min (cnt * 2 ^ gr) (e - start) * 2 ^ 32 + start)

def semCoord (d l : BitVec 6) : Sem :=
  { wg := [d.toNat], run := fun c s => regWrite c.tid d.toNat (coordOf s c.pre l.toNat) s }
def semPart (d a b : BitVec 6) : Sem :=
  { srcs := [a, b], wg := [d.toNat]
    run := fun c s => regWrite c.tid d.toNat
      (partValue (coordOf s c.pre ((c.g b).toNat % 8)).toNat (c.g a).toNat (c.g b).toNat) s }

/-- ADD. -/
def execAdd (d a b : BitVec 6) (σ : State) : Host.Outcome State Fault Refusal := issueS (semAdd d a b) σ
/-- SUB. -/
def execSub (d a b : BitVec 6) (σ : State) : Host.Outcome State Fault Refusal := issueS (semSub d a b) σ
/-- MUL. -/
def execMul (d a b : BitVec 6) (σ : State) : Host.Outcome State Fault Refusal := issueS (semMul d a b) σ
/-- MULH. -/
def execMulh (d a b : BitVec 6) (σ : State) : Host.Outcome State Fault Refusal := issueS (semMulh d a b) σ
/-- MULHU. -/
def execMulhu (d a b : BitVec 6) (σ : State) : Host.Outcome State Fault Refusal := issueS (semMulhu d a b) σ
/-- DIV. -/
def execDiv (d a b : BitVec 6) (σ : State) : Host.Outcome State Fault Refusal := issueS (semDiv d a b) σ
/-- DIVU. -/
def execDivu (d a b : BitVec 6) (σ : State) : Host.Outcome State Fault Refusal := issueS (semDivu d a b) σ
/-- REM. -/
def execRem (d a b : BitVec 6) (σ : State) : Host.Outcome State Fault Refusal := issueS (semRem d a b) σ
/-- REMU. -/
def execRemu (d a b : BitVec 6) (σ : State) : Host.Outcome State Fault Refusal := issueS (semRemu d a b) σ
/-- AND. -/
def execAnd (d a b : BitVec 6) (σ : State) : Host.Outcome State Fault Refusal := issueS (semAnd d a b) σ
/-- OR. -/
def execOr (d a b : BitVec 6) (σ : State) : Host.Outcome State Fault Refusal := issueS (semOr d a b) σ
/-- XOR. -/
def execXor (d a b : BitVec 6) (σ : State) : Host.Outcome State Fault Refusal := issueS (semXor d a b) σ
/-- ANDN. -/
def execAndn (d a b : BitVec 6) (σ : State) : Host.Outcome State Fault Refusal := issueS (semAndn d a b) σ
/-- ORN. -/
def execOrn (d a b : BitVec 6) (σ : State) : Host.Outcome State Fault Refusal := issueS (semOrn d a b) σ
/-- SHL. -/
def execShl (d a b : BitVec 6) (σ : State) : Host.Outcome State Fault Refusal := issueS (semShl d a b) σ
/-- SHR. -/
def execShr (d a b : BitVec 6) (σ : State) : Host.Outcome State Fault Refusal := issueS (semShr d a b) σ
/-- SAR. -/
def execSar (d a b : BitVec 6) (σ : State) : Host.Outcome State Fault Refusal := issueS (semSar d a b) σ
/-- ROR. -/
def execRor (d a b : BitVec 6) (σ : State) : Host.Outcome State Fault Refusal := issueS (semRor d a b) σ
/-- MIN. -/
def execMin (d a b : BitVec 6) (σ : State) : Host.Outcome State Fault Refusal := issueS (semMin d a b) σ
/-- MAX. -/
def execMax (d a b : BitVec 6) (σ : State) : Host.Outcome State Fault Refusal := issueS (semMax d a b) σ
/-- MINU. -/
def execMinu (d a b : BitVec 6) (σ : State) : Host.Outcome State Fault Refusal := issueS (semMinu d a b) σ
/-- MAXU. -/
def execMaxu (d a b : BitVec 6) (σ : State) : Host.Outcome State Fault Refusal := issueS (semMaxu d a b) σ
/-- SLT. -/
def execSlt (d a b : BitVec 6) (σ : State) : Host.Outcome State Fault Refusal := issueS (semSlt d a b) σ
/-- SLTU. -/
def execSltu (d a b : BitVec 6) (σ : State) : Host.Outcome State Fault Refusal := issueS (semSltu d a b) σ
/-- SEQ. -/
def execSeq (d a b : BitVec 6) (σ : State) : Host.Outcome State Fault Refusal := issueS (semSeq d a b) σ
/-- SNE. -/
def execSne (d a b : BitVec 6) (σ : State) : Host.Outcome State Fault Refusal := issueS (semSne d a b) σ
/-- ADD_W. -/
def execAddW (d a b : BitVec 6) (σ : State) : Host.Outcome State Fault Refusal := issueS (semAddW d a b) σ
/-- SUB_W. -/
def execSubW (d a b : BitVec 6) (σ : State) : Host.Outcome State Fault Refusal := issueS (semSubW d a b) σ
/-- MUL_W. -/
def execMulW (d a b : BitVec 6) (σ : State) : Host.Outcome State Fault Refusal := issueS (semMulW d a b) σ
/-- MULH_W. -/
def execMulhW (d a b : BitVec 6) (σ : State) : Host.Outcome State Fault Refusal := issueS (semMulhW d a b) σ
/-- MULHU_W. -/
def execMulhuW (d a b : BitVec 6) (σ : State) : Host.Outcome State Fault Refusal := issueS (semMulhuW d a b) σ
/-- DIV_W. -/
def execDivW (d a b : BitVec 6) (σ : State) : Host.Outcome State Fault Refusal := issueS (semDivW d a b) σ
/-- DIVU_W. -/
def execDivuW (d a b : BitVec 6) (σ : State) : Host.Outcome State Fault Refusal := issueS (semDivuW d a b) σ
/-- REM_W. -/
def execRemW (d a b : BitVec 6) (σ : State) : Host.Outcome State Fault Refusal := issueS (semRemW d a b) σ
/-- REMU_W. -/
def execRemuW (d a b : BitVec 6) (σ : State) : Host.Outcome State Fault Refusal := issueS (semRemuW d a b) σ
/-- AND_W. -/
def execAndW (d a b : BitVec 6) (σ : State) : Host.Outcome State Fault Refusal := issueS (semAndW d a b) σ
/-- OR_W. -/
def execOrW (d a b : BitVec 6) (σ : State) : Host.Outcome State Fault Refusal := issueS (semOrW d a b) σ
/-- XOR_W. -/
def execXorW (d a b : BitVec 6) (σ : State) : Host.Outcome State Fault Refusal := issueS (semXorW d a b) σ
/-- ANDN_W. -/
def execAndnW (d a b : BitVec 6) (σ : State) : Host.Outcome State Fault Refusal := issueS (semAndnW d a b) σ
/-- ORN_W. -/
def execOrnW (d a b : BitVec 6) (σ : State) : Host.Outcome State Fault Refusal := issueS (semOrnW d a b) σ
/-- SHL_W. -/
def execShlW (d a b : BitVec 6) (σ : State) : Host.Outcome State Fault Refusal := issueS (semShlW d a b) σ
/-- SHR_W. -/
def execShrW (d a b : BitVec 6) (σ : State) : Host.Outcome State Fault Refusal := issueS (semShrW d a b) σ
/-- SAR_W. -/
def execSarW (d a b : BitVec 6) (σ : State) : Host.Outcome State Fault Refusal := issueS (semSarW d a b) σ
/-- ROR_W. -/
def execRorW (d a b : BitVec 6) (σ : State) : Host.Outcome State Fault Refusal := issueS (semRorW d a b) σ
/-- MIN_W. -/
def execMinW (d a b : BitVec 6) (σ : State) : Host.Outcome State Fault Refusal := issueS (semMinW d a b) σ
/-- MAX_W. -/
def execMaxW (d a b : BitVec 6) (σ : State) : Host.Outcome State Fault Refusal := issueS (semMaxW d a b) σ
/-- MINU_W. -/
def execMinuW (d a b : BitVec 6) (σ : State) : Host.Outcome State Fault Refusal := issueS (semMinuW d a b) σ
/-- MAXU_W. -/
def execMaxuW (d a b : BitVec 6) (σ : State) : Host.Outcome State Fault Refusal := issueS (semMaxuW d a b) σ
/-- SLT_W. -/
def execSltW (d a b : BitVec 6) (σ : State) : Host.Outcome State Fault Refusal := issueS (semSltW d a b) σ
/-- SLTU_W. -/
def execSltuW (d a b : BitVec 6) (σ : State) : Host.Outcome State Fault Refusal := issueS (semSltuW d a b) σ
/-- SEQ_W. -/
def execSeqW (d a b : BitVec 6) (σ : State) : Host.Outcome State Fault Refusal := issueS (semSeqW d a b) σ
/-- SNE_W. -/
def execSneW (d a b : BitVec 6) (σ : State) : Host.Outcome State Fault Refusal := issueS (semSneW d a b) σ
/-- ADDI. -/
def execAddi (d a : BitVec 6) (i : BitVec 14) (σ : State) : Host.Outcome State Fault Refusal := issueS (semAddi d a i) σ
/-- ANDI. -/
def execAndi (d a : BitVec 6) (i : BitVec 14) (σ : State) : Host.Outcome State Fault Refusal := issueS (semAndi d a i) σ
/-- ORI. -/
def execOri (d a : BitVec 6) (i : BitVec 14) (σ : State) : Host.Outcome State Fault Refusal := issueS (semOri d a i) σ
/-- XORI. -/
def execXori (d a : BitVec 6) (i : BitVec 14) (σ : State) : Host.Outcome State Fault Refusal := issueS (semXori d a i) σ
/-- SHLI. -/
def execShli (d a k : BitVec 6) (σ : State) : Host.Outcome State Fault Refusal := issueS (semShli d a k) σ
/-- SHRI. -/
def execShri (d a k : BitVec 6) (σ : State) : Host.Outcome State Fault Refusal := issueS (semShri d a k) σ
/-- SARI. -/
def execSari (d a k : BitVec 6) (σ : State) : Host.Outcome State Fault Refusal := issueS (semSari d a k) σ
/-- RORI. -/
def execRori (d a k : BitVec 6) (σ : State) : Host.Outcome State Fault Refusal := issueS (semRori d a k) σ
/-- SLTI. -/
def execSlti (d a : BitVec 6) (i : BitVec 14) (σ : State) : Host.Outcome State Fault Refusal := issueS (semSlti d a i) σ
/-- SLTUI. -/
def execSltui (d a : BitVec 6) (i : BitVec 14) (σ : State) : Host.Outcome State Fault Refusal := issueS (semSltui d a i) σ
/-- MULI. -/
def execMuli (d a : BitVec 6) (i : BitVec 14) (σ : State) : Host.Outcome State Fault Refusal := issueS (semMuli d a i) σ
/-- IMM. -/
def execImm (d : BitVec 6) (i : BitVec 20) (σ : State) : Host.Outcome State Fault Refusal := issueS (semImm d i) σ
/-- IMMH. -/
def execImmh (d : BitVec 6) (i : BitVec 20) (σ : State) : Host.Outcome State Fault Refusal := issueS (semImmh d i) σ
/-- IMMT. -/
def execImmt (d : BitVec 6) (i : BitVec 20) (σ : State) : Host.Outcome State Fault Refusal := issueS (semImmt d i) σ
/-- CLZ. -/
def execClz (d a : BitVec 6) (σ : State) : Host.Outcome State Fault Refusal := issueS (semClz d a) σ
/-- CTZ. -/
def execCtz (d a : BitVec 6) (σ : State) : Host.Outcome State Fault Refusal := issueS (semCtz d a) σ
/-- POPC. -/
def execPopc (d a : BitVec 6) (σ : State) : Host.Outcome State Fault Refusal := issueS (semPopc d a) σ
/-- BREV. -/
def execBrev (d a : BitVec 6) (σ : State) : Host.Outcome State Fault Refusal := issueS (semBrev d a) σ
/-- BSWAP. -/
def execBswap (d a : BitVec 6) (σ : State) : Host.Outcome State Fault Refusal := issueS (semBswap d a) σ
/-- BSET. -/
def execBset (d a b : BitVec 6) (σ : State) : Host.Outcome State Fault Refusal := issueS (semBset d a b) σ
/-- BCLR. -/
def execBclr (d a b : BitVec 6) (σ : State) : Host.Outcome State Fault Refusal := issueS (semBclr d a b) σ
/-- BEXT. -/
def execBext (d a o w : BitVec 6) (σ : State) : Host.Outcome State Fault Refusal := issueS (semBext d a o w) σ
/-- BEXTU. -/
def execBextu (d a o w : BitVec 6) (σ : State) : Host.Outcome State Fault Refusal := issueS (semBextu d a o w) σ
/-- BINS. -/
def execBins (d a o w : BitVec 6) (σ : State) : Host.Outcome State Fault Refusal := issueS (semBins d a o w) σ
/-- LEA. -/
def execLea (d a b : BitVec 6) (s : BitVec 3) (i : BitVec 5) (σ : State) : Host.Outcome State Fault Refusal := issueS (semLea d a b s i) σ
/-- SEL. -/
def execSel (d a b : BitVec 6) (σ : State) : Host.Outcome State Fault Refusal := issueS (semSel d a b) σ
/-- PART. -/
def execPart (d a b : BitVec 6) (σ : State) : Host.Outcome State Fault Refusal := issueS (semPart d a b) σ
/-- COORD. -/
def execCoord (d l : BitVec 6) (σ : State) : Host.Outcome State Fault Refusal := issueS (semCoord d l) σ

end Sys2Proof.Machine
end

