-- ==== Sys2Proof/Machine/Mgmt.lean ====
section
/-!
DEFINITION. Machine/Mgmt.lean: the management mailbox and its commands, the registers a host reads, attestation, and the board
management controller (20 R421, 24 R400 to R402, R412 to R417).
-/
namespace Sys2Proof.Machine
open Sys2Proof

/-! ### Registers as the host reads them (R400 to R402, R414, R416) -/

/-- LMSTAT (R402). -/
def lmstat (x : Part) : Word :=
  word (b2n x.lmBusy * 2 ^ 63 + b2n x.lmDone * 2 ^ 62 + x.lmReason % 256 * 2 ^ 48 + x.lmDrop % 65536 * 2 ^ 32 + x.lmId % 2 ^ 32)

/-- HPSTAT (R401). -/
def hpstat (x : Part) : Word := word (b2n x.hpBusy * 2 ^ 63 + x.hpResult % 256)

/-- MGSTAT (R416). -/
def mgstat (m : Mgmt) : Word :=
  word (b2n m.busy * 2 ^ 63 + b2n m.done * 2 ^ 62 + m.result % 256 * 2 ^ 48 + m.drop % 65536 * 2 ^ 32 + m.rlen % 65536 * 2 ^ 16 +
    m.cmd % 65536)

/-- A register of a partition function (R401). -/
def partRegister (x : Part) (off : Nat) : Word :=
  if off % 8 ≠ 0 then 0
  else if off < 0x80 then x.lmrec.getD (off / 8) 0
  else if off = 0x88 then lmstat x
  else if 0xC0 ≤ off ∧ off < 0x100 then x.hpkt.getD ((off - 0xC0) / 8) 0
  else if off = 0x108 then hpstat x
  else if off = 0x140 then x.erBase
  else if off = 0x148 then word x.erSize
  else if off = 0x150 then x.erNote
  else if off = 0x158 then word x.erCons
  else if off = 0x160 then word (b2n x.erIntc)
  else 0

/-- A register of the management function (R414). -/
def mgmtRegister (m : Mgmt) (off : Nat) : Word :=
  if off % 8 ≠ 0 then 0
  else if off = 0 then 1
  else if off = 0x10 then mgstat m
  else if off = 0x18 then word m.intc
  else if off = 0x20 then word m.retire.length
  else if 0x1000 ≤ off ∧ off < 0x2000 then m.req.getD ((off - 0x1000) / 8) 0
  else if 0x2000 ≤ off ∧ off < 0x3000 then m.rsp.getD ((off - 0x2000) / 8) 0
  else 0

/-- What an aligned 64-bit read of BAR0 of a function brings (R400). -/
def hostRegister (s : State) (pkg fn off : Nat) : Word :=
  if fn = 0 then mgmtRegister (s.pkg pkg).mgmt off
  else match fnPart s pkg fn with
    | some p => partRegister (s.part p) off
    | none => 0

/-! ### Commands (R414 to R416) -/

def updMgmt (p : Nat) (f : Mgmt → Mgmt) (s : State) : State := s.updPkg p (fun x => { x with mgmt := f x.mgmt })

/-- The event of a command code (R415). -/
def commandOf (c : Nat) : Option Instr :=
  match c with
  | 0x01 => some .pcreate
  | 0x02 => some .pdestroy
  | 0x03 => some .pset
  | 0x04 => some .pget
  | 0x10 => some .qassign
  | 0x11 => some .hdmset
  | 0x20 => some .streamset
  | 0x21 => some .streamget
  | 0x22 => some .portset
  | 0x23 => some .portcnt
  | 0x30 => some .clkset
  | 0x31 => some .clkget
  | 0x32 => some .drpset
  | 0x33 => some .replan
  | 0x34 => some .retread
  | 0x35 => some .telem
  | 0x36 => some .linkcnt
  | 0x40 => some .dreset
  | _ => none

/-- A command's result and response; it completes next (R416). -/
def reply (p r : Nat) (ws : List Word) (s : State) : State :=
  (updMgmt p (fun m => { m with ran := true, result := r, rlen := 8 * ws.length, rsp := ws ++ m.rsp.drop ws.length }) s).post
    .mgmtCommandDone (.pkg p)

/-- MGDOOR (R414): the command starts, or the write is counted; nothing runs before the device is ready (R411). -/
def execMgdoor (s : State) : Host.Outcome State Fault Refusal :=
  match s.obj with
  | .reg p fn _ w =>
    if fn ≠ 0 ∨ (s.pkg p).ready = false then .next s
    else if (s.pkg p).mgmt.busy then .next (updMgmt p (fun m => { m with drop := min 0xFFFF (m.drop + 1) }) s)
    else
      let c := bits w.toNat 15 0
      let s := updMgmt p (fun m => { m with busy := true, ran := false, done := false, cmd := c, len := bits w.toNat 31 16 }) s
      .next (match commandOf c with
        | some i => s.post i (.pkg p)
        | none => reply p 1 [] s)
  | _ => .next s

/-- MGMT_COMMAND_DONE (R414, R416). -/
def execMgmtCommandDone (s : State) : Host.Outcome State Fault Refusal :=
  match s.obj with
  | .pkg p =>
    let m := (s.pkg p).mgmt
    if m.busy ∧ m.ran then
      let s := updMgmt p (fun m => { m with busy := false, ran := false, done := true }) s
      .next (if bitAt m.intc 0 then raiseVector p 0 s else s)
    else .next s
  | _ => .next s

/-- Dword `k` of the request: what lies in its length. -/
def reqDword (m : Mgmt) (k : Nat) : Nat := (m.req.getD k 0).toNat % 2 ^ (8 * min 8 (m.len - 8 * k))

/-- A request that is too long or shorter than its layout, or that has a bit which the layout does not name (R414, R415). -/
def requestBad (m : Mgmt) (masks : List Nat) : Bool :=
  4096 < m.len || (m.len < 8 * masks.length ||
    (List.range 512).any (fun k => (word (reqDword m k) &&& ~~~(word (masks.getD k 0))) != 0))

/-- A command under way, of the right code: RESULT 2 when its request is malformed. -/
def onCommand (s : State) (code : Nat) (masks : Mgmt → List Nat) (f : Nat → (Nat → Nat) → State → State) :
    Host.Outcome State Fault Refusal :=
  match s.obj with
  | .pkg p =>
    let m := (s.pkg p).mgmt
    .next (if m.busy ∧ m.ran = false ∧ m.cmd = code then (if requestBad m (masks m) then reply p 2 [] s else f p (reqDword m) s) else s)
  | _ => .next s

/-! ### Partitions (R392, R394, R415, R417) -/

/-- PCREATE. -/
def execPcreate (s : State) : Host.Outcome State Fault Refusal :=
  onCommand s 0x01 (fun _ => [0xF]) (fun p d s =>
    let q : PartRef := ⟨p, d 0⟩
    if 14 ≤ d 0 then reply p 4 [] s
    else if (s.parts.get? q).isSome then reply p 3 [] s
    else reply p 0 [] (s.updPart q (fun _ => Part.init)))

/-- Whether a partition has no launch, record, thread or swapped-out context on a package (R394). -/
def partIdle (s : State) (q : PartRef) : Bool :=
  !s.launches.any (fun e => e.2.part == q.part && (e.2.pkg == q.pkg || e.2.pkgs.contains q.pkg)) &&
    (!s.subs.any (fun e => e.2.part == q.part && e.2.pkg == q.pkg) &&
      ((s.tids (fun t => t.part == q.part && t.pos.pkg == q.pkg)).isEmpty && (s.part q).images.isEmpty))

/-- PDESTROY: its shares go to Free, those on their way to its pool as they arrive, and its queues are unassigned (log 28). -/
def execPdestroy (s : State) : Host.Outcome State Fault Refusal :=
  onCommand s 0x02 (fun _ => [0xF]) (fun p d s =>
    let q : PartRef := ⟨p, d 0⟩
    if 14 ≤ d 0 then reply p 4 [] s
    else if (s.parts.get? q).isNone ∨ partIdle s q = false then reply p 3 [] s
    else
      let s := reclaimSlack q s
      let n := (s.part q).pool
      let s := s.updPkg p (fun x => { x with freeShares := x.freeShares + n })
      let s := { s with
        parts := s.parts.del q
        transits := s.transits.map (fun (e : Nat × Transit) =>
          (e.1, if e.2.dest = .pool q then { e.2 with dest := .free p } else e.2))
        taskQueues := s.taskQueues.filter (fun (e : TaskQueueRef × TaskQueue) => !(e.1.pkg == p && e.2.part == some q.part)) }
      reply p 0 [] s)

/-- The request layout of an item (R417), from dword 1; none for an unknown item. -/
def itemMasks (m : Mgmt) : Option (List Nat) :=
  let all := 2 ^ 64 - 1
  match bits (reqDword m 0) 23 16 with
  | 0x01 => some (List.replicate 9 all)
  | 0x02 => some [0x3FFF]
  | 0x03 => some [all]
  | 0x04 => some [all]
  | 0x05 => some [1]
  | 0x06 => some [all]
  | 0x07 => some [all]
  | 0x08 => some [all]
  | 0x09 => some (List.replicate 8 all)
  | 0x0A => some (all :: List.replicate (min 511 (reqDword m 1)) 0x0FFF03FF)
  | 0x0B => some [all, all]
  | 0x0C => some [0xF]
  | 0x0D => some [0x07FF07FF07FF07FF]
  | 0x0E => some [all, all]
  | 0x0F => some [all, all]
  | _ => none

/-- Bytes of some dwords. -/
def dwordBytes (d : Nat → Nat) (k n : Nat) : List Nat := (List.range n).map (fun i => d (k + i / 8) / 2 ^ (8 * (i % 8)) % 256)

def rising : List Nat → Bool
  | [] => true
  | [_] => true
  | x :: y :: l => x ≤ y && rising (y :: l)

/-- The tile of a place in the package grid, as die × 144 + tile (R10, R417 TILES). -/
def gridIndex (k : Nat) : Nat := (gridTile 0 (k / 24) (k % 24)).die * 144 + (gridTile 0 (k / 24) (k % 24)).tile

/-- A change of an allotment (R421); what a lowering misses while the pool's slack is on its way back is debt, which that slack pays. -/
def setAllot (q : PartRef) (n : Nat) (s : State) : State :=
  let old := (s.part q).allot
  let s := s.updPart q (fun x => { x with allot := n })
  if old ≤ n then
    let pay := min (s.part q).debt (n - old)
    (s.updPart q (fun x => { x with debt := x.debt - pay, pool := x.pool + (n - old - pay) })).updPkg q.pkg
      (fun x => { x with freeShares := x.freeShares - (n - old - pay) })
  else
    let s := reclaimSlack q s
    let take := min (old - n) ((s.part q).pool - poolReserved s q)
    (s.updPart q (fun x => { x with pool := x.pool - take, debt := x.debt + (old - n - take) })).updPkg q.pkg
      (fun x => { x with freeShares := x.freeShares + take })

/-- The allotments of the other partitions of a package. -/
def otherAllots (s : State) (q : PartRef) : Nat :=
  ((s.parts.filter (fun e => e.1.pkg == q.pkg && e.1.part != q.part)).map (fun (e : PartRef × Part) => e.2.allot)).sum

/-- The tiles of a package settle under a new cap or plan: one above its highest point steps down, and surplus leaves (R332, R408). -/
def settleTiles (pkg : Nat) (s : State) : State :=
  ((s.tiles.map (·.1)).filter (fun tl => tl.pkg == pkg)).foldl (fun s tl =>
    let s := match (s.tile tl).point, topPoint s tl with
      | some _, none => dropPoint tl s
      | some p, some q => if q < p ∨ pointEnabled s tl p = false then dropPoint tl s else s
      | none, _ => s
    settleSurplus tl s) s

/-- Sets an item: the result code and the state (R417); a swap-out that waited for an image area tries again. -/
def setItem (q : PartRef) (item : Nat) (d : Nat → Nat) (s : State) : Nat × State :=
  let put := fun (f : Part → Part) => (0, s.updPart q f)
  match item with
  | 0x01 => put (fun x => { x with tiles := ((List.range 576).filter (fun k => bitAt (d (1 + k / 64)) (k % 64))).map gridIndex })
  | 0x02 => put (fun x => { x with slots := d 1 })
  | 0x03 =>
    let old := (s.part q).allot
    if 65088 < otherAllots s q + d 1 ∨ (s.pkg q.pkg).freeShares + (s.part q).debt < d 1 - old then (3, s) else (0, setAllot q (d 1) s)
  | 0x04 => if 31 < d 1 then (4, s) else put (fun x => { x with pfloor := d 1 })
  | 0x05 => put (fun x => { x with slack := d 1 == 1 })
  | 0x06 => if d 1 % 2 ^ 15 ≠ 0 then (4, s) else put (fun x => { x with root := d 1 })
  | 0x07 => if d 1 % 8 ≠ 0 then (4, s) else put (fun x => { x with handler := word (d 1) })
  | 0x08 => if 2 ^ 32 ≤ d 1 then (4, s) else put (fun x => { x with wdog := d 1 })
  | 0x09 =>
    let hs := (List.range 8).map (fun k => d (1 + k))
    if hs.any (fun h => h % 64 != 0) then (4, s) else put (fun x => { x with htabs := hs })
  | 0x0A => if 511 < d 1 then (4, s)
      else put (fun x => { x with routes := (List.range (d 1)).map (fun k => (bits (d (2 + k)) 9 0, bits (d (2 + k)) 27 16)) })
  | 0x0B =>
    let vs := dwordBytes d 1 16
    if rising vs = false ∨ vs.any (fun v => 15 < v) = true then (4, s)
    else (0, settleTiles q.pkg (s.updPart q (fun x => { x with vstates := vs })))
  | 0x0C => put (fun x => { x with ptepol := d 1 })
  | 0x0D => if (List.range 4).any (fun k => 144 ≤ bits (d 1) (16 * k + 10) (16 * k + 3)) then (4, s)
      else put (fun x => { x with syscore := word (d 1) })
  | 0x0E => put (fun x => { x with injShared := word (d 1), injSpan := word (d 2) })
  | 0x0F => if d 1 % 65536 ≠ 0 then (4, s) else if (s.part q).images.isEmpty = false then (3, s)
      else (0, areaFreed (s.updPart q (fun x => { x with ctxBase := d 1, ctxSize := d 2 })))
  | _ => (2, s)

/-- PSET (R417). -/
def execPset (s : State) : Host.Outcome State Fault Refusal :=
  onCommand s 0x03 (fun m => 0xFF000F :: (itemMasks m).getD []) (fun p d s =>
    let q : PartRef := ⟨p, bits (d 0) 3 0⟩
    if (itemMasks (s.pkg p).mgmt).isNone then reply p 2 [] s
    else if 14 ≤ q.part then reply p 4 [] s
    else if (s.parts.get? q).isNone then reply p 3 [] s
    else
      let x := setItem q (bits (d 0) 23 16) d s
      reply p x.1 [] x.2)

/-- The value of an item (R417). -/
def itemValue (x : Part) (item : Nat) : Option (List Word) :=
  match item with
  | 0x01 => some ((List.range 9).map (fun w => word ((List.range 64).foldl (fun v b =>
      v + b2n (x.tiles.contains (gridIndex (64 * w + b))) * 2 ^ b) 0)))
  | 0x02 => some [word x.slots]
  | 0x03 => some [word x.allot]
  | 0x04 => some [word x.pfloor]
  | 0x05 => some [word (b2n x.slack)]
  | 0x06 => some [word x.root]
  | 0x07 => some [x.handler]
  | 0x08 => some [word x.wdog]
  | 0x09 => some (x.htabs.map word)
  | 0x0A => some (word x.routes.length :: x.routes.map (fun r => word (r.1 + r.2 * 2 ^ 16)))
  | 0x0B => some ((List.range 2).map (fun w => word ((List.range 8).foldl (fun v b => v + x.vstates.getD (8 * w + b) 0 * 2 ^ (8 * b)) 0)))
  | 0x0C => some [word x.ptepol]
  | 0x0D => some [x.syscore]
  | 0x0E => some [x.injShared, x.injSpan]
  | 0x0F => some [word x.ctxBase, word x.ctxSize]
  | _ => none

/-- PGET (R417). -/
def execPget (s : State) : Host.Outcome State Fault Refusal :=
  onCommand s 0x04 (fun _ => [0xFF000F]) (fun p d s =>
    let q : PartRef := ⟨p, bits (d 0) 3 0⟩
    match itemValue (s.part q) (bits (d 0) 23 16) with
    | none => reply p 2 [] s
    | some ws =>
      if 14 ≤ q.part then reply p 4 [] s
      else if (s.parts.get? q).isNone then reply p 3 [] s
      else reply p 0 ws s)

/-! ### Queues and decoders (R385, R387, R403) -/

/-- QASSIGN. -/
def execQassign (s : State) : Host.Outcome State Fault Refusal :=
  onCommand s 0x10 (fun _ => [0x8FFF]) (fun p d s =>
    let q : TaskQueueRef := ⟨p, bits (d 0) 7 6, bits (d 0) 5 0⟩
    let a := bits (d 0) 11 8
    let x := s.taskQueue q
    let inUse := !(x.packets.isEmpty && (x.waiters.isEmpty && x.posters.isEmpty))
    if bitAt (d 0) 15 then
      (if inUse then reply p 3 [] s else reply p 0 [] (s.updTaskQueue q (fun x => { x with part := none, isOpen := false })))
    else if 14 ≤ a then reply p 4 [] s
    else if (s.parts.get? ⟨p, a⟩).isNone ∨ (x.part ≠ some a ∧ inUse = true) then reply p 3 [] s
    else reply p 0 [] (s.updTaskQueue q (fun x => { x with part := some a, isOpen := true })))

/-- Whether a range lies in one range of the device's physical map (R422). -/
def inDevice (base size : Nat) : Bool :=
  [(0, 0x00C0_0000_0000), (0x0100_0000_0000, 0x2000_0000), (0x0200_0000_0000, 0x4000_0000), (0x0300_0000_0000, 0x1000_0000)].any
    (fun r => r.1 ≤ base && base + size ≤ r.1 + r.2)

/-- HDMSET. -/
def execHdmset (s : State) : Host.Outcome State Fault Refusal :=
  let m := 2 ^ 64 - 2 ^ 28
  onCommand s 0x11 (fun _ => [0x10F, m, m]) (fun p d s =>
    let q : PartRef := ⟨p, bits (d 0) 3 0⟩
    if 14 ≤ q.part then reply p 4 [] s
    else if (s.parts.get? q).isNone then reply p 3 [] s
    else if d 2 ≠ 0 ∧ inDevice (d 1) (d 2) = false then reply p 4 [] s
    else reply p 0 [] (s.updPart q (fun x => { x with hdm := x.hdm.set (bits (d 0) 8 8) (d 1, d 2) })))

/-! ### Streams and ports (R405, R407) -/

/-- The checks of a descriptor that is enabled (R405). -/
def streamOk (s : State) (p : PortRef) (x : Ingest) : Bool :=
  let n := x.nrec * x.recw * 8
  let b := x.dword 0
  x.act != 3 && (x.part < 14 && (1 ≤ x.recw && (x.recw ≤ 512 && ((!x.hdr || 2 ≤ x.recw) && (1 ≤ x.nrec &&
    ((s.part ⟨p.pkg, x.part⟩).hdm.any (fun r => r.1 ≤ b && b + n ≤ r.1 + r.2) && (regionOf b != .none && regionOf (b + n - 1) != .none)))))))

def streamMasks : List Nat :=
  [0x33F, 0xFFFFFFFFFFFF8, 0xFFE0FFFF00FFFFFF, 0xAFFFFFFFFFFFFFFF, 0x800000000000FFFF]

/-- STREAMSET (R405, R415): the descriptor is written; one that fails its checks has EN = 0. -/
def execStreamset (s : State) : Host.Outcome State Fault Refusal :=
  onCommand s 0x20 (fun _ => streamMasks) (fun p d s =>
    let q : PortRef := ⟨p, bits (d 0) 9 8⟩
    let k := bits (d 0) 5 0
    let old := s.stream q k
    let ws : List Word := (List.range 4).map (fun i => word (d (1 + i)))
    let en := bitAt (d 2) 63
    let ok := en && streamOk s q { old with desc := ws }
    let ws := if ok then ws else ws.set 1 (putBits (ws.getD 1 0) 63 63 0)
    let s := s.updStream q k (fun x => { x with desc := ws, enabled := ok, frame := if ok then 0 else x.frame, next := none, stopped := false })
    let s := match old.holds with
      | some n => if old.stopped ∧ heldBack s q n = false then sendPause q n 0 s else s
      | none => s
    let s := if ok ∧ old.waiting ≠ [] then s.post .ingestRecordWrite (.portNum q k) else s
    reply p (if en && !ok then 4 else 0) [] s)

/-- STREAMGET. -/
def execStreamget (s : State) : Host.Outcome State Fault Refusal :=
  onCommand s 0x21 (fun _ => [0x33F]) (fun p d s =>
    let x := s.stream ⟨p, bits (d 0) 9 8⟩ (bits (d 0) 5 0)
    reply p 0 (x.desc ++ [word x.written, word x.dropped, word x.truncated]) s)

/-- PORTSET. -/
def execPortset (s : State) : Host.Outcome State Fault Refusal :=
  onCommand s 0x22 (fun _ => [0x300, 0xFFFF]) (fun p d s =>
    reply p 0 [] (s.updEth ⟨p, bits (d 0) 9 8⟩ (fun x => { x with quanta := d 1 })))

/-- PORTCNT. -/
def execPortcnt (s : State) : Host.Outcome State Fault Refusal :=
  onCommand s 0x23 (fun _ => [0x300]) (fun p d s => reply p 0 ((s.ethPort ⟨p, bits (d 0) 9 8⟩).counts.map word) s)

/-! ### Clock plan, droop, margins, records, telemetry (R408 to R410, R413) -/

/-- CLKSET (R408). -/
def execClkset (s : State) : Host.Outcome State Fault Refusal :=
  onCommand s 0x30 (fun _ => List.replicate 32 0x80007FFF00007FFF) (fun p d s =>
    let plan : List Word := (List.range 32).map (fun k => word (d k))
    if clockClear plan (pointMHz 0) = false then reply p 3 [] s
    else reply p 0 [] (settleTiles p (s.updPkg p (fun x => { x with clkplan := plan }))))

/-- CLKGET. -/
def execClkget (s : State) : Host.Outcome State Fault Refusal :=
  onCommand s 0x31 (fun _ => []) (fun p _ s => reply p 0 ((List.range 32).map (fun k => (s.pkg p).clkplan.getD k 0)) s)

/-- DRPSET (R409). -/
def execDrpset (s : State) : Host.Outcome State Fault Refusal :=
  onCommand s 0x32 (fun _ => [0xFF0000FF03]) (fun p d s =>
    let die := bits (d 0) 1 0
    let t := bits (d 0) 15 8
    let mv := bits (d 0) 39 32
    if mv < 20 ∨ 120 < mv then reply p 2 [] s
    else if t = 255 then
      reply p 0 [] ((List.range 144).foldl (fun s k => s.updTile ⟨p, die, k⟩ (fun x => { x with drpTh := mv })) s)
    else if 144 ≤ t then reply p 4 [] s
    else reply p 0 [] (s.updTile ⟨p, die, t⟩ (fun x => { x with drpTh := mv })))

/-- REPLAN (R410). -/
def execReplan (s : State) : Host.Outcome State Fault Refusal :=
  onCommand s 0x33 (fun _ => []) (fun p _ s => reply p 0 [] (replan p s))

/-- RETREAD (R410, R415). -/
def execRetread (s : State) : Host.Outcome State Fault Refusal :=
  onCommand s 0x34 (fun _ => []) (fun p _ s =>
    match (s.pkg p).mgmt.retire with
    | [] => reply p 0 [] s
    | r :: rs => reply p 0 r (updMgmt p (fun m => { m with retire := rs }) s))

/-- TELEM. -/
def execTelem (s : State) : Host.Outcome State Fault Refusal :=
  onCommand s 0x35 (fun _ => []) (fun p _ s => reply p 0 ((s.pkg p).mgmt.telemetry.map word) s)

/-- LINKCNT. -/
def execLinkcnt (s : State) : Host.Outcome State Fault Refusal :=
  onCommand s 0x36 (fun _ => []) (fun p _ s => reply p 0 ((s.pkg p).mgmt.links.map word) s)

/-- DRESET (R414): the command does not complete at the function. -/
def execDreset (s : State) : Host.Outcome State Fault Refusal :=
  onCommand s 0x40 (fun _ => []) (fun p _ s =>
    (updMgmt p (fun m => { m with ran := true }) s).post .deviceReset (.pkg p))

/-! ### Attestation (R412; log 19) -/

/-- A response: SPDM version, response code, two parameters, body; the firmware answers once the device is ready (R411). -/
def spdmAnswer (p ver code p1 p2 : Nat) (body : List Byte) (s : State) : State :=
  if (s.pkg p).ready then
    s.updPkg p (fun x => { x with spdm := [BitVec.ofNat 8 ver, BitVec.ofNat 8 code, BitVec.ofNat 8 p1, BitVec.ofNat 8 p2] ++ body })
  else s

/-- `n` bytes of a nonce or signature: free values. -/
def spdmBytes : Nat → State → List Byte × State
  | 0, s => ([], s)
  | n + 1, s =>
    let r := spdmBytes n s.tick
    (Config.spdmByte s.fresh :: r.1, r.2)

/-- `n` bytes at place `k` of the certificate chain of a package, and its length. -/
def chainPart (p k n : Nat) : List Byte := (List.range n).map (fun i => Config.chainByte p (k + i))
def chainLength (p : Nat) : Nat := Config.chainLength p % 65536

/-- A SHA-512 digest. -/
def digest (m : List Byte) : List Byte := (List.range 64).map (Config.sha512 m)

/-- The digest of slot 0's chain. -/
def chainDigest (p : Nat) : List Byte := digest (chainPart p 0 (chainLength p))

/-- The values of what a measurement covers: 3 the vendor section, 4 the device section, 5 the fenced set (R411, R412); the boot ROM and
the firmware have none that the model changes. -/
def measured (b : Blob) (k : Nat) : List Nat :=
  let pairs := fun (l : List (Nat × Nat)) => l.length :: l.flatMap (fun e => [e.1, e.2])
  let lists := fun (l : List (Nat × List Nat)) => l.length :: l.flatMap (fun e => e.1 :: e.2.length :: e.2)
  let fenced := (b.fencedTiles.length :: b.fencedTiles) ++ pairs b.lostExts
  if k = 3 then
    [b.extid.toNat, b.version, b.drpTh, b.firmware.toNat] ++ pairs (b.extids.map (fun e => (e.1, e.2.toNat))) ++ pairs b.drpThs ++
      (b.clkplan.map (·.toNat) ++ b.tiles)
  else if k = 4 then b.costs ++ lists b.tileCosts ++ lists b.tileDisabled ++ fenced
  else if k = 5 then fenced
  else []

/-- The digest of one measurement. -/
def measurement (s : State) (p k : Nat) : List Byte := digest (Config.measuredBytes p k (measured (s.pkg p).blob k))

/-- The answer to a request that is not supported, or names what does not exist. -/
def spdmError (p : Nat) (s : State) : State := spdmAnswer p 0x13 0x7F 0x01 0 [] s

def leBytes (n v : Nat) : List Byte := (List.range n).map (fun i => BitVec.ofNat 8 (v / 2 ^ (8 * i)))

/-- GET_VERSION: 1.3. -/
def execGetVersion (s : State) : Host.Outcome State Fault Refusal :=
  match s.obj with
  | .pkg p => .next (spdmAnswer p 0x10 0x04 0 0 [0, 1, 0, 0x13] s)
  | _ => .next s

/-- GET_CAPABILITIES: certificates, challenge, signed measurements; no key exchange and no secure session. -/
def execGetCapabilities (s : State) : Host.Outcome State Fault Refusal :=
  match s.obj with
  | .pkg p => .next (spdmAnswer p 0x13 0x61 0 0 (leBytes 8 (0x16 * 2 ^ 32)) s)
  | _ => .next s

/-- NEGOTIATE_ALGORITHMS: ECDSA P-521 and SHA-512, when both are offered; the request gives the offered sets. -/
def execNegotiateAlgorithms (s : State) : Host.Outcome State Fault Refusal :=
  match s.obj with
  | .pkgWords p ws =>
    let a := if bitAt (ws.getD 0 0).toNat 8 then 0x100 else 0
    let h := if bitAt (ws.getD 1 0).toNat 2 then 0x4 else 0
    .next (spdmAnswer p 0x13 0x63 0 0 (leBytes 4 a ++ leBytes 4 h) s)
  | _ => .next s

/-- GET_DIGESTS: slot 0. -/
def execGetDigests (s : State) : Host.Outcome State Fault Refusal :=
  match s.obj with
  | .pkg p => .next (spdmAnswer p 0x13 0x01 0 1 (chainDigest p) s)
  | _ => .next s

/-- GET_CERTIFICATE: a portion of the chain in slot 0, after its length and what remains; the request gives slot, offset and length. -/
def execGetCertificate (s : State) : Host.Outcome State Fault Refusal :=
  match s.obj with
  | .pkgWords p ws =>
    let k := (ws.getD 1 0).toNat
    let n := min ((ws.getD 2 0).toNat % 65536) (chainLength p - k)
    if ws.getD 0 0 ≠ 0 ∨ chainLength p < k then .next (spdmError p s)
    else .next (spdmAnswer p 0x13 0x02 0 0 (leBytes 2 n ++ leBytes 2 (chainLength p - k - n) ++ chainPart p k n) s)
  | _ => .next s

/-- CHALLENGE: chain digest, nonce and P-521 signature, for slot 0. -/
def execChallenge (s : State) : Host.Outcome State Fault Refusal :=
  match s.obj with
  | .pkgNum p slot =>
    if slot ≠ 0 then .next (spdmError p s)
    else
      let b := spdmBytes (32 + 132) s
      .next (spdmAnswer p 0x13 0x03 0 1 (chainDigest p ++ b.1) b.2)
  | _ => .next s

/-- GET_MEASUREMENTS: the number of measurements (0), one of the five (1 to 5), or all (255); each a SHA-512 digest with its index. -/
def execGetMeasurements (s : State) : Host.Outcome State Fault Refusal :=
  match s.obj with
  | .pkgNum p k =>
    let ids := if k = 255 then [1, 2, 3, 4, 5] else if 1 ≤ k ∧ k ≤ 5 then [k] else []
    if k = 0 then .next (spdmAnswer p 0x13 0x60 5 0 [] s)
    else if ids.isEmpty then .next (spdmError p s)
    else .next (spdmAnswer p 0x13 0x60 0 0 (ids.flatMap (fun i => BitVec.ofNat 8 i :: measurement s p i)) s)
  | _ => .next s

/-! ### Board management controller (R413) -/

/-- An answer to the board management controller. -/
def bmcAnswer (p : Nat) (ws : List Word) (s : State) : State := updMgmt p (fun m => { m with bmc := ws }) s

/-- BMC_TELEMETRY_READ: temperatures, powers, and the counters of the ports. -/
def execBmcTelemetryRead (s : State) : Host.Outcome State Fault Refusal :=
  match s.obj with
  | .pkg p =>
    let m := (s.pkg p).mgmt
    .next (bmcAnswer p ((m.telemetry ++ (m.links ++ (List.range 4).flatMap (fun k => (s.ethPort ⟨p, k⟩).counts))).map word) s)
  | _ => .next s

/-- BMC_RETIRE_READ: the records held. -/
def execBmcRetireRead (s : State) : Host.Outcome State Fault Refusal :=
  match s.obj with
  | .pkg p => .next (bmcAnswer p (s.pkg p).mgmt.retire.flatten s)
  | _ => .next s

/-- BMC_REPLAN_REQUEST. -/
def execBmcReplanRequest (s : State) : Host.Outcome State Fault Refusal :=
  match s.obj with
  | .pkg p => .next (s.post .marginReplan (.pkg p))
  | _ => .next s

/-- BMC_RESET_REQUEST. -/
def execBmcResetRequest (s : State) : Host.Outcome State Fault Refusal :=
  match s.obj with
  | .pkg p => .next (s.post .deviceReset (.pkg p))
  | _ => .next s

end Sys2Proof.Machine
end

