-- ==== Sys2Proof/Machine/Packed.lean ====
section
/-!
DEFINITION. Machine/Packed.lean: packed operations in g registers (11 R212 to R215).
-/
namespace Sys2Proof.Machine
open Sys2Proof

/-- FMT.EF as captured at issue (R184). -/
def Ctx.ef (c : Ctx) : Nat := bits c.pre.fmt.toNat 3 0

/-- The companion scale register as a g field: field 0 names none (R47, R186). -/
def scaleReg (s : BitVec 5) : BitVec 6 := s.setWidth 6
def scaleSrc (s : BitVec 5) : List (BitVec 6) := if s = 0 then [] else [scaleReg s]
/-- The block scale of a packed operation: bits 7:0 of the companion, or the unit scale (R186). -/
def Ctx.scale (c : Ctx) (s : BitVec 5) : Nat := if s = 0 then 0x7F else (c.g (scaleReg s)).toNat % 256

/-- A packed operation (R212): ILLREG 0x011 for an element format it does not take (R213, R214). -/
def semPack (srcs : List (BitVec 6)) (d : BitVec 6) (s : BitVec 5) (cplx : Bool) (bad : Nat → Bool) (f : Ctx → Nat × Flags) : Sem :=
  { srcs := srcs ++ scaleSrc s, wg := [d.toNat]
    exts := fun _ _ => if cplx then extBASE ||| extCPLX else extBASE
    illreg := fun c _ => if bad c.ef then some 0x011 else none
    run := fun c σ => regWrite c.tid d.toNat (word (f c).1) σ
    flags := fun c => (f c).2 }

/-- PADD 0, PSUB 1, PMUL 2, PMAX 3, PMIN 4 (R213). -/
def semPackOp (op : Nat) (d a b : BitVec 6) (s : BitVec 5) : Sem :=
  semPack [a, b] d s false (fun ef => 3 ≤ op && 8 ≤ ef)
    (fun c => packRegs op c.pre.rm (c.scale s) c.ef (c.g a).toNat (c.g b).toNat)

def semPadd (d a b : BitVec 6) (s : BitVec 5) : Sem := semPackOp 0 d a b s
def semPsub (d a b : BitVec 6) (s : BitVec 5) : Sem := semPackOp 1 d a b s
def semPmul (d a b : BitVec 6) (s : BitVec 5) : Sem := semPackOp 2 d a b s
def semPmax (d a b : BitVec 6) (s : BitVec 5) : Sem := semPackOp 3 d a b s
def semPmin (d a b : BitVec 6) (s : BitVec 5) : Sem := semPackOp 4 d a b s
def semPdot (d a b : BitVec 6) (s : BitVec 5) : Sem :=
  semPack [a, b] d s false (fun ef => 8 ≤ ef) (fun c => pdot c.pre.rm (c.scale s) c.ef (c.g a).toNat (c.g b).toNat)
def semPcdot (d a b : BitVec 6) (s : BitVec 5) : Sem :=
  semPack [a, b] d s true (fun ef => ef < 8) (fun c => (pcdot c.ef (c.g a).toNat (c.g b).toNat, noFlags))
/-- PCVT reads gd in both directions (R215). -/
def semPcvt (d a b : BitVec 6) (s : BitVec 5) : Sem :=
  semPack [d, a, b] d s false (fun _ => false)
    (fun c => pcvt c.pre.rm (c.scale s) c.ef (c.g d).toNat (c.g a).toNat (c.g b).toNat)

/-- PADD. -/
def execPadd (d a b : BitVec 6) (s : BitVec 5) (σ : State) : Host.Outcome State Fault Refusal := issueS (semPadd d a b s) σ
/-- PSUB. -/
def execPsub (d a b : BitVec 6) (s : BitVec 5) (σ : State) : Host.Outcome State Fault Refusal := issueS (semPsub d a b s) σ
/-- PMUL. -/
def execPmul (d a b : BitVec 6) (s : BitVec 5) (σ : State) : Host.Outcome State Fault Refusal := issueS (semPmul d a b s) σ
/-- PMAX. -/
def execPmax (d a b : BitVec 6) (s : BitVec 5) (σ : State) : Host.Outcome State Fault Refusal := issueS (semPmax d a b s) σ
/-- PMIN. -/
def execPmin (d a b : BitVec 6) (s : BitVec 5) (σ : State) : Host.Outcome State Fault Refusal := issueS (semPmin d a b s) σ
/-- PDOT. -/
def execPdot (d a b : BitVec 6) (s : BitVec 5) (σ : State) : Host.Outcome State Fault Refusal := issueS (semPdot d a b s) σ
/-- PCDOT. -/
def execPcdot (d a b : BitVec 6) (s : BitVec 5) (σ : State) : Host.Outcome State Fault Refusal := issueS (semPcdot d a b s) σ
/-- PCVT. -/
def execPcvt (d a b : BitVec 6) (s : BitVec 5) (σ : State) : Host.Outcome State Fault Refusal := issueS (semPcvt d a b s) σ

end Sys2Proof.Machine
end

