-- ==== Sys2Proof/Machine/Rational.lean ====
section
/-!
DEFINITION. Machine/Rational.lean: the rational helpers (12 R230, R231).
-/
namespace Sys2Proof.Machine
open Sys2Proof

/-- A helper that runs in the core (R230). -/
def semQCore (a d : BitVec 6) (f : Ctx → Word × Flags) : Sem :=
  { srcs := [a], wg := [d.toNat], exts := fun _ _ => extRAT
    run := fun c s => regWrite c.tid d.toNat (f c).1 s
    flags := fun c => (f c).2 }

/-- A helper that goes to the SFU (R230). -/
def semQSfu (a b d : BitVec 6) (f : Ctx → Word × Flags) : Sem :=
  { srcs := [a, b], wg := [d.toNat], exts := fun _ _ => extRAT
    run := fun c s => sfuScalar c d.toNat (f c).1 (f c).2 s }

def semQnum (d a : BitVec 6) (w : BitVec 1) : Sem := semQCore a d (fun c => intOut (qNum ((ratOf w).decode (opnd w (c.g a)))))
def semQden (d a : BitVec 6) (w : BitVec 1) : Sem := semQCore a d (fun c => fpOut (qDen ((ratOf w).decode (opnd w (c.g a)))))
def semQmake (d a b : BitVec 6) (w : BitVec 1) : Sem :=
  semQSfu a b d (fun c => fpOut ((ratOf w).make c.pre.qrm (c.g a).toInt (c.g b).toInt))
def semQgcd (d a b : BitVec 6) : Sem := semQSfu a b d (fun c => (word (Nat.gcd (c.g a).toNat (c.g b).toNat), noFlags))
def semQbnd (d a b : BitVec 6) (w : BitVec 1) : Sem :=
  semQSfu a b d (fun c => fpOut ((ratOf w).bound c.pre.qrm ((ratOf w).decode (opnd w (c.g a))) (c.g b).toNat))

/-- QNUM. -/
def execQnum (d a : BitVec 6) (w : BitVec 1) (σ : State) : Host.Outcome State Fault Refusal := issueS (semQnum d a w) σ
/-- QDEN. -/
def execQden (d a : BitVec 6) (w : BitVec 1) (σ : State) : Host.Outcome State Fault Refusal := issueS (semQden d a w) σ
/-- QMAKE. -/
def execQmake (d a b : BitVec 6) (w : BitVec 1) (σ : State) : Host.Outcome State Fault Refusal := issueS (semQmake d a b w) σ
/-- QGCD. -/
def execQgcd (d a b : BitVec 6) (σ : State) : Host.Outcome State Fault Refusal := issueS (semQgcd d a b) σ
/-- QBND. -/
def execQbnd (d a b : BitVec 6) (w : BitVec 1) (σ : State) : Host.Outcome State Fault Refusal := issueS (semQbnd d a b w) σ

end Sys2Proof.Machine
end

