-- ==== Sys2Proof/Machine/Dispatch.lean ====
section
/-!
DEFINITION. Machine/Dispatch.lean: the meaning of every constructor of Instr, one direct call each.
-/
namespace Sys2Proof.Machine
open Sys2Proof

def exec (i : Instr) (s : State) : Host.Outcome State Fault Refusal :=
  match i with
  | .add d a b => Sys2Proof.Machine.execAdd d a b s
  | .sub d a b => Sys2Proof.Machine.execSub d a b s
  | .mul d a b => Sys2Proof.Machine.execMul d a b s
  | .mulh d a b => Sys2Proof.Machine.execMulh d a b s
  | .mulhu d a b => Sys2Proof.Machine.execMulhu d a b s
  | .div d a b => Sys2Proof.Machine.execDiv d a b s
  | .divu d a b => Sys2Proof.Machine.execDivu d a b s
  | .rem d a b => Sys2Proof.Machine.execRem d a b s
  | .remu d a b => Sys2Proof.Machine.execRemu d a b s
  | .and d a b => Sys2Proof.Machine.execAnd d a b s
  | .or d a b => Sys2Proof.Machine.execOr d a b s
  | .xor d a b => Sys2Proof.Machine.execXor d a b s
  | .andn d a b => Sys2Proof.Machine.execAndn d a b s
  | .orn d a b => Sys2Proof.Machine.execOrn d a b s
  | .shl d a b => Sys2Proof.Machine.execShl d a b s
  | .shr d a b => Sys2Proof.Machine.execShr d a b s
  | .sar d a b => Sys2Proof.Machine.execSar d a b s
  | .ror d a b => Sys2Proof.Machine.execRor d a b s
  | .min d a b => Sys2Proof.Machine.execMin d a b s
  | .max d a b => Sys2Proof.Machine.execMax d a b s
  | .minu d a b => Sys2Proof.Machine.execMinu d a b s
  | .maxu d a b => Sys2Proof.Machine.execMaxu d a b s
  | .slt d a b => Sys2Proof.Machine.execSlt d a b s
  | .sltu d a b => Sys2Proof.Machine.execSltu d a b s
  | .seq d a b => Sys2Proof.Machine.execSeq d a b s
  | .sne d a b => Sys2Proof.Machine.execSne d a b s
  | .addW d a b => Sys2Proof.Machine.execAddW d a b s
  | .subW d a b => Sys2Proof.Machine.execSubW d a b s
  | .mulW d a b => Sys2Proof.Machine.execMulW d a b s
  | .mulhW d a b => Sys2Proof.Machine.execMulhW d a b s
  | .mulhuW d a b => Sys2Proof.Machine.execMulhuW d a b s
  | .divW d a b => Sys2Proof.Machine.execDivW d a b s
  | .divuW d a b => Sys2Proof.Machine.execDivuW d a b s
  | .remW d a b => Sys2Proof.Machine.execRemW d a b s
  | .remuW d a b => Sys2Proof.Machine.execRemuW d a b s
  | .andW d a b => Sys2Proof.Machine.execAndW d a b s
  | .orW d a b => Sys2Proof.Machine.execOrW d a b s
  | .xorW d a b => Sys2Proof.Machine.execXorW d a b s
  | .andnW d a b => Sys2Proof.Machine.execAndnW d a b s
  | .ornW d a b => Sys2Proof.Machine.execOrnW d a b s
  | .shlW d a b => Sys2Proof.Machine.execShlW d a b s
  | .shrW d a b => Sys2Proof.Machine.execShrW d a b s
  | .sarW d a b => Sys2Proof.Machine.execSarW d a b s
  | .rorW d a b => Sys2Proof.Machine.execRorW d a b s
  | .minW d a b => Sys2Proof.Machine.execMinW d a b s
  | .maxW d a b => Sys2Proof.Machine.execMaxW d a b s
  | .minuW d a b => Sys2Proof.Machine.execMinuW d a b s
  | .maxuW d a b => Sys2Proof.Machine.execMaxuW d a b s
  | .sltW d a b => Sys2Proof.Machine.execSltW d a b s
  | .sltuW d a b => Sys2Proof.Machine.execSltuW d a b s
  | .seqW d a b => Sys2Proof.Machine.execSeqW d a b s
  | .sneW d a b => Sys2Proof.Machine.execSneW d a b s
  | .addi d a im => Sys2Proof.Machine.execAddi d a im s
  | .andi d a im => Sys2Proof.Machine.execAndi d a im s
  | .ori d a im => Sys2Proof.Machine.execOri d a im s
  | .xori d a im => Sys2Proof.Machine.execXori d a im s
  | .shli d a k => Sys2Proof.Machine.execShli d a k s
  | .shri d a k => Sys2Proof.Machine.execShri d a k s
  | .sari d a k => Sys2Proof.Machine.execSari d a k s
  | .rori d a k => Sys2Proof.Machine.execRori d a k s
  | .slti d a im => Sys2Proof.Machine.execSlti d a im s
  | .sltui d a im => Sys2Proof.Machine.execSltui d a im s
  | .muli d a im => Sys2Proof.Machine.execMuli d a im s
  | .imm d im => Sys2Proof.Machine.execImm d im s
  | .immh d im => Sys2Proof.Machine.execImmh d im s
  | .immt d im => Sys2Proof.Machine.execImmt d im s
  | .clz d a => Sys2Proof.Machine.execClz d a s
  | .ctz d a => Sys2Proof.Machine.execCtz d a s
  | .popc d a => Sys2Proof.Machine.execPopc d a s
  | .brev d a => Sys2Proof.Machine.execBrev d a s
  | .bswap d a => Sys2Proof.Machine.execBswap d a s
  | .bset d a b => Sys2Proof.Machine.execBset d a b s
  | .bclr d a b => Sys2Proof.Machine.execBclr d a b s
  | .bext d a o w => Sys2Proof.Machine.execBext d a o w s
  | .bextu d a o w => Sys2Proof.Machine.execBextu d a o w s
  | .bins d a o w => Sys2Proof.Machine.execBins d a o w s
  | .lea d a b s1 im => Sys2Proof.Machine.execLea d a b s1 im s
  | .sel d a b => Sys2Proof.Machine.execSel d a b s
  | .part d a b => Sys2Proof.Machine.execPart d a b s
  | .coord d l => Sys2Proof.Machine.execCoord d l s
  | .beq a b im => Sys2Proof.Machine.execBeq a b im s
  | .bne a b im => Sys2Proof.Machine.execBne a b im s
  | .blt a b im => Sys2Proof.Machine.execBlt a b im s
  | .bge a b im => Sys2Proof.Machine.execBge a b im s
  | .bltu a b im => Sys2Proof.Machine.execBltu a b im s
  | .bgeu a b im => Sys2Proof.Machine.execBgeu a b im s
  | .loop a im => Sys2Proof.Machine.execLoop a im s
  | .jmp im => Sys2Proof.Machine.execJmp im s
  | .jal im => Sys2Proof.Machine.execJal im s
  | .jr d a => Sys2Proof.Machine.execJr d a s
  | .ld d a im m => Sys2Proof.Machine.execLd d a im m s
  | .ldU d a im m => Sys2Proof.Machine.execLdU d a im m s
  | .st t a im m => Sys2Proof.Machine.execSt t a im m s
  | .ldx d a b z u => Sys2Proof.Machine.execLdx d a b z u s
  | .stx t a b z => Sys2Proof.Machine.execStx t a b z s
  | .lds d a im => Sys2Proof.Machine.execLds d a im s
  | .ldc d a im => Sys2Proof.Machine.execLdc d a im s
  | .stf t a im => Sys2Proof.Machine.execStf t a im s
  | .feset a => Sys2Proof.Machine.execFeset a s
  | .feclr a => Sys2Proof.Machine.execFeclr a s
  | .fetst d a => Sys2Proof.Machine.execFetst d a s
  | .amo d a b o z c => Sys2Proof.Machine.execAmo d a b o z c s
  | .cas d a b z => Sys2Proof.Machine.execCas d a b z s
  | .famo d a b o p => Sys2Proof.Machine.execFamo d a b o p s
  | .lock d a => Sys2Proof.Machine.execLock d a s
  | .unlk d a => Sys2Proof.Machine.execUnlk d a s
  | .fence f => Sys2Proof.Machine.execFence f s
  | .pfx f => Sys2Proof.Machine.execPfx f s
  | .trap c => Sys2Proof.Machine.execTrap c s
  | .time d => Sys2Proof.Machine.execTime d s
  | .cyc d => Sys2Proof.Machine.execCyc d s
  | .launch d a => Sys2Proof.Machine.execLaunch d a s
  | .crd d n => Sys2Proof.Machine.execCrd d n s
  | .cwr a n => Sys2Proof.Machine.execCwr a n s
  | .cswp d a n => Sys2Proof.Machine.execCswp d a n s
  | .tnext d a => Sys2Proof.Machine.execTnext d a s
  | .tpost d a b => Sys2Proof.Machine.execTpost d a b s
  | .send r a b => Sys2Proof.Machine.execSend r a b s
  | .epid d a => Sys2Proof.Machine.execEpid d a s
  | .mig a => Sys2Proof.Machine.execMig a s
  | .qbind r a b => Sys2Proof.Machine.execQbind r a b s
  | .lwait d a => Sys2Proof.Machine.execLwait d a s
  | .fadd d a b w => Sys2Proof.Machine.execFadd d a b w s
  | .fsub d a b w => Sys2Proof.Machine.execFsub d a b w s
  | .fmul d a b w => Sys2Proof.Machine.execFmul d a b w s
  | .fdiv d a b w => Sys2Proof.Machine.execFdiv d a b w s
  | .fma d a b w v => Sys2Proof.Machine.execFma d a b w v s
  | .fsqrt d a w => Sys2Proof.Machine.execFsqrt d a w s
  | .fmin d a b w => Sys2Proof.Machine.execFmin d a b w s
  | .fmax d a b w => Sys2Proof.Machine.execFmax d a b w s
  | .fcmp d a b w c => Sys2Proof.Machine.execFcmp d a b w c s
  | .fcvt d a w v => Sys2Proof.Machine.execFcvt d a w v s
  | .fclass d a w => Sys2Proof.Machine.execFclass d a w s
  | .fsgn d a b w v => Sys2Proof.Machine.execFsgn d a b w v s
  | .qnum d a w => Sys2Proof.Machine.execQnum d a w s
  | .qden d a w => Sys2Proof.Machine.execQden d a w s
  | .qmake d a b w => Sys2Proof.Machine.execQmake d a b w s
  | .qgcd d a b => Sys2Proof.Machine.execQgcd d a b s
  | .qbnd d a b w => Sys2Proof.Machine.execQbnd d a b w s
  | .padd d a b s1 => Sys2Proof.Machine.execPadd d a b s1 s
  | .psub d a b s1 => Sys2Proof.Machine.execPsub d a b s1 s
  | .pmul d a b s1 => Sys2Proof.Machine.execPmul d a b s1 s
  | .pmax d a b s1 => Sys2Proof.Machine.execPmax d a b s1 s
  | .pmin d a b s1 => Sys2Proof.Machine.execPmin d a b s1 s
  | .pdot d a b s1 => Sys2Proof.Machine.execPdot d a b s1 s
  | .pcdot d a b s1 => Sys2Proof.Machine.execPcdot d a b s1 s
  | .pcvt d a b s1 => Sys2Proof.Machine.execPcvt d a b s1 s
  | .vld v a k => Sys2Proof.Machine.execVld v a k s
  | .vst v a k => Sys2Proof.Machine.execVst v a k s
  | .vlds v a b k z => Sys2Proof.Machine.execVlds v a b k z s
  | .vsts v a b k z => Sys2Proof.Machine.execVsts v a b k z s
  | .vgth v a x k z => Sys2Proof.Machine.execVgth v a x k z s
  | .vsct v a x k z => Sys2Proof.Machine.execVsct v a x k z s
  | .cpy d a b h f c => Sys2Proof.Machine.execCpy d a b h f c s
  | .cpw d a => Sys2Proof.Machine.execCpw d a s
  | .cpq d a => Sys2Proof.Machine.execCpq d a s
  | .sbind d a s1 => Sys2Proof.Machine.execSbind d a s1 s
  | .tseal d a => Sys2Proof.Machine.execTseal d a s
  | .tfree d a => Sys2Proof.Machine.execTfree d a s
  | .hmovToH a h => Sys2Proof.Machine.execHmovToH a h s
  | .hmovFromH d h => Sys2Proof.Machine.execHmovFromH d h s
  | .mslot d w => Sys2Proof.Machine.execMslot d w s
  | .mfree a => Sys2Proof.Machine.execMfree a s
  | .mlda d a b h => Sys2Proof.Machine.execMlda d a b h s
  | .mma a b t j => Sys2Proof.Machine.execMma a b t j s
  | .mcfg d a t => Sys2Proof.Machine.execMcfg d a t s
  | .mzero t => Sys2Proof.Machine.execMzero t s
  | .msta d a t h => Sys2Proof.Machine.execMsta d a t h s
  | .jopen d a => Sys2Proof.Machine.execJopen d a s
  | .jbind d a t => Sys2Proof.Machine.execJbind d a t s
  | .jarr d a b v => Sys2Proof.Machine.execJarr d a b v s
  | .jwait d a s1 => Sys2Proof.Machine.execJwait d a s1 s
  | .jclose d a => Sys2Proof.Machine.execJclose d a s
  | .jqry d a => Sys2Proof.Machine.execJqry d a s
  | .shrd d a => Sys2Proof.Machine.execShrd d a s
  | .shcap d a => Sys2Proof.Machine.execShcap d a s
  | .wedge d a => Sys2Proof.Machine.execWedge d a s
  | .wclr d => Sys2Proof.Machine.execWclr d s
  | .copen d a b k => Sys2Proof.Machine.execCopen d a b k s
  | .cclose d k => Sys2Proof.Machine.execCclose d k s
  | .cwait d k => Sys2Proof.Machine.execCwait d k s
  | .vclaim g => Sys2Proof.Machine.execVclaim g s
  | .vadd d a b k t => Sys2Proof.Machine.execVadd d a b k t s
  | .vsub d a b k t => Sys2Proof.Machine.execVsub d a b k t s
  | .vmul d a b k t => Sys2Proof.Machine.execVmul d a b k t s
  | .vmulh d a b k t => Sys2Proof.Machine.execVmulh d a b k t s
  | .vmac d a b c k t => Sys2Proof.Machine.execVmac d a b c k t s
  | .vand d a b k t => Sys2Proof.Machine.execVand d a b k t s
  | .vor d a b k t => Sys2Proof.Machine.execVor d a b k t s
  | .vxor d a b k t => Sys2Proof.Machine.execVxor d a b k t s
  | .vshl d a b k t => Sys2Proof.Machine.execVshl d a b k t s
  | .vshr d a b k t => Sys2Proof.Machine.execVshr d a b k t s
  | .vsar d a b k t => Sys2Proof.Machine.execVsar d a b k t s
  | .vmin d a b k t => Sys2Proof.Machine.execVmin d a b k t s
  | .vmax d a b k t => Sys2Proof.Machine.execVmax d a b k t s
  | .vabs d a k t => Sys2Proof.Machine.execVabs d a k t s
  | .vcmp d a b c k t => Sys2Proof.Machine.execVcmp d a b c k t s
  | .vsel d a b k => Sys2Proof.Machine.execVsel d a b k s
  | .vfadd d a b k t => Sys2Proof.Machine.execVfadd d a b k t s
  | .vfsub d a b k t => Sys2Proof.Machine.execVfsub d a b k t s
  | .vfmul d a b k t => Sys2Proof.Machine.execVfmul d a b k t s
  | .vfma d a b c k t => Sys2Proof.Machine.execVfma d a b c k t s
  | .vfmin d a b k t => Sys2Proof.Machine.execVfmin d a b k t s
  | .vfmax d a b k t => Sys2Proof.Machine.execVfmax d a b k t s
  | .vfcmp d a b c k => Sys2Proof.Machine.execVfcmp d a b c k s
  | .vfsgn d a b c k t => Sys2Proof.Machine.execVfsgn d a b c k t s
  | .vfcvt d a g s1 o p => Sys2Proof.Machine.execVfcvt d a g s1 o p s
  | .vfscl d a g t => Sys2Proof.Machine.execVfscl d a g t s
  | .vcmac d a b c k t => Sys2Proof.Machine.execVcmac d a b c k t s
  | .vcconj d a k t => Sys2Proof.Machine.execVcconj d a k t s
  | .vdot4 d a b c k t => Sys2Proof.Machine.execVdot4 d a b c k t s
  | .vdot8 d a b c k t => Sys2Proof.Machine.execVdot8 d a b c k t s
  | .vbcast d g w => Sys2Proof.Machine.execVbcast d g w s
  | .vextr a g l => Sys2Proof.Machine.execVextr a g l s
  | .vins d g l => Sys2Proof.Machine.execVins d g l s
  | .vperm d a b k e => Sys2Proof.Machine.execVperm d a b k e s
  | .vslide d a im => Sys2Proof.Machine.execVslide d a im s
  | .vzip d a b h k e => Sys2Proof.Machine.execVzip d a b h k e s
  | .vunzip d a b h k e => Sys2Proof.Machine.execVunzip d a b h k e s
  | .vmov d a k e => Sys2Proof.Machine.execVmov d a k e s
  | .vrsum a g t k => Sys2Proof.Machine.execVrsum a g t k s
  | .vrmax a g t k => Sys2Proof.Machine.execVrmax a g t k s
  | .vrmin a g t k => Sys2Proof.Machine.execVrmin a g t k s
  | .vfrsum a g t k => Sys2Proof.Machine.execVfrsum a g t k s
  | .vexp d a k => Sys2Proof.Machine.execVexp d a k s
  | .vlog d a k => Sys2Proof.Machine.execVlog d a k s
  | .vrcp d a k => Sys2Proof.Machine.execVrcp d a k s
  | .vrsq d a k => Sys2Proof.Machine.execVrsq d a k s
  | .vsigm d a k => Sys2Proof.Machine.execVsigm d a k s
  | .vtanh d a k => Sys2Proof.Machine.execVtanh d a k s
  | .vsin d a k => Sys2Proof.Machine.execVsin d a k s
  | .vcos d a k => Sys2Proof.Machine.execVcos d a k s
  | .mand d a b => Sys2Proof.Machine.execMand d a b s
  | .mor d a b => Sys2Proof.Machine.execMor d a b s
  | .mxor d a b => Sys2Proof.Machine.execMxor d a b s
  | .mnot d a => Sys2Proof.Machine.execMnot d a s
  | .mpop a g => Sys2Proof.Machine.execMpop a g s
  | .mrdr d g t => Sys2Proof.Machine.execMrdr d g t s
  | .mrdc d g t => Sys2Proof.Machine.execMrdc d g t s
  | .mwrr a g t => Sys2Proof.Machine.execMwrr a g t s
  | .mwrc a g t => Sys2Proof.Machine.execMwrc a g t s
  | .ifence => Sys2Proof.Machine.execIfence s
  | .eret => Sys2Proof.Machine.execEret s
  | .brk => Sys2Proof.Machine.execBrk s
  | .exit => Sys2Proof.Machine.execExit s
  | .yield => Sys2Proof.Machine.execYield s
  | .tend => Sys2Proof.Machine.execTend s
  | .khold => Sys2Proof.Machine.execKhold s
  | .klet => Sys2Proof.Machine.execKlet s
  | .snop => Sys2Proof.Machine.execSnop s
  | .vnop => Sys2Proof.Machine.execVnop s
  | .vrel => Sys2Proof.Machine.execVrel s
  | .streamRegisterRead => Sys2Proof.Machine.execStreamRegisterRead s
  | .groupContribute => Sys2Proof.Machine.execGroupContribute s
  | .groupResultRead => Sys2Proof.Machine.execGroupResultRead s
  | .queuePop => Sys2Proof.Machine.execQueuePop s
  | .queuePush => Sys2Proof.Machine.execQueuePush s
  | .entryEnd => Sys2Proof.Machine.execEntryEnd s
  | .parkResume => Sys2Proof.Machine.execParkResume s
  | .extmigSlotRetry => Sys2Proof.Machine.execExtmigSlotRetry s
  | .migrationArrival => Sys2Proof.Machine.execMigrationArrival s
  | .migSlotRetry => Sys2Proof.Machine.execMigSlotRetry s
  | .antiPingpongEnd => Sys2Proof.Machine.execAntiPingpongEnd s
  | .watchdogExpiry => Sys2Proof.Machine.execWatchdogExpiry s
  | .kholdlong => Sys2Proof.Machine.execKholdlong s
  | .swapRequest => Sys2Proof.Machine.execSwapRequest s
  | .swapStart => Sys2Proof.Machine.execSwapStart s
  | .swapOutDone => Sys2Proof.Machine.execSwapOutDone s
  | .swapInDone => Sys2Proof.Machine.execSwapInDone s
  | .owedResultWrite => Sys2Proof.Machine.execOwedResultWrite s
  | .timeSliceEnd => Sys2Proof.Machine.execTimeSliceEnd s
  | .debugHalt => Sys2Proof.Machine.execDebugHalt s
  | .debugRegisterWrite => Sys2Proof.Machine.execDebugRegisterWrite s
  | .debugResume => Sys2Proof.Machine.execDebugResume s
  | .messageDelivery => Sys2Proof.Machine.execMessageDelivery s
  | .inboxRetry => Sys2Proof.Machine.execInboxRetry s
  | .sendForward => Sys2Proof.Machine.execSendForward s
  | .movedResend => Sys2Proof.Machine.execMovedResend s
  | .stubExpiry => Sys2Proof.Machine.execStubExpiry s
  | .memoryReply => Sys2Proof.Machine.execMemoryReply s
  | .relaxedReply => Sys2Proof.Machine.execRelaxedReply s
  | .remoteRequest => Sys2Proof.Machine.execRemoteRequest s
  | .waitReply => Sys2Proof.Machine.execWaitReply s
  | .requestReissue => Sys2Proof.Machine.execRequestReissue s
  | .requestLost => Sys2Proof.Machine.execRequestLost s
  | .replyCacheExpiry => Sys2Proof.Machine.execReplyCacheExpiry s
  | .combineMerge => Sys2Proof.Machine.execCombineMerge s
  | .combineSplit => Sys2Proof.Machine.execCombineSplit s
  | .linkDown => Sys2Proof.Machine.execLinkDown s
  | .linkUp => Sys2Proof.Machine.execLinkUp s
  | .tlbWalkDone => Sys2Proof.Machine.execTlbWalkDone s
  | .translationDropDone => Sys2Proof.Machine.execTranslationDropDone s
  | .handleCacheFill => Sys2Proof.Machine.execHandleCacheFill s
  | .tfreeDropDone => Sys2Proof.Machine.execTfreeDropDone s
  | .hver => Sys2Proof.Machine.execHver s
  | .ptebits => Sys2Proof.Machine.execPtebits s
  | .pteget => Sys2Proof.Machine.execPteget s
  | .sfuServiceStart => Sys2Proof.Machine.execSfuServiceStart s
  | .sfuComplete => Sys2Proof.Machine.execSfuComplete s
  | .copyChunk => Sys2Proof.Machine.execCopyChunk s
  | .mldaService => Sys2Proof.Machine.execMldaService s
  | .mmaStart => Sys2Proof.Machine.execMmaStart s
  | .mmaComplete => Sys2Proof.Machine.execMmaComplete s
  | .mzeroService => Sys2Proof.Machine.execMzeroService s
  | .mstaService => Sys2Proof.Machine.execMstaService s
  | .lazySave => Sys2Proof.Machine.execLazySave s
  | .accumulatorRestore => Sys2Proof.Machine.execAccumulatorRestore s
  | .joinBindRequest => Sys2Proof.Machine.execJoinBindRequest s
  | .joinArrival => Sys2Proof.Machine.execJoinArrival s
  | .joinWaitRequest => Sys2Proof.Machine.execJoinWaitRequest s
  | .joinCloseRequest => Sys2Proof.Machine.execJoinCloseRequest s
  | .joinQuery => Sys2Proof.Machine.execJoinQuery s
  | .joinDeparture => Sys2Proof.Machine.execJoinDeparture s
  | .killDelivery => Sys2Proof.Machine.execKillDelivery s
  | .killTaken => Sys2Proof.Machine.execKillTaken s
  | .retractionEnd => Sys2Proof.Machine.execRetractionEnd s
  | .crewBlockedChange => Sys2Proof.Machine.execCrewBlockedChange s
  | .shareCredit => Sys2Proof.Machine.execShareCredit s
  | .pointStepDone => Sys2Proof.Machine.execPointStepDone s
  | .tileRestart => Sys2Proof.Machine.execTileRestart s
  | .cycleDetect => Sys2Proof.Machine.execCycleDetect s
  | .slackLend => Sys2Proof.Machine.execSlackLend s
  | .slackReclaim => Sys2Proof.Machine.execSlackReclaim s
  | .collectiveRoundComplete => Sys2Proof.Machine.execCollectiveRoundComplete s
  | .launchCheck => Sys2Proof.Machine.execLaunchCheck s
  | .launchClaim => Sys2Proof.Machine.execLaunchClaim s
  | .launchComplete => Sys2Proof.Machine.execLaunchComplete s
  | .eventRingWrite => Sys2Proof.Machine.execEventRingWrite s
  | .partitionReset => Sys2Proof.Machine.execPartitionReset s
  | .lmdoor => Sys2Proof.Machine.execLmdoor s
  | .hpdoor => Sys2Proof.Machine.execHpdoor s
  | .tqclose => Sys2Proof.Machine.execTqclose s
  | .preset => Sys2Proof.Machine.execPreset s
  | .ercons => Sys2Proof.Machine.execErcons s
  | .registerWrite => Sys2Proof.Machine.execRegisterWrite s
  | .hostRead => Sys2Proof.Machine.execHostRead s
  | .hostWrite => Sys2Proof.Machine.execHostWrite s
  | .hostFillWrite => Sys2Proof.Machine.execHostFillWrite s
  | .frameReceive => Sys2Proof.Machine.execFrameReceive s
  | .ingestRecordWrite => Sys2Proof.Machine.execIngestRecordWrite s
  | .streamResume => Sys2Proof.Machine.execStreamResume s
  | .pauseRefresh => Sys2Proof.Machine.execPauseRefresh s
  | .droopTrip => Sys2Proof.Machine.execDroopTrip s
  | .droopSequenceEnd => Sys2Proof.Machine.execDroopSequenceEnd s
  | .softError => Sys2Proof.Machine.execSoftError s
  | .marginReplan => Sys2Proof.Machine.execMarginReplan s
  | .powerSample => Sys2Proof.Machine.execPowerSample s
  | .deviceReset => Sys2Proof.Machine.execDeviceReset s
  | .deviceReady => Sys2Proof.Machine.execDeviceReady s
  | .pcreate => Sys2Proof.Machine.execPcreate s
  | .pdestroy => Sys2Proof.Machine.execPdestroy s
  | .pset => Sys2Proof.Machine.execPset s
  | .pget => Sys2Proof.Machine.execPget s
  | .qassign => Sys2Proof.Machine.execQassign s
  | .hdmset => Sys2Proof.Machine.execHdmset s
  | .streamset => Sys2Proof.Machine.execStreamset s
  | .streamget => Sys2Proof.Machine.execStreamget s
  | .portset => Sys2Proof.Machine.execPortset s
  | .portcnt => Sys2Proof.Machine.execPortcnt s
  | .clkset => Sys2Proof.Machine.execClkset s
  | .clkget => Sys2Proof.Machine.execClkget s
  | .drpset => Sys2Proof.Machine.execDrpset s
  | .replan => Sys2Proof.Machine.execReplan s
  | .retread => Sys2Proof.Machine.execRetread s
  | .telem => Sys2Proof.Machine.execTelem s
  | .linkcnt => Sys2Proof.Machine.execLinkcnt s
  | .dreset => Sys2Proof.Machine.execDreset s
  | .mgmtCommandDone => Sys2Proof.Machine.execMgmtCommandDone s
  | .getVersion => Sys2Proof.Machine.execGetVersion s
  | .getCapabilities => Sys2Proof.Machine.execGetCapabilities s
  | .negotiateAlgorithms => Sys2Proof.Machine.execNegotiateAlgorithms s
  | .getDigests => Sys2Proof.Machine.execGetDigests s
  | .getCertificate => Sys2Proof.Machine.execGetCertificate s
  | .challenge => Sys2Proof.Machine.execChallenge s
  | .getMeasurements => Sys2Proof.Machine.execGetMeasurements s
  | .bmcTelemetryRead => Sys2Proof.Machine.execBmcTelemetryRead s
  | .bmcRetireRead => Sys2Proof.Machine.execBmcRetireRead s
  | .bmcReplanRequest => Sys2Proof.Machine.execBmcReplanRequest s
  | .bmcResetRequest => Sys2Proof.Machine.execBmcResetRequest s
  | .linkEvent => Sys2Proof.Machine.execLinkEvent s
  | .ersize => Sys2Proof.Machine.execErsize s
  | .mgdoor => Sys2Proof.Machine.execMgdoor s
  | .sequenceNumberRelease => Sys2Proof.Machine.execSequenceNumberRelease s
  | .tileQueueAssign => Sys2Proof.Machine.execTileQueueAssign s
  | .swapInRequest => Sys2Proof.Machine.execSwapInRequest s

end Sys2Proof.Machine
end

