-- ==== Sys2Proof/Machine/Pair.lean ====
section
/-!
DEFINITION. Machine/Pair.lean: the parts of each encoded instruction, for a bundle whose two slots both hold one (R41).
-/
namespace Sys2Proof.Machine
open Sys2Proof

/-- The parts of an encoded instruction; events have none. -/
def semOf (i : Instr) : Sem :=
  match i with
  | .add d a b => semAdd d a b
  | .sub d a b => semSub d a b
  | .mul d a b => semMul d a b
  | .mulh d a b => semMulh d a b
  | .mulhu d a b => semMulhu d a b
  | .div d a b => semDiv d a b
  | .divu d a b => semDivu d a b
  | .rem d a b => semRem d a b
  | .remu d a b => semRemu d a b
  | .and d a b => semAnd d a b
  | .or d a b => semOr d a b
  | .xor d a b => semXor d a b
  | .andn d a b => semAndn d a b
  | .orn d a b => semOrn d a b
  | .shl d a b => semShl d a b
  | .shr d a b => semShr d a b
  | .sar d a b => semSar d a b
  | .ror d a b => semRor d a b
  | .min d a b => semMin d a b
  | .max d a b => semMax d a b
  | .minu d a b => semMinu d a b
  | .maxu d a b => semMaxu d a b
  | .slt d a b => semSlt d a b
  | .sltu d a b => semSltu d a b
  | .seq d a b => semSeq d a b
  | .sne d a b => semSne d a b
  | .addW d a b => semAddW d a b
  | .subW d a b => semSubW d a b
  | .mulW d a b => semMulW d a b
  | .mulhW d a b => semMulhW d a b
  | .mulhuW d a b => semMulhuW d a b
  | .divW d a b => semDivW d a b
  | .divuW d a b => semDivuW d a b
  | .remW d a b => semRemW d a b
  | .remuW d a b => semRemuW d a b
  | .andW d a b => semAndW d a b
  | .orW d a b => semOrW d a b
  | .xorW d a b => semXorW d a b
  | .andnW d a b => semAndnW d a b
  | .ornW d a b => semOrnW d a b
  | .shlW d a b => semShlW d a b
  | .shrW d a b => semShrW d a b
  | .sarW d a b => semSarW d a b
  | .rorW d a b => semRorW d a b
  | .minW d a b => semMinW d a b
  | .maxW d a b => semMaxW d a b
  | .minuW d a b => semMinuW d a b
  | .maxuW d a b => semMaxuW d a b
  | .sltW d a b => semSltW d a b
  | .sltuW d a b => semSltuW d a b
  | .seqW d a b => semSeqW d a b
  | .sneW d a b => semSneW d a b
  | .addi d a im => semAddi d a im
  | .andi d a im => semAndi d a im
  | .ori d a im => semOri d a im
  | .xori d a im => semXori d a im
  | .shli d a k => semShli d a k
  | .shri d a k => semShri d a k
  | .sari d a k => semSari d a k
  | .rori d a k => semRori d a k
  | .slti d a im => semSlti d a im
  | .sltui d a im => semSltui d a im
  | .muli d a im => semMuli d a im
  | .imm d im => semImm d im
  | .immh d im => semImmh d im
  | .immt d im => semImmt d im
  | .clz d a => semClz d a
  | .ctz d a => semCtz d a
  | .popc d a => semPopc d a
  | .brev d a => semBrev d a
  | .bswap d a => semBswap d a
  | .bset d a b => semBset d a b
  | .bclr d a b => semBclr d a b
  | .bext d a o w => semBext d a o w
  | .bextu d a o w => semBextu d a o w
  | .bins d a o w => semBins d a o w
  | .lea d a b s1 im => semLea d a b s1 im
  | .sel d a b => semSel d a b
  | .part d a b => semPart d a b
  | .coord d l => semCoord d l
  | .beq a b im => semBeq a b im
  | .bne a b im => semBne a b im
  | .blt a b im => semBlt a b im
  | .bge a b im => semBge a b im
  | .bltu a b im => semBltu a b im
  | .bgeu a b im => semBgeu a b im
  | .loop a im => semLoop a im
  | .jmp im => semJmp im
  | .jal im => semJal im
  | .jr d a => semJr d a
  | .ld d a im m => semLd d a im m
  | .ldU d a im m => semLdU d a im m
  | .st t a im m => semSt t a im m
  | .ldx d a b z u => semLdx d a b z u
  | .stx t a b z => semStx t a b z
  | .lds d a im => semLds d a im
  | .ldc d a im => semLdc d a im
  | .stf t a im => semStf t a im
  | .feset a => semFeset a
  | .feclr a => semFeclr a
  | .fetst d a => semFetst d a
  | .amo d a b o z c => semAmo d a b o z c
  | .cas d a b z => semCas d a b z
  | .famo d a b o p => semFamo d a b o p
  | .lock d a => semLock d a
  | .unlk d a => semUnlk d a
  | .fence f => semFence f
  | .pfx f => semPfx f
  | .trap c => semTrap c
  | .time d => semTime d
  | .cyc d => semCyc d
  | .launch d a => semLaunch d a
  | .crd d n => semCrd d n
  | .cwr a n => semCwr a n
  | .cswp d a n => semCswp d a n
  | .tnext d a => semTnext d a
  | .tpost d a b => semTpost d a b
  | .send r a b => semSend r a b
  | .epid d a => semEpid d a
  | .mig a => semMig a
  | .qbind r a b => semQbind r a b
  | .lwait d a => semLwait d a
  | .fadd d a b w => semFadd d a b w
  | .fsub d a b w => semFsub d a b w
  | .fmul d a b w => semFmul d a b w
  | .fdiv d a b w => semFdiv d a b w
  | .fma d a b w v => semFma d a b w v
  | .fsqrt d a w => semFsqrt d a w
  | .fmin d a b w => semFmin d a b w
  | .fmax d a b w => semFmax d a b w
  | .fcmp d a b w c => semFcmp d a b w c
  | .fcvt d a w v => semFcvt d a w v
  | .fclass d a w => semFclass d a w
  | .fsgn d a b w v => semFsgn d a b w v
  | .qnum d a w => semQnum d a w
  | .qden d a w => semQden d a w
  | .qmake d a b w => semQmake d a b w
  | .qgcd d a b => semQgcd d a b
  | .qbnd d a b w => semQbnd d a b w
  | .padd d a b s1 => semPadd d a b s1
  | .psub d a b s1 => semPsub d a b s1
  | .pmul d a b s1 => semPmul d a b s1
  | .pmax d a b s1 => semPmax d a b s1
  | .pmin d a b s1 => semPmin d a b s1
  | .pdot d a b s1 => semPdot d a b s1
  | .pcdot d a b s1 => semPcdot d a b s1
  | .pcvt d a b s1 => semPcvt d a b s1
  | .vld v a k => semVld v a k
  | .vst v a k => semVst v a k
  | .vlds v a b k z => semVlds v a b k z
  | .vsts v a b k z => semVsts v a b k z
  | .vgth v a x k z => semVgth v a x k z
  | .vsct v a x k z => semVsct v a x k z
  | .cpy d a b h f c => semCpy d a b h f c
  | .cpw d a => semCpw d a
  | .cpq d a => semCpq d a
  | .sbind d a s1 => semSbind d a s1
  | .tseal d a => semTseal d a
  | .tfree d a => semTfree d a
  | .hmovToH a h => semHmovToH a h
  | .hmovFromH d h => semHmovFromH d h
  | .mslot d w => semMslot d w
  | .mfree a => semMfree a
  | .mlda d a b h => semMlda d a b h
  | .mma a b t j => semMma a b t j
  | .mcfg d a t => semMcfg d a t
  | .mzero t => semMzero t
  | .msta d a t h => semMsta d a t h
  | .jopen d a => semJopen d a
  | .jbind d a t => semJbind d a t
  | .jarr d a b v => semJarr d a b v
  | .jwait d a s1 => semJwait d a s1
  | .jclose d a => semJclose d a
  | .jqry d a => semJqry d a
  | .shrd d a => semShrd d a
  | .shcap d a => semShcap d a
  | .wedge d a => semWedge d a
  | .wclr d => semWclr d
  | .copen d a b k => semCopen d a b k
  | .cclose d k => semCclose d k
  | .cwait d k => semCwait d k
  | .vclaim g => semVclaim g
  | .vadd d a b k t => semVadd d a b k t
  | .vsub d a b k t => semVsub d a b k t
  | .vmul d a b k t => semVmul d a b k t
  | .vmulh d a b k t => semVmulh d a b k t
  | .vmac d a b c k t => semVmac d a b c k t
  | .vand d a b k t => semVand d a b k t
  | .vor d a b k t => semVor d a b k t
  | .vxor d a b k t => semVxor d a b k t
  | .vshl d a b k t => semVshl d a b k t
  | .vshr d a b k t => semVshr d a b k t
  | .vsar d a b k t => semVsar d a b k t
  | .vmin d a b k t => semVmin d a b k t
  | .vmax d a b k t => semVmax d a b k t
  | .vabs d a k t => semVabs d a k t
  | .vcmp d a b c k t => semVcmp d a b c k t
  | .vsel d a b k => semVsel d a b k
  | .vfadd d a b k t => semVfadd d a b k t
  | .vfsub d a b k t => semVfsub d a b k t
  | .vfmul d a b k t => semVfmul d a b k t
  | .vfma d a b c k t => semVfma d a b c k t
  | .vfmin d a b k t => semVfmin d a b k t
  | .vfmax d a b k t => semVfmax d a b k t
  | .vfcmp d a b c k => semVfcmp d a b c k
  | .vfsgn d a b c k t => semVfsgn d a b c k t
  | .vfcvt d a g s1 o p => semVfcvt d a g s1 o p
  | .vfscl d a g t => semVfscl d a g t
  | .vcmac d a b c k t => semVcmac d a b c k t
  | .vcconj d a k t => semVcconj d a k t
  | .vdot4 d a b c k t => semVdot4 d a b c k t
  | .vdot8 d a b c k t => semVdot8 d a b c k t
  | .vbcast d g w => semVbcast d g w
  | .vextr a g l => semVextr a g l
  | .vins d g l => semVins d g l
  | .vperm d a b k e => semVperm d a b k e
  | .vslide d a im => semVslide d a im
  | .vzip d a b h k e => semVzip d a b h k e
  | .vunzip d a b h k e => semVunzip d a b h k e
  | .vmov d a k e => semVmov d a k e
  | .vrsum a g t k => semVrsum a g t k
  | .vrmax a g t k => semVrmax a g t k
  | .vrmin a g t k => semVrmin a g t k
  | .vfrsum a g t k => semVfrsum a g t k
  | .vexp d a k => semVexp d a k
  | .vlog d a k => semVlog d a k
  | .vrcp d a k => semVrcp d a k
  | .vrsq d a k => semVrsq d a k
  | .vsigm d a k => semVsigm d a k
  | .vtanh d a k => semVtanh d a k
  | .vsin d a k => semVsin d a k
  | .vcos d a k => semVcos d a k
  | .mand d a b => semMand d a b
  | .mor d a b => semMor d a b
  | .mxor d a b => semMxor d a b
  | .mnot d a => semMnot d a
  | .mpop a g => semMpop a g
  | .mrdr d g t => semMrdr d g t
  | .mrdc d g t => semMrdc d g t
  | .mwrr a g t => semMwrr a g t
  | .mwrc a g t => semMwrc a g t
  | .ifence => semIfence 
  | .eret => semEret 
  | .brk => semBrk 
  | .exit => semExit 
  | .yield => semYield 
  | .tend => semTend 
  | .khold => semKhold 
  | .klet => semKlet 
  | .snop => semSnop 
  | .vnop => semVnop 
  | .vrel => semVrel 
  | .streamRegisterRead => semNop
  | .groupContribute => semNop
  | .groupResultRead => semNop
  | .queuePop => semNop
  | .queuePush => semNop
  | .entryEnd => semNop
  | .parkResume => semNop
  | .extmigSlotRetry => semNop
  | .migrationArrival => semNop
  | .migSlotRetry => semNop
  | .antiPingpongEnd => semNop
  | .watchdogExpiry => semNop
  | .kholdlong => semNop
  | .swapRequest => semNop
  | .swapStart => semNop
  | .swapOutDone => semNop
  | .swapInDone => semNop
  | .owedResultWrite => semNop
  | .timeSliceEnd => semNop
  | .debugHalt => semNop
  | .debugRegisterWrite => semNop
  | .debugResume => semNop
  | .messageDelivery => semNop
  | .inboxRetry => semNop
  | .sendForward => semNop
  | .movedResend => semNop
  | .stubExpiry => semNop
  | .memoryReply => semNop
  | .relaxedReply => semNop
  | .remoteRequest => semNop
  | .waitReply => semNop
  | .requestReissue => semNop
  | .requestLost => semNop
  | .replyCacheExpiry => semNop
  | .combineMerge => semNop
  | .combineSplit => semNop
  | .linkDown => semNop
  | .linkUp => semNop
  | .tlbWalkDone => semNop
  | .translationDropDone => semNop
  | .handleCacheFill => semNop
  | .tfreeDropDone => semNop
  | .hver => semNop
  | .ptebits => semNop
  | .pteget => semNop
  | .sfuServiceStart => semNop
  | .sfuComplete => semNop
  | .copyChunk => semNop
  | .mldaService => semNop
  | .mmaStart => semNop
  | .mmaComplete => semNop
  | .mzeroService => semNop
  | .mstaService => semNop
  | .lazySave => semNop
  | .accumulatorRestore => semNop
  | .joinBindRequest => semNop
  | .joinArrival => semNop
  | .joinWaitRequest => semNop
  | .joinCloseRequest => semNop
  | .joinQuery => semNop
  | .joinDeparture => semNop
  | .killDelivery => semNop
  | .killTaken => semNop
  | .retractionEnd => semNop
  | .crewBlockedChange => semNop
  | .shareCredit => semNop
  | .pointStepDone => semNop
  | .tileRestart => semNop
  | .cycleDetect => semNop
  | .slackLend => semNop
  | .slackReclaim => semNop
  | .collectiveRoundComplete => semNop
  | .launchCheck => semNop
  | .launchClaim => semNop
  | .launchComplete => semNop
  | .eventRingWrite => semNop
  | .partitionReset => semNop
  | .lmdoor => semNop
  | .hpdoor => semNop
  | .tqclose => semNop
  | .preset => semNop
  | .ercons => semNop
  | .registerWrite => semNop
  | .hostRead => semNop
  | .hostWrite => semNop
  | .hostFillWrite => semNop
  | .frameReceive => semNop
  | .ingestRecordWrite => semNop
  | .streamResume => semNop
  | .pauseRefresh => semNop
  | .droopTrip => semNop
  | .droopSequenceEnd => semNop
  | .softError => semNop
  | .marginReplan => semNop
  | .powerSample => semNop
  | .deviceReset => semNop
  | .deviceReady => semNop
  | .pcreate => semNop
  | .pdestroy => semNop
  | .pset => semNop
  | .pget => semNop
  | .qassign => semNop
  | .hdmset => semNop
  | .streamset => semNop
  | .streamget => semNop
  | .portset => semNop
  | .portcnt => semNop
  | .clkset => semNop
  | .clkget => semNop
  | .drpset => semNop
  | .replan => semNop
  | .retread => semNop
  | .telem => semNop
  | .linkcnt => semNop
  | .dreset => semNop
  | .mgmtCommandDone => semNop
  | .getVersion => semNop
  | .getCapabilities => semNop
  | .negotiateAlgorithms => semNop
  | .getDigests => semNop
  | .getCertificate => semNop
  | .challenge => semNop
  | .getMeasurements => semNop
  | .bmcTelemetryRead => semNop
  | .bmcRetireRead => semNop
  | .bmcReplanRequest => semNop
  | .bmcResetRequest => semNop
  | .linkEvent => semNop
  | .ersize => semNop
  | .mgdoor => semNop
  | .sequenceNumberRelease => semNop
  | .tileQueueAssign => semNop
  | .swapInRequest => semNop

end Sys2Proof.Machine
end

