-- ==== Sys2Proof/Machine/Timers.lean ====
section
/-!
DEFINITION. Machine/Timers.lean: the events that have come due without an instruction or a message posting them (log 2).
-/
namespace Sys2Proof.Machine
open Sys2Proof

/-- The first element of a list for which an event is due. -/
def dueOf {α : Type} (l : List α) (due : α → Bool) (ev : α → Instr × Obj) : Option (Instr × Obj) := (l.find? due).map ev

/-- Whether a round trip without an answer has stood for 20 µs (R351). -/
def answerLate (s : State) (r : SpanReq) : Bool := r.result.isNone && stale s r

/-- The stopped streams whose next record is empty (R407). -/
def resumable (s : State) : List (PortRef × Nat) :=
  s.eth.flatMap (fun (e : PortRef × EthPort) =>
    (e.2.streams.filter (fun (x : Nat × Ingest) => x.2.stopped && recordEmpty s e.1 x.2)).map (fun (x : Nat × Ingest) => (e.1, x.1)))

/-- The streams that stop (R407). -/
def stoppable (s : State) : List (PortRef × Nat) :=
  s.eth.flatMap (fun (e : PortRef × EthPort) =>
    (e.2.streams.filter (fun (x : Nat × Ingest) => stopDue s e.1 x.2)).map (fun (x : Nat × Ingest) => (e.1, x.1)))

/-- The PAUSE and PFC frames that are sent again (R407). -/
def refreshes (s : State) : List (PortRef × Nat) :=
  s.eth.flatMap (fun (e : PortRef × EthPort) => (e.2.refresh.filter (fun (x : Nat × Nat) => refreshDue s e.1 x.1)).map (fun (x : Nat × Nat) => (e.1, x.1)))

/-- Whether a waiting launch can claim (R382). -/
def claimDue (s : State) : Bool := s.launches.any (fun e => !e.2.started) && (claimNow s).isSome

/-- The timers, each with the event that it raises. -/
def timersDue (s : State) : List (Option (Instr × Obj)) :=
  [dueOf s.threads (fun (e : Nat × Thread) => watchdogDue s e.1 e.2) (fun e => (.watchdogExpiry, .thread e.1)),
   dueOf s.threads (fun (e : Nat × Thread) => apptPast s e.2) (fun e => (.antiPingpongEnd, .thread e.1)),
   dueOf s.tiles (fun (e : TileRef × Tile) => e.2.stubs.any (fun y => y.until_ ≤ s.now e.1.pkg)) (fun e => (.stubExpiry, .tile e.1)),
   dueOf s.reqs (fun (e : Nat × SpanReq) => answerLate s e.2)
     (fun e => (if e.2.reissues < 4 then .requestReissue else .requestLost, .num e.1)),
   dueOf s.ports (fun (e : PortRef × SpanPort) => e.2.replies.any (fun y => y.until_ != 0 && y.until_ ≤ s.now e.1.pkg))
     (fun e => (.replyCacheExpiry, .port e.1)),
   dueOf s.ports (fun (e : PortRef × SpanPort) => e.2.used.any (fun y => y.2 + 100000 ≤ s.now e.1.pkg))
     (fun e => (.sequenceNumberRelease, .port e.1)),
   dueOf (resumable s) (fun _ => true) (fun e => (.streamResume, .portNum e.1 e.2)),
   dueOf (stoppable s) (fun _ => true) (fun e => (.ingestRecordWrite, .portNum e.1 e.2)),
   dueOf (refreshes s) (fun _ => true) (fun e => (.pauseRefresh, .portNum e.1 e.2)),
   dueOf s.tiles (fun (e : TileRef × Tile) => droopOver s e.1) (fun e => (.droopSequenceEnd, .tile e.1)),
   dueOf s.pkgs (fun (e : Nat × Pkg) => replanDue e.2) (fun e => (.marginReplan, .pkg e.1)),
   if claimDue s then some (.launchClaim, .none) else none,
   (claimSlack s).map (fun p => (.slackReclaim, .part p))]

/-- The next event that is due: Truss first, then the timers, then the lending of slack, which claims and repayments come before. -/
def dueEvent (s : State) : Option (Instr × Obj) :=
  match trussDue s with
  | some e => some e
  | none => match (timersDue s).findSome? id with
    | some e => some e
    | none => slackLendDue s

end Sys2Proof.Machine
end

