-- ==== Sys2Proof/Machine/Fetch.lean ====
section
/-!
DEFINITION. Machine/Fetch.lean: one turn of a core: the pick of R58, the checks before fetch, fetch, decode (R40, R51, R58, R139),
and how a program is placed for a first turn (log 4).
-/
namespace Sys2Proof.Machine
open Sys2Proof

/-- Cycles from `c` to the next own cycle of a slot after it (R57). -/
def ownDistance (slot c : Nat) : Nat := (slot + 15 - c % 16) % 16 + 1

/-- Whether a READY thread in slot `k` may issue in cycle `c` (R58): at its own cycle always, else after 8 cycles and with 8 to go; a
thread that has yielded, has just started or waits for its turn not before its next own cycle (R118, R143, R263, R383). -/
def eligible (t : Thread) (k c : Nat) : Bool :=
  t.status == .ready &&
    (c % 16 == k ||
      (t.notBefore < c && ((match t.lastIssue with | none => true | some l => l + 8 ≤ c) && 8 ≤ ownDistance k c)))

/-- Whether a droop sequence suppresses a cycle: an odd one of the 64 after the 6 stretched ones (R409). -/
def droopLost (d : Option Nat) (c : Nat) : Bool :=
  match d with
  | none => false
  | some f => f + 6 ≤ c && (c < f + 70 && c % 2 == 1)

/-- What issues in a cycle: a thread, or slot 14 or 15 with work of the machine's own (R18; log 45). -/
inductive Issuer where
  | thread (tid : Nat)
  | system (slot : Nat)
deriving DecidableEq, Repr

/-- Whether slot 14 or 15, which has work and issued last at `last`, may issue in cycle `c` (R58). -/
def systemEligible (last : Option Nat) (k c : Nat) : Bool :=
  c % 16 == k || ((match last with | none => true | some l => l + 8 ≤ c) && 8 ≤ ownDistance k c)

/-- What issues in a cycle: the owner, else the first eligible in rotation order (R58), slots 14 and 15 among them when they have work;
nothing in a cycle that a droop sequence suppresses (R409). -/
def pickAt (ts : List (Nat × Nat × Thread)) (system : List (Nat × Option Nat)) (droop : Option Nat) (c : Nat) : Option Issuer :=
  if droopLost droop c then none
  else (List.range 16).findSome? (fun k =>
    let slot := (c + k) % 16
    match system.find? (fun x => x.1 == slot && systemEligible x.2 slot c) with
    | some _ => some (.system slot)
    | none => (ts.find? (fun x => x.2.1 == slot && eligible x.2.2 x.2.1 c)).map (fun x => .thread x.1))

/-- The resident threads of a core with their slots. -/
def coreThreads (s : State) (c : CoreRef) : List (Nat × Nat × Thread) :=
  s.threads.filterMap (fun x => match x.2.place with
    | .slot p => if p.coreRef = c then some (x.1, p.slot, x.2) else none
    | _ => none)

/-- Slots 14 and 15 of a core, as far as they have work, with the cycles in which they issued last (R18, R58, R149). -/
def coreSystem (s : State) (c : CoreRef) : List (Nat × Option Nat) :=
  (if (commWork s c).isSome then [(14, (s.core c).lastComm)] else []) ++
    (if (s.core c).system.isSome || s.sysEvents.any (fun e => e.core == c) then [(15, (s.core c).lastSystem)] else [])

/-- The first of the next 16 cycles in which the core issues, and what issues (R58); a gated tile and a core that has lost BASE issue
nothing (R54, R326). -/
def pick (s : State) (c : CoreRef) : Option (Issuer × Nat) :=
  if (s.tile c.tileRef).point.isNone ∨ (s.core c).available = false then none
  else (List.range 16).findSome? (fun k =>
    let cyc := (s.core c).cycle + k
    (pickAt (coreThreads s c) (coreSystem s c) (s.tile c.tileRef).drpFrom cyc).map (fun t => (t, cyc)))

/-- Whether an access to a target reaches memory at all (R422). -/
def Target.backed (t : Target) : Bool := t.aper == 2 || regionOf t.pa != .none

/-- The bundle that a fetch delivers, and the machine with the quad's instruction cache after it: a line that memory has changed
since it was read may still be the old one, unless it was read before the thread's last IFENCE (R112, R139; log 11). -/
def fetchBundle (s : State) (q : QuadRef) (a from_ : Nat) : Word × State :=
  let now := s.rdWord a
  match (s.quad q).icache.get? a with
  | some (w, k) => if w = now ∧ from_ ≤ k then (w, s)
    else if from_ ≤ k ∧ Config.fetchOld s.fresh = true then (w, s.tick)
    else (now, (s.tick).updQuad q (fun x => { x with icache := x.icache.set a (now, s.fresh) }))
  | none => (now, (s.tick).updQuad q (fun x => { x with
      icache := (if 8192 ≤ x.icache.length then x.icache.tail else x.icache) ++ [(a, (now, s.fresh))] }))

/-- A decoded bundle runs (R41): a lone instruction is `exec` of it, a pair issues as one. -/
def runBundle (i v : Instr) (s : State) : Host.Outcome State Fault Refusal :=
  if v = .vnop then exec i s
  else if i = .snop then exec v s
  else issue (semOf i) (semOf v) s

/-- Fetch, decode and issue of the thread's next bundle (R40, R51, R142 ranks 2 and 3). -/
def fetchAndRun (tid : Nat) (t : Thread) (s : State) : Host.Outcome State Fault Refusal :=
  match translate s t t.pc.toNat 2 with
  | .fault c => .next (takeTrap tid c 2 t.pc t.pc s)
  | .miss => .next ((park tid (.walk t.pc.toNat 2) s).post .tlbWalkDone (.threadNum tid t.pc.toNat))
  | .ok tg =>
    if tg.backed = false then .next (takeTrap tid cPERM 2 t.pc t.pc s)
    else if s.bad tg.ga then .next (takeTrap tid cECC 2 t.pc t.pc s)
    else
      let (w, s) := fetchBundle s t.pos.quadRef tg.ga t.codeFrom
      match decodeBundle w with
      | .error _ => .next (takeTrap tid cILLOP 0 w t.pc s)
      | .ok (i, v) => runBundle i v { s with bundle := w }

/-- A turn of slot 14 or 15 of a core in a cycle (R18, R58, R70): work with messages, or with an asynchronous event. -/
def systemIssue (c : CoreRef) (slot cyc : Nat) (s : State) : Host.Outcome State Fault Refusal :=
  if slot = 14 then
    let s := s.updCore c (fun x => { x with lastComm := some cyc })
    match commWork s c with
    | some (i, o) => exec i { s with obj := o }
    | none => .next s
  else .next (systemTurn c (s.updCore c (fun x => { x with lastSystem := some cyc })))

/-- What a thread does in its turn: it reports the lost request of its bundle, takes a kill that is due, ends a hold, or issues its bundle
(R148, R310, R314, R351). -/
def threadTurn (tid : Nat) (t : Thread) (s : State) : Host.Outcome State Fault Refusal :=
  match t.lost.find? (fun l => l.d == 64) with
  | some l => .next (reportLost tid l t.pc s)
  | none =>
    if t.kill = .held ∧ t.priv ≠ 2 ∧ t.khold = false then exec .killTaken { s with obj := .thread tid }
    else if t.khold && 512 ≤ t.holdCount then exec .kholdlong { s with obj := .thread tid }
    else fetchAndRun tid t s

/-- One turn of a core, or some time in which it issues nothing, while a gated tile's clock stands: the pick, then the work of slot 14 or
15, or what the thread does, after the rest of its last pass (R58, R70, R199, R326). -/
def coreTurn (c : CoreRef) (s : State) : Host.Outcome State Fault Refusal :=
  match pick s c with
  | none =>
    let n := if (s.tile c.tileRef).point.isNone then 0 else 16
    .next (((s.updCore c (fun x => { x with cycle := x.cycle + n })).updPkg c.pkg (fun x =>
      { x with time := x.time + Config.elapsedNs s.fresh })).tick)
  | some (.system k, cyc) => systemIssue c k cyc { s.updCore c (fun x => { x with cycle := cyc + 1 }) with cur := none }
  | some (.thread tid, cyc) =>
    let s := finishTail tid { s.updCore c (fun x => { x with cycle := cyc + 1 }) with cur := some tid }
    match s.thread? tid with
    | none => .next s
    | some t => threadTurn tid t s

/-- A turn of a core in which a vector access is cut after `n` elements (R199; log 41). -/
def splitTurn (c : CoreRef) (n : Nat) (s : State) : Host.Outcome State Fault Refusal :=
  match coreTurn c { s with cut := n } with
  | .next s' => .next { s' with cut := 0 }
  | o => o

/-- One turn (log 2). -/
def turn (t : Turn) (s : State) : Host.Outcome State Fault Refusal :=
  match t with
  | .core c => coreTurn c s
  | .split c n => splitTurn c n s
  | .part tid n => .next (tailStep tid n s)
  | .event i o => if (encode i).isSome then .next s else exec i { s with obj := o }
  | .elapse p ns => .next (s.updPkg p (fun x => { x with time := x.time + ns }))

/-- The turn of the next core in rotation. -/
def focusTurn (s : State) : Host.Outcome State Fault Refusal :=
  match s.focus with
  | [] => .next s
  | c :: cs => coreTurn c { s with focus := cs ++ [c] }

/-- The next turn: the oldest of the turns to come, else an event that is due, else the next core in rotation (log 2). -/
def nextTurn (s : State) : Host.Outcome State Fault Refusal :=
  match s.agenda with
  | t :: r => turn t { s with agenda := r }
  | [] => match dueEvent s with
    | some (i, o) => turn (.event i o) s
    | none => focusTurn s

/-! ### Placing a program (log 4) -/

/-- Where step fetches next, if it fetches at all: the global address of the bundle and the quad. -/
def fetchPlace (s : State) : Option (Nat × QuadRef) :=
  match s.agenda, s.focus with
  | [], c :: _ => match (if (dueEvent s).isNone then pick s c else none) with
    | some (.thread tid, _) => match s.thread? tid with
      | some t =>
        if t.kill ≠ .none ∨ t.khold = true ∨ t.tail ≠ none ∨ t.lost.any (fun l => l.d == 64) = true then none
        else match translate s t t.pc.toNat 2 with
          | .ok tg => if tg.backed then some (tg.ga, t.pos.quadRef) else none
          | _ => none
      | none => none
    | _ => none
  | _, _ => none

/-- The core of the first thread the loader's model starts. -/
def bootCore : CoreRef := ⟨0, 0, 0, 0⟩

/-- A machine in which partition 0 runs one thread at virtual address 0x10_0000 in slot 0 of core 0 of tile 0 (log 4): its crew
holds 113 shares, its tile is at P13, its code page is physical 0x2_0000, readable, writable, executable and with FE bits. -/
def bootThread (s : State) : State :=
  let s := { s with
    agenda := []
    focus := [bootCore]
    threads := [(0, Thread.init (bootCore.pos 0) 0 0 (BitVec.ofNat 32 0x08000000) 0x100000 0 0 0)]
    nextTid := 1
    gens := s.gens.set (bootCore.pos 0) 1
    crews := [(⟨0, 0, 0, 0, 0⟩, Crew.init 0 0 113)]
    mem := memWrite (memWrite (memWrite s.mem 0x8000 8 0x1001) 0x10000 8 0x1801) 0x18080 8 0x213F }
  let s := s.updPart ⟨0, 0⟩ (fun _ => { Part.init with tiles := List.range 576, slots := 0x3FFF, allot := 113, root := 0x8000 })
  s.updTile ⟨0, 0, 0⟩ (fun x => { x with
    point := some 13
    dir := [(BitVec.ofNat 32 0x08000000, .slot (bootCore.pos 0))]
    tlb := [⟨0, 0x8000, 0x100000, 0x10000, 0x213F, [0x1000, 0x2000, 0x3000, 0x3010]⟩] })

/-- A loader puts the words of a section at a place; those of an `f` section are loaded empty, whatever they hold (R13, R34). -/
def loadSection (a : Nat) (f : Bool) (ws : List Word) (s : State) : State :=
  let s := putWords a ws s
  if f then (List.range ws.length).foldl (fun s k => setFe (a / 8 + k) false s) s else s

/-- Stores a bundle where a thread's fetch will read it. -/
def placeBundle (b : Word) (a : Nat) (q : QuadRef) (s : State) : State :=
  { s.updQuad q (fun x => { x with icache := x.icache.del a }) with mem := memWrite s.mem a 8 b.toNat }

end Sys2Proof.Machine
end

