-- ==== Sys2Proof/Machine/Step.lean ====
section
/-!
DEFINITION. Machine/Step.lean: one step of the machine, and a state whose next step runs a given instruction.
-/
namespace Sys2Proof.Machine
open Sys2Proof

/-- One step: the next turn (log 2). -/
def step (s : State) : Host.Outcome State Fault Refusal := nextTurn s

/-- The state with an instruction's bundle stored where the next step fetches; where no thread would fetch, a first thread is started
first (log 4, log 6). -/
def State.withFetchWord (s : State) (nbits w : Nat) : State :=
  let b := wordBundle (BitVec.ofNat 32 (w % 2 ^ nbits))
  match fetchPlace s with
  | some (a, q) => placeBundle b a q s
  | none => placeBundle b 0x20000 ⟨0, 0, 0, 0⟩ (loadSection 0x20000 true [b] (bootThread s))

end Sys2Proof.Machine
end

