-- ==== Sys2Proof/Safety.lean ====
section
/-!
DEFINITION. Safety.lean: the terms in which claims are stated: what a safe run is, when an instruction passes the checks that do not
depend on its own entry, the state in which it then has its effect, and what a frame says of a thread and of memory.
-/
namespace Sys2Proof.Machine
open Sys2Proof

/-- A step that answers a next state: no instruction of this model ends in a fault or a refusal. -/
def State.safe (s : State) : Prop := ∃ t, step s = .next t

/-! ### Issue (R41, R44, R51) -/

/-- What a source field finds (R41); 0 where it finds nothing. -/
def valueOf (s : State) (t : Thread) (r : BitVec 6) : Word :=
  match sourceOf s t r.toNat with
  | .value v => v
  | _ => 0

/-- No two of a bundle's sources are bound to one hardware queue; those that are read successive entries of it (R43, R44). -/
def Apart (t : Thread) (srcs : List (BitVec 6)) : Prop :=
  ∀ r ∈ srcs, ∀ q ∈ srcs, q ≠ r → t.queueOf r.toNat = none ∨ t.queueOf r.toNat ≠ t.queueOf q.toNat

/-- The conditions on state and operands under which a lone instruction that reads `srcs`, writes `dsts` and needs the extensions `ext`
passes every check of R51 and R142 that does not depend on its own entry: it is the turn of a READY resident thread, every source
yields a value without a soft error, every destination may be written and has room, and no relaxed access, lost or not, keeps it back
(R132, R351); memory is in its canonical form, as every step leaves it. -/
structure Issues (s : State) (tid : Nat) (t : Thread) (srcs : List (BitVec 6)) (dsts : List Nat) (ext : Nat) : Prop where
  canonical : memWf s.mem = true
  turn : s.cur = some tid
  thread : s.thread? tid = some t
  ready : t.status = .ready
  resident : t.slot?.isSome = true
  sources : ∀ r ∈ srcs, sourceOf s t r.toNat = .value (valueOf s t r)
  apart : Apart t srcs
  sound : ∀ r ∈ srcs, t.badRegs.getLsbD r.toNat = false
  targets : ∀ d ∈ dsts, dstIllreg t d = false
  room : fullAmong s t [] dsts = none
  extensions : ext &&& (s.core t.pos.coreRef).extid.toNat = ext
  drained : (t.relaxed = [] ∧ t.lost = []) ∨ ∀ r ∈ srcs.map (·.toNat) ++ dsts, ¬(52 ≤ r ∧ r ≤ 59)

/-- Every special-mapped register of a bundle's sources has been read once (R44). -/
def readOnce (s : State) (tid : Nat) (srcs : List (BitVec 6)) : State :=
  ((srcs.map (·.toNat)).filter (fun r => 48 ≤ r && r ≤ 59)).eraseDups.foldl (fun s r => readAction tid r s) s

/-- The state in which an instruction has its effect: the sources are read, and its thread is past the bundle. -/
def afterIssue (s : State) (tid : Nat) (t : Thread) (srcs : List (BitVec 6)) : State :=
  (readOnce s tid srcs).updThread tid (fun u => u.issued (((readOnce s tid srcs).core t.pos.coreRef).cycle - 1))

/-- The flags that an instruction raises are set, those that stand stay (R184). -/
def flagged (tid : Nat) (f : Flags) (s : State) : State := if f = noFlags then s else raiseFlags tid f s

/-- The issue of a lone instruction. -/
def ctxOf (s : State) (tid : Nat) (t : Thread) (srcs : List (BitVec 6)) : Ctx := ⟨tid, t, specialVals s t srcs, s.bundle⟩

/-- A register that is neither special-mapped nor g0. -/
abbrev plain (r : Nat) : Prop := 0 < r ∧ (r < 48 ∨ (60 ≤ r ∧ r < 64))

/-! ### Frames -/

/-- Every general register but those of `ds`, with its FE bit, is as before. -/
def SameG (t u : Thread) (ds : List Nat) : Prop := ∀ r, r ∉ ds → u.reg r = t.reg r ∧ u.full r = t.full r

/-- Every control register but FCTL and MSTAT is as before (R64). -/
def SameControl (t u : Thread) : Prop :=
  u.tstat = t.tstat ∧ u.epc = t.epc ∧ u.ecause = t.ecause ∧ u.eval = t.eval ∧ u.estat = t.estat ∧ u.fmt = t.fmt ∧ u.tlog = t.tlog ∧
    u.htab = t.htab ∧ u.epid = t.epid ∧ u.part = t.part

/-- The h registers, the vector registers, the masks and the lane claim are as before. -/
def SameVector (t u : Thread) : Prop := u.h = t.h ∧ u.v = t.v ∧ u.m = t.m ∧ u.vlen = t.vlen

/-- Every byte of memory and every FE bit of memory is as before. -/
def SameMem (s u : State) : Prop := (∀ a, memGet u.mem a = memGet s.mem a) ∧ ∀ w, feGet u.fe w = feGet s.fe w

end Sys2Proof.Machine
end

