-- ==== Sys2Proof/Certificates/Slice0/Obligations.lean ====
section
/-!
DEFINITION. Certificates/Slice0/Obligations.lean: the statements for the provers. Each says what a rule of the spec says of an instruction
or of the machine, in the terms of Safety.lean; the tables before a statement are written from the spec's own tables, not from the
meanings. Statements about a next state have an equation as conclusion: they say that the instruction completes, and how.
-/
namespace Sys2Proof.Slice0
open Sys2Proof Sys2Proof.Machine

/-! ### Decoding and the step -/

/-- The bundle that holds a slot word alone: VNOP is the V-slot word 0, SNOP the S-slot word 63 (R39, R47, R49). -/
def alone (i : Instr) (w : BitVec 32) : BitVec 64 := if i.vSlot then bundleOf 63#32 w else bundleOf w 0#32

/-- A core's turn that fetches: no turn is waiting, no event is due, and the next core in rotation picks a thread (not the work of slot 14 or
15) whose last vector access is over and that no lost request, no kill and no ended hold keeps from its bundle (R58, R70, R199, R310, R314,
R351). -/
structure Fetches (s : State) (c : CoreRef) (cs : List CoreRef) (tid cyc : Nat) (t : Thread) : Prop where
  quiet : s.agenda = []
  due : dueEvent s = none
  next : s.focus = c :: cs
  picked : pick { s with focus := cs ++ [c] } c = some (.thread tid, cyc)
  thread : s.thread? tid = some t
  tail : t.tail = none
  lost : ∀ l ∈ t.lost, l.d ≠ 64
  kill : ¬(t.kill = .held ∧ t.priv ≠ 2 ∧ t.khold = false)
  hold : ¬(t.khold = true ∧ 512 ≤ t.holdCount)

/-- The machine at the fetch: the core has gone past the cycle it issues in. -/
def atFetch (s : State) (c : CoreRef) (cs : List CoreRef) (tid cyc : Nat) : State :=
  { ({ s with focus := cs ++ [c] }).updCore c (fun x => { x with cycle := cyc + 1 }) with cur := some tid }

end Sys2Proof.Slice0

open Sys2Proof Sys2Proof.Machine Sys2Proof.Slice0

/-- R39, R45 to R49: the word of a well-formed instruction, alone in a bundle, decodes to that instruction, with every operand at every
value its entry assigns. -/
def Obligations.DecodeOfEncodeIsTheInstruction : Prop :=
  ∀ (i : Instr) (w : BitVec 32), encode i = some w → i.wf = true →
    decodeBundle (alone i w) = .ok (if i.vSlot then (.snop, i) else (i, .vnop))

/-- R45, R51 steps 1 to 3: a bundle that decodes is the encoding of what it decodes to, bit for bit: a nonzero reserved field, an
unassigned selector or field value decodes to nothing. -/
def Obligations.DecodedBundleIsItsEncoding : Prop :=
  ∀ (b : BitVec 64) (i v : Instr), decodeBundle b = .ok (i, v) →
    i.vSlot = false ∧ v.vSlot = true ∧ i.wf = true ∧ v.wf = true ∧
      ∃ x y, encode i = some x ∧ encode v = some y ∧ b = bundleOf x y

/-- Words written out from the spec's worked encodings (R74, R77, R80, R81, R89, R91, R92), one V-slot bundle (R51: VFADD beside SNOP) and
one two-slot bundle (VFADD beside SUB.W). -/
def Obligations.WorkedEncodingsDecode : Prop :=
  decodeBundle 0x011440C2#64 = .ok (.subW 3#6 4#6 5#6, .vnop) ∧
  decodeBundle 0xBCDEF10E#64 = .ok (.imm 4#6 0xBCDEF#20, .vnop) ∧
  decodeBundle 0x08F0B292#64 = .ok (.bext 10#6 11#6 60#6 8#6, .vnop) ∧
  decodeBundle 0xC31C6153#64 = .ok (.lea 5#6 6#6 7#6 3#3 0x18#5, .vnop) ∧
  decodeBundle 0xFFEC40D7#64 = .ok (.blt 3#6 4#6 0x3FFB#14, .vnop) ∧
  decodeBundle 0x0000191D#64 = .ok (.jal 100#26, .vnop) ∧
  decodeBundle 0x0003D01E#64 = .ok (.jr 0#6 61#6, .vnop) ∧
  decodeBundle 0x000000000000003F#64 = .ok (.snop, .vnop) ∧
  decodeBundle 0x040208D20000003F#64 = .ok (.snop, .vfadd 3#5 1#5 2#5 1#3 0#3) ∧
  decodeBundle 0x040208D2011440C2#64 = .ok (.subW 3#6 4#6 5#6, .vfadd 3#5 1#5 2#5 1#3 0#3)

/-- R40, R41, R51 steps 1 to 4: the step of a core's turn that fetches a bundle is `exec` of the instruction that stands alone in it, or the
issue of its pair, in the state at the fetch, with the bundle noted and the quad's instruction cache as the fetch leaves it; a bundle that
does not decode takes ILLOP with the bundle in EVAL. -/
def Obligations.StepRunsTheFetchedBundle : Prop :=
  ∀ (s : State) (c : CoreRef) (cs : List CoreRef) (tid cyc : Nat) (t : Thread) (tg : Target) (w : Word) (u : State),
    Fetches s c cs tid cyc t →
    translate (atFetch s c cs tid cyc) t t.pc.toNat 2 = .ok tg → tg.backed = true → s.bad tg.ga = false →
    fetchBundle (atFetch s c cs tid cyc) t.pos.quadRef tg.ga t.codeFrom = (w, u) →
    (∀ i, decodeBundle w = .ok (i, .vnop) ∨ decodeBundle w = .ok (.snop, i) → step s = exec i { u with bundle := w }) ∧
    (∀ i v, decodeBundle w = .ok (i, v) → i ≠ .snop → v ≠ .vnop → step s = issue (semOf i) (semOf v) { u with bundle := w }) ∧
    (∀ e, decodeBundle w = .error e → step s = .next (takeTrap tid 0x01 0 w t.pc u))

/-- Every step of every state answers a next state, and so does every instruction and every event: no behaviour of the spec is left to
a fault or a refusal (R93 and the like rules: what is wrong is an exception, a refusal code or a status word). -/
def Obligations.EveryStepAnswersANextState : Prop :=
  (∀ s : State, s.safe) ∧ ∀ (i : Instr) (s : State), ∃ u, exec i s = .next u
namespace Sys2Proof.Slice0
open Sys2Proof Sys2Proof.Machine

/-! ### Integer operations -/

/-- The mnemonics of R74. -/
inductive IOp where
  | add | sub | mul | mulh | mulhu | div | divu | rem | remu | and | or | xor | andn
  | orn | shl | shr | sar | ror | min | max | minu | maxu | slt | sltu | seq | sne
deriving DecidableEq, Repr

/-- The table of R74: the exact x of width n, from the operands read signed (A, B) and unsigned (a, b). -/
def IOp.value (op : IOp) {n : Nat} (x y : BitVec n) : Int :=
  let A := x.toInt
  let B := y.toInt
  let a := x.toNat
  let b := y.toNat
  let s := b % n
  let M : Int := -2 ^ (n - 1)
  match op with
  | .add => A + B
  | .sub => A - B
  | .mul => A * B
  | .mulh => (A * B).fdiv (2 ^ n)
  | .mulhu => (a * b / 2 ^ n : Nat)
  | .div => if B = 0 then -1 else if A = M ∧ B = -1 then M else A.tdiv B
  | .divu => if b = 0 then (2 ^ n : Int) - 1 else (a / b : Nat)
  | .rem => if B = 0 then A else if A = M ∧ B = -1 then 0 else A.tmod B
  | .remu => if b = 0 then a else (a % b : Nat)
  | .and => (a &&& b : Nat)
  | .or => (a ||| b : Nat)
  | .xor => (a ^^^ b : Nat)
  | .andn => (a &&& (2 ^ n - 1 - b) : Nat)
  | .orn => (a ||| (2 ^ n - 1 - b) : Nat)
  | .shl => (a * 2 ^ s : Nat)
  | .shr => (a / 2 ^ s : Nat)
  | .sar => A.fdiv (2 ^ s)
  | .ror => (a / 2 ^ s + a % 2 ^ s * 2 ^ (n - s) : Nat)
  | .min => if A ≤ B then A else B
  | .max => if B ≤ A then A else B
  | .minu => if a ≤ b then a else b
  | .maxu => if b ≤ a then a else b
  | .slt => if A < B then 1 else 0
  | .sltu => if a < b then 1 else 0
  | .seq => if a = b then 1 else 0
  | .sne => if a = b then 0 else 1

/-- R74: the func column. -/
def IOp.func : IOp → Nat
  | .add => 0x00 | .sub => 0x01 | .mul => 0x02 | .mulh => 0x03 | .mulhu => 0x04 | .div => 0x05 | .divu => 0x06 | .rem => 0x07 | .remu => 0x08
  | .and => 0x09 | .or => 0x0A | .xor => 0x0B | .andn => 0x0C | .orn => 0x0D | .shl => 0x0E | .shr => 0x0F | .sar => 0x10 | .ror => 0x11
  | .min => 0x12 | .max => 0x13 | .minu => 0x14 | .maxu => 0x15 | .slt => 0x16 | .sltu => 0x17 | .seq => 0x18 | .sne => 0x19

/-- R72: the `.w` form works on the low 32 bits, and its 32-bit result is sign-extended. -/
def IOp.result (op : IOp) (w : Bool) (x y : Word) : Word :=
  if w then (BitVec.ofInt 32 (op.value (x.setWidth 32) (y.setWidth 32))).signExtend 64 else BitVec.ofInt 64 (op.value x y)

/-- The instructions of R73: the operation, whether it is the `.w` form, gd, ga and gb. -/
def r74 : Instr → Option (IOp × Bool × BitVec 6 × BitVec 6 × BitVec 6)
  | .add d a b => some (.add, false, d, a, b)
  | .sub d a b => some (.sub, false, d, a, b)
  | .mul d a b => some (.mul, false, d, a, b)
  | .mulh d a b => some (.mulh, false, d, a, b)
  | .mulhu d a b => some (.mulhu, false, d, a, b)
  | .div d a b => some (.div, false, d, a, b)
  | .divu d a b => some (.divu, false, d, a, b)
  | .rem d a b => some (.rem, false, d, a, b)
  | .remu d a b => some (.remu, false, d, a, b)
  | .and d a b => some (.and, false, d, a, b)
  | .or d a b => some (.or, false, d, a, b)
  | .xor d a b => some (.xor, false, d, a, b)
  | .andn d a b => some (.andn, false, d, a, b)
  | .orn d a b => some (.orn, false, d, a, b)
  | .shl d a b => some (.shl, false, d, a, b)
  | .shr d a b => some (.shr, false, d, a, b)
  | .sar d a b => some (.sar, false, d, a, b)
  | .ror d a b => some (.ror, false, d, a, b)
  | .min d a b => some (.min, false, d, a, b)
  | .max d a b => some (.max, false, d, a, b)
  | .minu d a b => some (.minu, false, d, a, b)
  | .maxu d a b => some (.maxu, false, d, a, b)
  | .slt d a b => some (.slt, false, d, a, b)
  | .sltu d a b => some (.sltu, false, d, a, b)
  | .seq d a b => some (.seq, false, d, a, b)
  | .sne d a b => some (.sne, false, d, a, b)
  | .addW d a b => some (.add, true, d, a, b)
  | .subW d a b => some (.sub, true, d, a, b)
  | .mulW d a b => some (.mul, true, d, a, b)
  | .mulhW d a b => some (.mulh, true, d, a, b)
  | .mulhuW d a b => some (.mulhu, true, d, a, b)
  | .divW d a b => some (.div, true, d, a, b)
  | .divuW d a b => some (.divu, true, d, a, b)
  | .remW d a b => some (.rem, true, d, a, b)
  | .remuW d a b => some (.remu, true, d, a, b)
  | .andW d a b => some (.and, true, d, a, b)
  | .orW d a b => some (.or, true, d, a, b)
  | .xorW d a b => some (.xor, true, d, a, b)
  | .andnW d a b => some (.andn, true, d, a, b)
  | .ornW d a b => some (.orn, true, d, a, b)
  | .shlW d a b => some (.shl, true, d, a, b)
  | .shrW d a b => some (.shr, true, d, a, b)
  | .sarW d a b => some (.sar, true, d, a, b)
  | .rorW d a b => some (.ror, true, d, a, b)
  | .minW d a b => some (.min, true, d, a, b)
  | .maxW d a b => some (.max, true, d, a, b)
  | .minuW d a b => some (.minu, true, d, a, b)
  | .maxuW d a b => some (.maxu, true, d, a, b)
  | .sltW d a b => some (.slt, true, d, a, b)
  | .sltuW d a b => some (.sltu, true, d, a, b)
  | .seqW d a b => some (.seq, true, d, a, b)
  | .sneW d a b => some (.sne, true, d, a, b)
  | _ => none

/-- The instructions of one g source and an immediate (R76): gd, ga and the result of the source. `S` is `sext(imm14, 14)`. -/
def oneSource : Instr → Option (BitVec 6 × BitVec 6 × (Word → Word))
  | .addi d a i => some (d, a, fun x => BitVec.ofInt 64 (x.toInt + i.toInt))
  | .andi d a i => some (d, a, fun x => x &&& i.signExtend 64)
  | .ori d a i => some (d, a, fun x => x ||| i.signExtend 64)
  | .xori d a i => some (d, a, fun x => x ^^^ i.signExtend 64)
  | .shli d a k => some (d, a, fun x => BitVec.ofNat 64 (x.toNat * 2 ^ k.toNat))
  | .shri d a k => some (d, a, fun x => BitVec.ofNat 64 (x.toNat / 2 ^ k.toNat))
  | .sari d a k => some (d, a, fun x => BitVec.ofInt 64 (x.toInt.fdiv (2 ^ k.toNat)))
  | .rori d a k => some (d, a, fun x => BitVec.ofNat 64 (x.toNat / 2 ^ k.toNat + x.toNat % 2 ^ k.toNat * 2 ^ (64 - k.toNat)))
  | .slti d a i => some (d, a, fun x => if x.toInt < i.toInt then 1 else 0)
  | .sltui d a i => some (d, a, fun x => if x.toNat < (i.signExtend 64).toNat then 1 else 0)
  | .muli d a i => some (d, a, fun x => BitVec.ofInt 64 (x.toInt * i.toInt))
  | _ => none

/-- R76: the major of each, and the imm14 field. -/
def r76 : Instr → Nat × Nat
  | .addi _ _ i => (0x03, i.toNat)
  | .andi _ _ i => (0x04, i.toNat)
  | .ori _ _ i => (0x05, i.toNat)
  | .xori _ _ i => (0x06, i.toNat)
  | .shli _ _ k => (0x07, k.toNat)
  | .shri _ _ k => (0x08, k.toNat)
  | .sari _ _ k => (0x09, k.toNat)
  | .rori _ _ k => (0x0A, k.toNat)
  | .slti _ _ i => (0x0B, i.toNat)
  | .sltui _ _ i => (0x0C, i.toNat)
  | .muli _ _ i => (0x0D, i.toNat)
  | _ => (0, 0)

/-- Bit `j` of a word, false above bit 63. -/
abbrev bit (x : Word) (j : Nat) : Bool := x.getLsbD j

/-- The bit and bit-field instructions (R78, R80): what each says of its result `v`, bit by bit, from the values of its sources in
field order. `n` is the effective width of R80. -/
def bitRule (i : Instr) (x y v : Word) : Prop :=
  match i with
  | .clz _ _ => v.toNat ≤ 64 ∧ (∀ j, 64 - v.toNat ≤ j → bit x j = false) ∧ (x ≠ 0 → bit x (63 - v.toNat) = true) ∧ (x = 0 → v = 64)
  | .ctz _ _ => v.toNat ≤ 64 ∧ (∀ j, j < v.toNat → bit x j = false) ∧ (x ≠ 0 → bit x v.toNat = true) ∧ (x = 0 → v = 64)
  | .popc _ _ => v.toNat = (List.range 64).countP (bit x)
  | .brev _ _ => ∀ j, j < 64 → bit v j = bit x (63 - j)
  | .bswap _ _ => ∀ j, j < 64 → bit v j = bit x (8 * (7 - j / 8) + j % 8)
  | .bset _ _ _ => ∀ j, j < 64 → bit v j = (bit x j || decide (j = y.toNat))
  | .bclr _ _ _ => ∀ j, j < 64 → bit v j = (bit x j && decide (j ≠ y.toNat))
  | .bext _ _ o w => let n := Nat.min w.toNat (64 - o.toNat)
      ∀ j, j < 64 → bit v j = if n = 0 then false else if j < n then bit x (o.toNat + j) else bit x (o.toNat + n - 1)
  | .bextu _ _ o w => ∀ j, j < 64 → bit v j = (decide (j < Nat.min w.toNat (64 - o.toNat)) && bit x (o.toNat + j))
  | .bins _ _ o w => ∀ j, j < 64 → bit v j =
      if o.toNat ≤ j ∧ j < o.toNat + Nat.min w.toNat (64 - o.toNat) then bit y (j - o.toNat) else bit x j
  | _ => False

/-- gd and the g sources in field order of the instructions of `bitRule` (R44: BINS reads gd first). -/
def bitOperands : Instr → Option (BitVec 6 × List (BitVec 6) × BitVec 6 × BitVec 6)
  | .clz d a | .ctz d a | .popc d a | .brev d a | .bswap d a => some (d, [a], a, a)
  | .bext d a _ _ | .bextu d a _ _ => some (d, [a], a, a)
  | .bset d a b | .bclr d a b => some (d, [a, b], a, b)
  | .bins d a _ _ => some (d, [d, a], d, a)
  | _ => none

/-- R78: func, gd, ga and gb (0 in the unary operations). -/
def r78 : Instr → Option (Nat × BitVec 6 × BitVec 6 × BitVec 6)
  | .clz d a => some (0, d, a, 0)
  | .ctz d a => some (1, d, a, 0)
  | .popc d a => some (2, d, a, 0)
  | .brev d a => some (3, d, a, 0)
  | .bswap d a => some (4, d, a, 0)
  | .bset d a b => some (5, d, a, b)
  | .bclr d a b => some (6, d, a, b)
  | _ => none

/-- PART of R87, from the COORD value of its level, the extent and the control word; where R87 would divide by a count of 0 its value is free
(log 69). -/
def r87 (c E ctl : Nat) : Word :=
  let G := bits ctl 10 5
  let ax := bits ctl 4 3
  let nr := bits c 63 48
  let nc := bits c 47 32
  let row := bits c 31 16
  let col := bits c 15 0
  let n := match ax with | 0 => nr * nc | 1 => nr | _ => nc
  let i := match ax with | 0 => row * nc + col | 1 => row | _ => col
  let U := (E + 2 ^ G - 1) / 2 ^ G
  let cnt := if i < U % n then U / n + 1 else U / n
  let start := (i * (U / n) + Nat.min i (U % n)) * 2 ^ G
  if E > 0xFFFFFFFF ∨ bits ctl 63 11 ≠ 0 ∨ ax = 3 ∨ G > 31 ∨ nr = 0 then BitVec.ofNat 64 (2 ^ 64 - 1)
  else if n = 0 then Config.partOfNone c E ctl
  else BitVec.ofNat 64 ((if start ≥ E then 0 else Nat.min (cnt * 2 ^ G) (E - start)) * 2 ^ 32 + Nat.min start E)

/-- The size in grid lines of an instance of a domain (R379, R380): TILE 1, BLOCK 2, DIE 12; a package, the system or the whole launch all. -/
def domainSize : Nat → Nat
  | 2 => 1
  | 3 => 2
  | 4 => 12
  | _ => 64

/-- R380: the instance rows (columns) of a domain that hold a tile of a rectangle, from its line `r0` on `n` lines, within the enclosing
instance that holds line `x`. -/
def instanceLines (r0 n x dom encl : Nat) : List Nat :=
  (List.range 64).filter (fun y => (List.range n).any (fun i =>
    (r0 + i) / domainSize encl == x / domainSize encl && (r0 + i) / domainSize dom == y))

/-- A thread started in the rectangle of its launch. -/
structure Started (x : Launch) (t : Thread) : Prop where
  package : t.start.pkg ∈ x.pkgs
  core : t.start.core < 8
  row : bits (x.words.getD 3 0).toNat 26 22 ≤ t.start.tileRef.row ∧
    t.start.tileRef.row < bits (x.words.getD 3 0).toNat 26 22 + bits (x.words.getD 3 0).toNat 36 32
  col : bits (x.words.getD 3 0).toNat 31 27 ≤ t.start.tileRef.col ∧
    t.start.tileRef.col < bits (x.words.getD 3 0).toNat 31 27 + bits (x.words.getD 3 0).toNat 41 37

/-- What COORD gives at a level `l` that the launch declares (R84, R85, R380): domain `dom`, within the instance of the next level, or
within the whole launch (7) at the highest. -/
def CoordIs (x : Launch) (t : Thread) (l : Nat) (v : Word) : Prop :=
  let lev := (x.words.getD 2 0).toNat
  let place := (x.words.getD 3 0).toNat
  let dom := bits lev (6 * l + 2) (6 * l)
  let encl := if l = bits lev 55 53 then 7 else bits lev (6 * (l + 1) + 2) (6 * (l + 1))
  let rows := instanceLines (bits place 26 22) (bits place 36 32) t.start.tileRef.row dom encl
  let cols := instanceLines (bits place 31 27) (bits place 41 37) t.start.tileRef.col dom encl
  (dom ∈ [0, 1, 5, 6] → bits v.toNat 63 48 = 1 ∧ bits v.toNat 31 16 = 0) ∧
  (dom < encl →
    (2 ≤ dom → dom ≤ 4 → bits v.toNat 63 48 = rows.length ∧ bits v.toNat 47 32 = cols.length ∧
      bits v.toNat 31 16 = rows.countP (fun y => y < t.start.tileRef.row / domainSize dom) ∧
      bits v.toNat 15 0 = cols.countP (fun y => y < t.start.tileRef.col / domainSize dom)) ∧
    (dom = 0 → encl = 2 → bits v.toNat 47 32 = 8 ∧ bits v.toNat 15 0 = t.start.core) ∧
    (dom = 1 → encl = 2 → bits v.toNat 47 32 = 2 ∧ bits v.toNat 15 0 = t.start.core / 4) ∧
    (dom = 5 → x.pkgs.length < 2 ^ 16 → bits v.toNat 47 32 = x.pkgs.length ∧ bits v.toNat 15 0 = x.pkgs.idxOf t.start.pkg) ∧
    (dom = 6 → bits v.toNat 47 32 = 1 ∧ bits v.toNat 15 0 = 0))

end Sys2Proof.Slice0

/-- R72, R74, R76: every integer register-register operation, in both widths, has its major and func, and every immediate operation its
major; each writes the value of its table to gd and does nothing else. -/
def Obligations.IntegerOperationsWriteTheirTableValue : Prop :=
  (∀ (i : Instr) (op : IOp) (w : Bool) (d a b : BitVec 6), r74 i = some (op, w, d, a, b) →
    encode i = some (BitVec.ofNat 32 (op.func * 2 ^ 24 + b.toNat * 2 ^ 18 + a.toNat * 2 ^ 12 + d.toNat * 2 ^ 6 + if w then 0x02 else 0x01))) ∧
  (∀ (s : State) (tid : Nat) (t : Thread) (i : Instr) (op : IOp) (w : Bool) (d a b : BitVec 6),
    r74 i = some (op, w, d, a, b) → Issues s tid t [a, b] [d.toNat] 1 →
    exec i s = .next (regWrite tid d.toNat (op.result w (valueOf s t a) (valueOf s t b)) (afterIssue s tid t [a, b]))) ∧
  (∀ (i : Instr) (d a : BitVec 6) (f : Word → Word), oneSource i = some (d, a, f) →
    encode i = some (BitVec.ofNat 32 ((r76 i).2 * 2 ^ 18 + a.toNat * 2 ^ 12 + d.toNat * 2 ^ 6 + (r76 i).1))) ∧
  (∀ (s : State) (tid : Nat) (t : Thread) (i : Instr) (d a : BitVec 6) (f : Word → Word),
    oneSource i = some (d, a, f) → Issues s tid t [a] [d.toNat] 1 →
    exec i s = .next (regWrite tid d.toNat (f (valueOf s t a)) (afterIssue s tid t [a])))

/-- R77, R81, R82, R84, R85, R87, R380: constants, LEA and SEL; COORD writes 0 for a level that the launch does not declare, the rows and
columns of R380 for TILE, BLOCK and DIE instances, one row for CORE, QUAD, PACKAGE and SYSTEM instances, and PART the share of R87 for
the value that COORD has for its level. The order of CORE and QUAD instances across packages is the model's choice (log 47), and no clause
rests on it. -/
def Obligations.ConstantsLeaSelCoordAndPart : Prop :=
  (∀ (s : State) (tid : Nat) (t : Thread) (d a b : BitVec 6) (i : BitVec 20) (k : BitVec 3) (j : BitVec 5),
     (Issues s tid t [] [d.toNat] 1 →
       exec (.imm d i) s = .next (regWrite tid d.toNat (BitVec.ofInt 64 i.toInt) (afterIssue s tid t []))) ∧
     (Issues s tid t [d] [d.toNat] 1 →
       exec (.immh d i) s = .next (regWrite tid d.toNat (BitVec.ofInt 64 ((valueOf s t d).toInt + i.toInt * 2 ^ 20)) (afterIssue s tid t [d])) ∧
       exec (.immt d i) s = .next (regWrite tid d.toNat (BitVec.ofInt 64 ((valueOf s t d).toInt + i.toInt * 2 ^ 40)) (afterIssue s tid t [d]))) ∧
     (Issues s tid t [a, b] [d.toNat] 1 →
       exec (.lea d a b k j) s = .next (regWrite tid d.toNat
         (BitVec.ofInt 64 ((valueOf s t a).toInt + (valueOf s t b).toInt * 2 ^ k.toNat + j.toInt)) (afterIssue s tid t [a, b]))) ∧
     (Issues s tid t [d, a, b] [d.toNat] 1 →
       exec (.sel d a b) s = .next (regWrite tid d.toNat (if valueOf s t d = 0 then valueOf s t b else valueOf s t a)
         (afterIssue s tid t [d, a, b])))) ∧
  (∀ (s : State) (tid : Nat) (t : Thread) (d l : BitVec 6), Issues s tid t [] [d.toNat] 1 →
     ∃ v, exec (.coord d l) s = .next (regWrite tid d.toNat v (afterIssue s tid t [])) ∧
       (∀ x, s.launches.get? t.launch = some x → bits (x.words.getD 2 0).toNat 55 53 < l.toNat → v = 0) ∧
       (∀ x, s.launches.get? t.launch = some x → l.toNat ≤ bits (x.words.getD 2 0).toNat 55 53 → Started x t → CoordIs x t l.toNat v) ∧
       ∀ a b : BitVec 6, Issues s tid t [a, b] [d.toNat] 1 → (valueOf s t b).toNat % 8 = l.toNat →
         exec (.part d a b) s = .next (regWrite tid d.toNat (r87 v.toNat (valueOf s t a).toNat (valueOf s t b).toNat)
           (afterIssue s tid t [a, b])))

/-- R78, R80: the bit and bit-field instructions write a word of which every bit is as the rule says (64 for CLZ and CTZ of 0); those of R78
have format A, major 0x11 and their func, and a word with a func above 6, or a unary one with a nonzero gb, decodes to nothing. -/
def Obligations.BitInstructionsWriteTheirBits : Prop :=
  (∀ (s : State) (tid : Nat) (t : Thread) (i : Instr) (d x y : BitVec 6) (srcs : List (BitVec 6)),
    bitOperands i = some (d, srcs, x, y) → Issues s tid t srcs [d.toNat] 1 →
    ∃ v, bitRule i (valueOf s t x) (valueOf s t y) v ∧ exec i s = .next (regWrite tid d.toNat v (afterIssue s tid t srcs))) ∧
  (∀ (i : Instr) (f : Nat) (d a b : BitVec 6), r78 i = some (f, d, a, b) →
    encode i = some (BitVec.ofNat 32 (f * 2 ^ 24 + b.toNat * 2 ^ 18 + a.toNat * 2 ^ 12 + d.toNat * 2 ^ 6 + 0x11))) ∧
  ∀ w : BitVec 32, w.toNat % 64 = 0x11 → 7 ≤ w.toNat / 2 ^ 24 ∨ (w.toNat / 2 ^ 24 ≤ 4 ∧ w.toNat / 2 ^ 18 % 64 ≠ 0) → decodeS w = none

namespace Sys2Proof.Slice0
open Sys2Proof Sys2Proof.Machine

/-! ### Registers, frames and control flow -/

/-- Instructions that compute one g register from g registers and raise no flag: gd and the g sources in field order. -/
def oneResult (i : Instr) : Option (BitVec 6 × List (BitVec 6)) :=
  match r74 i, oneSource i, bitOperands i, i with
  | some (_, _, d, a, b), _, _, _ => some (d, [a, b])
  | _, some (d, a, _), _, _ => some (d, [a])
  | _, _, some (d, srcs, _, _), _ => some (d, srcs)
  | _, _, _, .imm d _ => some (d, [])
  | _, _, _, .immh d _ => some (d, [d])
  | _, _, _, .immt d _ => some (d, [d])
  | _, _, _, .lea d a b _ _ => some (d, [a, b])
  | _, _, _, .sel d a b => some (d, [d, a, b])
  | _, _, _, .coord d _ => some (d, [])
  | _, _, _, .part d a b => some (d, [a, b])
  | _, _, _, _ => none

/-- R89: the operands, the displacement and the condition of a conditional branch. -/
def r89 : Instr → Option (BitVec 6 × BitVec 6 × BitVec 14 × (Word → Word → Prop))
  | .beq a b i => some (a, b, i, fun x y => x = y)
  | .bne a b i => some (a, b, i, fun x y => x ≠ y)
  | .blt a b i => some (a, b, i, fun x y => x.toInt < y.toInt)
  | .bge a b i => some (a, b, i, fun x y => y.toInt ≤ x.toInt)
  | .bltu a b i => some (a, b, i, fun x y => x.toNat < y.toNat)
  | .bgeu a b i => some (a, b, i, fun x y => y.toNat ≤ x.toNat)
  | _ => none

/-- R89: the majors. -/
def r89major : Instr → Nat
  | .beq _ _ _ => 0x15
  | .bne _ _ _ => 0x16
  | .blt _ _ _ => 0x17
  | .bge _ _ _ => 0x18
  | .bltu _ _ _ => 0x19
  | .bgeu _ _ _ => 0x1A
  | _ => 0

/-- The machine with the pc of a thread at `v`. -/
def goesTo (tid : Nat) (v : Int) (s : State) : State := s.updThread tid (fun u => { u with pc := BitVec.ofInt 64 v })

end Sys2Proof.Slice0

/-- R13, R41, R43, R63, R113: what a write to a g register does: g0 discards; a plain register is written and full; g52 to g55 contribute
to the next round; g56 to g59 push onto the hardware queue. An instruction that reads plain registers leaves its thread past the bundle, the
prefix spent, and changes nothing else that a program can see. -/
def Obligations.WritingARegisterAndPassingTheBundle : Prop :=
  (∀ (s : State) (tid : Nat) (t : Thread) (v : Word), s.thread? tid = some t →
    regWrite tid 0 v s = s ∧
    (∀ d, plain d → t.slot?.isSome = true → (∀ e ∈ t.inbox, e.1 = true → e.2.1 ≠ d) →
      ∃ u, (regWrite tid d v s).thread? tid = some u ∧ u.reg d = v ∧ u.full d = true ∧ SameG t u [d] ∧ SameControl t u ∧
        SameVector t u ∧ u.pc = t.pc ∧ u.fctl = t.fctl ∧ u.mstat = t.mstat ∧ SameMem s (regWrite tid d v s)) ∧
    (∀ d b, 52 ≤ d → d ≤ 55 → t.groups.toArray.getD (d - 52) none = some b →
      ∃ u, (regWrite tid d v s).thread? tid = some u ∧
        u.groups.toArray.getD (d - 52) none = some { b with sent := b.sent + 1 } ∧ u.g = t.g ∧ SameMem s (regWrite tid d v s)) ∧
    (∀ d b, 56 ≤ d → d ≤ 59 → t.queues.toArray.getD (d - 56) none = some b →
      ((regWrite tid d v s).hwQueue t.pos.tileRef b.queue).items = (s.hwQueue t.pos.tileRef b.queue).items ++ [v] ∧
        SameMem s (regWrite tid d v s))) ∧
  (∀ (s : State) (tid : Nat) (t : Thread) (srcs : List (BitVec 6)), s.thread? tid = some t →
    (∀ r ∈ srcs, r.toNat = 0 ∨ plain r.toNat) →
    ∃ u, (afterIssue s tid t srcs).thread? tid = some u ∧ u.pc = t.pc + 8 ∧ u.pfx = 0 ∧ u.afterPfx = false ∧ SameG t u [] ∧
      SameControl t u ∧ SameVector t u ∧ u.fctl = t.fctl ∧ u.mstat = t.mstat ∧ u.status = t.status ∧
      SameMem s (afterIssue s tid t srcs) ∧ ∀ k, k ≠ tid → (afterIssue s tid t srcs).thread? k = s.thread? k)

/-- R44, R129, R251, R362: a source among g48 to g59 is read once: a stream register and a bound queue lose their oldest entry, a group
register its oldest result, and the instruction that names it twice sees one value; two registers bound to one queue read its two
oldest entries, and the second parks the thread while there is only one. -/
def Obligations.SpecialSourcesAreReadOnce : Prop :=
  ∀ (s : State) (tid : Nat) (t : Thread) (r : BitVec 6) (i : Instr) (op : IOp) (w : Bool) (d : BitVec 6) (v : Word),
    r74 i = some (op, w, d, r, r) → Issues s tid t [r, r] [d.toNat] 1 → sourceOf s t r.toNat = .value v →
    exec i s = .next (regWrite tid d.toNat (op.result w v v) (afterIssue s tid t [r])) ∧
    (∀ b, 48 ≤ r.toNat → r.toNat ≤ 51 → t.streams.toArray.getD (r.toNat - 48) none = some b →
      b.fifo.head? = some v ∧ ∃ u, (afterIssue s tid t [r]).thread? tid = some u ∧
        u.streams.toArray.getD (r.toNat - 48) none =
          (if b.fifo.tail = [] ∧ b.ended = true then none else some { b with fifo := b.fifo.tail })) ∧
    (∀ b, 52 ≤ r.toNat → r.toNat ≤ 55 → t.groups.toArray.getD (r.toNat - 52) none = some b →
      b.results.head? = some v ∧ ∃ u, (afterIssue s tid t [r]).thread? tid = some u ∧
        u.groups.toArray.getD (r.toNat - 52) none = some { b with results := b.results.tail }) ∧
    (∀ b, 56 ≤ r.toNat → r.toNat ≤ 59 → t.queues.toArray.getD (r.toNat - 56) none = some b →
      (s.hwQueue t.pos.tileRef b.queue).items.head? = some v ∧
      ∃ more, ((afterIssue s tid t [r]).hwQueue t.pos.tileRef b.queue).items = (s.hwQueue t.pos.tileRef b.queue).items.tail ++ more ∧
        (s.tids (queueWaiters t.pos.tileRef b.queue true) = [] → more = [])) ∧
    (∀ (q : BitVec 6) (j : Instr) (b c : QueueBind) (vs : List Word), r74 j = some (op, w, d, r, q) → r ≠ q →
      56 ≤ r.toNat → r.toNat ≤ 59 → 56 ≤ q.toNat → q.toNat ≤ 59 → Issues s tid t [q, q] [d.toNat] 1 →
      t.queues.toArray.getD (r.toNat - 56) none = some b → t.queues.toArray.getD (q.toNat - 56) none = some c → c.queue = b.queue →
      (s.hwQueue t.pos.tileRef b.queue).items = v :: vs →
      (vs = [] → exec j s = .next (park tid (.reg q.toNat) s)) ∧
      (∀ x xs, vs = x :: xs → exec j s = .next (regWrite tid d.toNat (op.result w v x) (afterIssue s tid t [r, q]))))

/-- R41, R71: an instruction of this kind writes gd, moves past the bundle, and leaves every other register, flag, control, vector
register, every byte of memory and every other thread as it was; g0 as gd is discarded. -/
def Obligations.OneResultInstructionsChangeOnlyTheirRegister : Prop :=
  ∀ (s : State) (tid : Nat) (t : Thread) (i : Instr) (d : BitVec 6) (srcs : List (BitVec 6)),
    oneResult i = some (d, srcs) → Issues s tid t srcs [d.toNat] 1 → (∀ r ∈ srcs, r.toNat = 0 ∨ plain r.toNat) →
    (d.toNat = 0 ∨ plain d.toNat) → (∀ e ∈ t.inbox, e.1 = true → e.2.1 ≠ d.toNat) → t.wait = none →
    ∃ s' u, exec i s = .next s' ∧ s'.thread? tid = some u ∧ u.pc = t.pc + 8 ∧ u.full d.toNat = true ∧ SameG t u [d.toNat] ∧
      u.reg 0 = 0 ∧ SameControl t u ∧ SameVector t u ∧ u.fctl = t.fctl ∧ u.mstat = t.mstat ∧ u.status = .ready ∧
      SameMem s s' ∧ ∀ k, k ≠ tid → s'.thread? k = s.thread? k

/-- R41, R43, R51 step 7: the first empty source parks the thread, the bundle does nothing, and the pc stays at it; a destination among
g48 to g51, or a source that is bound to nothing, takes ILLREG with the register number in EVAL (R129, R251, R362; that the destination
is reported first is the model's choice, log 53). -/
def Obligations.SourcesThatAreEmptyOrUnbound : Prop :=
  (∀ (s : State) (tid : Nat) (t : Thread) (i : Instr) (d r : BitVec 6) (before after : List (BitVec 6)),
     oneResult i = some (d, before ++ r :: after) → s.cur = some tid → s.thread? tid = some t → t.status = .ready →
     t.slot?.isSome = true → Apart t (before ++ r :: after) → (∀ l ∈ t.lost, l.d ≠ r.toNat) →
     (∀ x ∈ before, sourceOf s t x.toNat ≠ .empty) → sourceOf s t r.toNat = .empty →
     exec i s = .next (park tid (.reg r.toNat) s) ∧
       ∃ u, (park tid (.reg r.toNat) s).thread? tid = some u ∧ u.status = .parked ∧ u.pc = t.pc ∧ SameG t u []) ∧
  (∀ (s : State) (tid : Nat) (t : Thread) (i : Instr) (d : BitVec 6) (srcs : List (BitVec 6)),
     oneResult i = some (d, srcs) → s.cur = some tid → s.thread? tid = some t → t.status = .ready → t.slot?.isSome = true →
     Apart t srcs → (s.core t.pos.coreRef).extid.getLsbD 0 = true → (∀ x ∈ srcs, sourceOf s t x.toNat ≠ .empty) →
     (48 ≤ d.toNat → d.toNat ≤ 51 → exec i s = .next (takeTrap tid 0x02 0 (BitVec.ofNat 64 d.toNat) t.pc s)) ∧
     (∀ before r after, srcs = before ++ r :: after → (d.toNat < 48 ∨ 59 < d.toNat) →
       (∀ x ∈ before, sourceOf s t x.toNat ≠ .unbound) → sourceOf s t r.toNat = .unbound →
       exec i s = .next (takeTrap tid 0x02 0 (BitVec.ofNat 64 r.toNat) t.pc s)))

/-- R47, R49, R51 step 4, R53, R89 to R92, R113: a taken branch goes to its displacement in bundles from the branch bundle, one not taken to
the next bundle; LOOP counts its register down and branches while the count is not 0; JMP and JAL; JR links and jumps, and takes ALIGN
with INFO 2 for a misaligned target, writing nothing; SNOP and VNOP do nothing; PFX gives the next bundle its flags, and is no
instruction directly after another PFX. -/
def Obligations.ControlFlowAndPrefix : Prop :=
  ((∀ (s : State) (tid : Nat) (t : Thread) (i : Instr) (a b : BitVec 6) (k : BitVec 14) (c : Word → Word → Prop),
      r89 i = some (a, b, k, c) →
      encode i = some (BitVec.ofNat 32 (k.toNat * 2 ^ 18 + b.toNat * 2 ^ 12 + a.toNat * 2 ^ 6 + r89major i)) ∧
      (Issues s tid t [a, b] [] 1 →
      (c (valueOf s t a) (valueOf s t b) → exec i s = .next (goesTo tid (t.pc.toInt + k.toInt * 8) (afterIssue s tid t [a, b]))) ∧
      (¬ c (valueOf s t a) (valueOf s t b) → exec i s = .next (afterIssue s tid t [a, b])))) ∧
   (∀ (s : State) (tid : Nat) (t : Thread) (d a : BitVec 6) (k : BitVec 14) (j : BitVec 26),
      encode (.jmp j) = some (BitVec.ofNat 32 (j.toNat * 2 ^ 6 + 0x1C)) ∧ encode (.jal j) = some (BitVec.ofNat 32 (j.toNat * 2 ^ 6 + 0x1D)) ∧
      (Issues s tid t [a] [a.toNat] 1 →
        exec (.loop a k) s = .next
          (if (valueOf s t a).toNat = 1 then regWrite tid a.toNat 0 (afterIssue s tid t [a])
           else goesTo tid (t.pc.toInt + k.toInt * 8) (regWrite tid a.toNat (valueOf s t a - 1) (afterIssue s tid t [a])))) ∧
      (Issues s tid t [] [] 1 → exec (.jmp j) s = .next (goesTo tid (t.pc.toInt + j.toInt * 8) (afterIssue s tid t []))) ∧
      (Issues s tid t [] [61] 1 → exec (.jal j) s = .next (goesTo tid (t.pc.toInt + j.toInt * 8)
        (regWrite tid 61 (t.pc + 8) (afterIssue s tid t [])))) ∧
      (Issues s tid t [a] [d.toNat] 1 →
        ((valueOf s t a).toNat % 8 = 0 →
          exec (.jr d a) s = .next (goesTo tid (valueOf s t a).toInt (regWrite tid d.toNat (t.pc + 8) (afterIssue s tid t [a])))) ∧
        ((valueOf s t a).toNat % 8 ≠ 0 → exec (.jr d a) s = .next (takeTrap tid 0x04 2 (valueOf s t a) t.pc s))))) ∧
  (∀ (s : State) (tid : Nat) (t : Thread) (f : BitVec 4),
     (Issues s tid t [] [] 0 → exec .snop s = .next (afterIssue s tid t []) ∧ exec .vnop s = .next (afterIssue s tid t [])) ∧
     (Issues s tid t [] [] 1 →
       (t.afterPfx = false → exec (.pfx f) s = .next ((afterIssue s tid t []).updThread tid (fun u =>
         { u with pfx := BitVec.ofNat 5 (16 + f.toNat), afterPfx := true }))) ∧
       (t.afterPfx = true → exec (.pfx f) s = .next (takeTrap tid 0x01 0 s.bundle t.pc s))))

namespace Sys2Proof.Slice0
open Sys2Proof Sys2Proof.Machine

/-! ### Control registers, exceptions and system instructions -/

/-- A control register of R64 to R68: the lowest privilege that may read it and, if any, write it, and its writable bits. -/
structure CReg where
  readAt : Nat
  writeAt : Option Nat
  writable : Nat

/-- The table of R64, with the field maps of R65 to R68. -/
def r64 : Nat → Option CReg
  | 0x000 => some ⟨0, some 1, 0x3D0⟩
  | 0x001 => some ⟨1, some 1, 2 ^ 64 - 1⟩
  | 0x002 => some ⟨1, some 1, 0xFFFFF⟩
  | 0x003 => some ⟨1, some 1, 2 ^ 64 - 1⟩
  | 0x004 => some ⟨1, some 1, 0x73D3⟩
  | 0x010 => some ⟨0, some 0, 0xF1F1177⟩
  | 0x011 => some ⟨0, some 0, 0xF⟩
  | 0x012 => some ⟨0, none, 0⟩
  | 0x013 => some ⟨0, some 0, 0x1F⟩
  | 0x020 => some ⟨0, none, 0⟩
  | 0x021 => some ⟨0, none, 0⟩
  | 0x022 => some ⟨0, none, 0⟩
  | 0x023 => some ⟨0, none, 0⟩
  | 0x024 => some ⟨0, none, 0⟩
  | 0x030 => some ⟨0, some 0, 2 ^ 43 - 2 ^ 32 + 2 ^ 27 - 2 ^ 16 + 2 ^ 11 - 1⟩
  | 0x031 => some ⟨1, some 1, 2 ^ 52 - 2 ^ 6⟩
  | _ => none

/-- What a control register reads as for a thread (R64 to R68). -/
def readsAs (s : State) (t : Thread) : Nat → Word
  | 0x000 => t.tstat
  | 0x001 => t.epc
  | 0x002 => t.ecause
  | 0x003 => t.eval
  | 0x004 => t.estat
  | 0x010 => t.fctl
  | 0x011 => t.fmt
  | 0x012 => BitVec.ofNat 64 t.vlen
  | 0x013 => t.mstat
  | 0x020 => BitVec.ofNat 64 (s.core t.pos.coreRef).extid.toNat
  | 0x021 => BitVec.ofNat 64 t.epid.toNat
  | 0x022 => BitVec.ofNat 64 (t.pos.pkg % 1024 * 2 ^ 22 + t.pos.die % 4 * 2 ^ 20 + t.pos.tile % 256 * 2 ^ 12 + t.pos.core % 8 * 16 +
      t.pos.slot % 16)
  | 0x023 => BitVec.ofNat 64 t.part
  | 0x024 => BitVec.ofNat 64 ((s.tile t.pos.tileRef).drpStr.toNat * 2 ^ 32 + (s.tile t.pos.tileRef).drpTrips.toNat)
  | 0x030 => t.tlog
  | 0x031 => t.htab
  | _ => 0

/-- A value that would put an unassigned value into a field of a control register (R65 to R68). -/
def unassigned (n v : Nat) : Prop :=
  (n = 0x001 ∧ v % 8 ≠ 0) ∨ (n = 0x004 ∧ bits v 1 0 = 3) ∨ (n = 0x010 ∧ (bits v 6 4 > 4 ∨ bits v 2 0 > 4)) ∨
    (n = 0x011 ∧ bits v 3 0 > 9) ∨
    (n = 0x030 ∧ (bits v 35 32 ≠ 0 ∨ bits v 19 16 ≠ 0 ∨ bits v 3 0 ≠ 0 ∨ bits v 42 32 < bits v 10 0 ∨ bits v 26 16 < bits v 42 32))

/-- R64: the access is permitted at a privilege. -/
def mayRead (r : CReg) (priv : Nat) : Prop := r.readAt ≤ priv
def mayWrite (r : CReg) (priv : Nat) : Prop := ∃ p, r.writeAt = some p ∧ p ≤ priv

/-- A register written field by field: the writable bits from `v`, the others as they were. -/
def written (m : Nat) (old v : Word) : Word := (old &&& ~~~(BitVec.ofNat 64 m)) ||| (v &&& BitVec.ofNat 64 m)

/-- `u'` is `u` after a write of `v` to control register `n`: every control register reads as before but `n`, whose fields are written,
and TSTAT.QMODE, which follows FCTL (R65, R116); no general, vector or other register changes. -/
def WroteControl (s : State) (n : Nat) (v : Word) (u u' : Thread) : Prop :=
  (∀ r, r64 n = some r → readsAs s u' n = written r.writable (readsAs s u n) v) ∧
  (∀ k, k ≠ n → k ≠ 0 → readsAs s u' k = readsAs s u k) ∧
  (n ≠ 0 → n ≠ 0x010 → u'.tstat = u.tstat) ∧
  (n = 0x010 → ∀ j, j < 64 → u'.tstat.getLsbD j = if j = 12 then v.getLsbD 12 else u.tstat.getLsbD j) ∧
  SameG u u' [] ∧ SameVector u u' ∧ u'.pc = u.pc ∧ u'.status = u.status

end Sys2Proof.Slice0

/-- R64, R116, R142 rank 4: CRD, CWR and CSWP where the table permits the access; one that it does not permit changes no register and
faults with the register's number in EVAL: ILLREG for an unknown number, then ILLREG for a write that no privilege may make, then PRIV,
then ILLREG for an unassigned value (a bit that R67 and R68 call must-be-0 among them: log 33). -/
def Obligations.ControlRegisters : Prop :=
  (∀ (s : State) (tid : Nat) (t : Thread) (d a : BitVec 6) (n : BitVec 10) (r : CReg), r64 n.toNat = some r →
     (Issues s tid t [] [d.toNat] 1 → mayRead r t.priv →
       exec (.crd d n) s = .next (regWrite tid d.toNat (readsAs s t n.toNat) (afterIssue s tid t []))) ∧
     (Issues s tid t [a] [] 1 → mayWrite r t.priv → ¬ unassigned n.toNat (valueOf s t a).toNat →
       ∃ g : Thread → Thread, exec (.cwr a n) s = .next ((afterIssue s tid t [a]).updThread tid g) ∧
         ∀ u, WroteControl s n.toNat (valueOf s t a) u (g u)) ∧
     (Issues s tid t [a] [d.toNat] 1 → mayRead r t.priv → mayWrite r t.priv → ¬ unassigned n.toNat (valueOf s t a).toNat →
       ∃ g : Thread → Thread, exec (.cswp d a n) s = .next (regWrite tid d.toNat (readsAs s t n.toNat)
           ((afterIssue s tid t [a]).updThread tid g)) ∧
         ∀ u, WroteControl s n.toNat (valueOf s t a) u (g u))) ∧
  (∀ (s : State) (tid : Nat) (t : Thread) (d a : BitVec 6) (n : BitVec 10),
     let illreg := (.next (takeTrap tid 0x02 0 (BitVec.ofNat 64 n.toNat) t.pc s) : Host.Outcome State Fault Refusal)
     let priv := (.next (takeTrap tid 0x03 0 (BitVec.ofNat 64 n.toNat) t.pc s) : Host.Outcome State Fault Refusal)
     (Issues s tid t [] [d.toNat] 1 →
       (r64 n.toNat = none → exec (.crd d n) s = illreg) ∧
       (∀ r, r64 n.toNat = some r → ¬ mayRead r t.priv → exec (.crd d n) s = priv)) ∧
     (Issues s tid t [a] [] 1 →
       (r64 n.toNat = none → exec (.cwr a n) s = illreg) ∧
       (∀ r, r64 n.toNat = some r →
         (r.writeAt = none → exec (.cwr a n) s = illreg) ∧
         (r.writeAt ≠ none → ¬ mayWrite r t.priv → exec (.cwr a n) s = priv) ∧
         (mayWrite r t.priv → unassigned n.toNat (valueOf s t a).toNat → exec (.cwr a n) s = illreg))) ∧
     (Issues s tid t [a] [d.toNat] 1 →
       (r64 n.toNat = none → exec (.cswp d a n) s = illreg) ∧
       (∀ r, r64 n.toNat = some r →
         (r.writeAt = none → exec (.cswp d a n) s = illreg) ∧
         (r.writeAt ≠ none → ¬ (mayRead r t.priv ∧ mayWrite r t.priv) → exec (.cswp d a n) s = priv) ∧
         (mayRead r t.priv → mayWrite r t.priv → unassigned n.toNat (valueOf s t a).toNat → exec (.cswp d a n) s = illreg))))

/-- R143: what taking a synchronous fault does, and what it leaves alone. -/
def Obligations.TakingAFault : Prop :=
  ∀ (s : State) (tid : Nat) (t : Thread) (cause info : Nat) (eval epc : Word), s.thread? tid = some t →
    ∃ u, (takeTrap tid cause info eval epc s).thread? tid = some u ∧
      u.epc = epc ∧ u.eval = eval ∧ u.ecause = BitVec.ofNat 64 (info * 256 + cause) ∧
      (∀ j, j < 64 → u.estat.getLsbD j = if j = 4 then t.pfx.getLsbD 4
        else if 6 ≤ j ∧ j ≤ 9 then t.pfx.getLsbD 4 && t.pfx.getLsbD (j - 6) else t.tstat.getLsbD j) ∧
      u.priv = (if t.priv = 0 then 1 else 2) ∧
      (∀ j, 2 ≤ j → j < 64 → u.tstat.getLsbD j = if j = 4 ∨ (6 ≤ j ∧ j ≤ 9) ∨ j = 13 then false else t.tstat.getLsbD j) ∧
      u.pc = (if t.priv = 0 then (s.cfgOf t).handler else (s.pkg t.pos.pkg).blob.firmware) ∧
      u.status = .entry ∧ u.pfx = 0 ∧ SameG t u [] ∧ SameVector t u ∧ u.h = t.h ∧ u.fctl = t.fctl ∧ u.fmt = t.fmt ∧
      u.mstat = t.mstat ∧ u.tlog = t.tlog ∧ u.htab = t.htab ∧ u.relaxed = t.relaxed ∧ u.claim = t.claim ∧
      SameMem s (takeTrap tid cause info eval epc s) ∧
      (takeTrap tid cause info eval epc s).agenda = s.agenda ++ [.event .entryEnd (.thread tid)] ∧
      ∀ k, k ≠ tid → (takeTrap tid cause info eval epc s).thread? k = s.thread? k

/-- R118, R142 rank 4, R143, R145, R150: TRAP enters the handler with cause 0x20, its code in INFO, EVAL 0 and the address of the next
bundle. BRK enters it with cause 0x21 and its own address (what EVAL then holds is free: log 21), or halts the thread where the debugger
asked for that (R162). ERET restores TSTAT but for QMODE, the pc and the saved prefix, and then releases the deferred messages when it
returns to U; at U, and at S with ESTAT.PRIV = 2, it takes PRIV with EVAL 0. R40, R142 rank 6: an EPC whose bits 2:0 are not 0 takes
ALIGN with EVAL the EPC. -/
def Obligations.TrapBrkAndEret : Prop :=
  ∀ (s : State) (tid : Nat) (t : Thread) (k : BitVec 12), Issues s tid t [] [] 1 →
    exec (.trap k) s = .next (takeTrap tid 0x20 k.toNat 0 (t.pc + 8) (afterIssue s tid t [])) ∧
    (t.haltBrk = false → ∃ e, exec .brk s = .next (takeTrap tid 0x21 0 e t.pc s.tick)) ∧
    (t.haltBrk = true → exec .brk s = .next (s.updThread tid (fun u =>
      { u with status := .halted, epc := u.pc, wait := none, brkHalt := true }))) ∧
    (t.priv = 0 ∨ (t.priv = 1 ∧ bits t.estat.toNat 1 0 = 2) → exec .eret s = .next (takeTrap tid 0x03 0 0 t.pc s)) ∧
    (t.priv ≠ 0 → ¬(t.priv = 1 ∧ bits t.estat.toNat 1 0 = 2) → t.epc.toNat % 8 ≠ 0 →
      exec .eret s = .next (takeTrap tid 0x04 2 t.epc t.pc s)) ∧
    (t.priv ≠ 0 → ¬(t.priv = 1 ∧ bits t.estat.toNat 1 0 = 2) → t.epc.toNat % 8 = 0 → (bits t.estat.toNat 1 0 = 0 → t.inbox = []) →
      ∃ s' u, exec .eret s = .next s' ∧ s'.thread? tid = some u ∧ u.pc = t.epc ∧
        (∀ j, j < 64 → u.tstat.getLsbD j = if j = 12 then t.fctl.getLsbD 12 else t.estat.getLsbD j) ∧
        (∀ j, j < 4 → u.pfx.getLsbD j = (t.estat.getLsbD 4 && t.estat.getLsbD (6 + j))) ∧ u.pfx.getLsbD 4 = t.estat.getLsbD 4 ∧
        SameG t u [] ∧ SameVector t u ∧ u.fctl = t.fctl ∧ u.epc = t.epc ∧ u.estat = t.estat ∧ SameMem s s') ∧
    (∀ r v, t.priv = 1 → bits t.estat.toNat 1 0 = 0 → t.epc.toNat % 8 = 0 → t.inbox = [(false, r, v)] → plain r → t.pend.getLsbD r = false →
      t.wait = none → ∃ s' u, exec .eret s = .next s' ∧ s'.thread? tid = some u ∧ u.pc = t.epc ∧ u.reg r = v ∧ u.full r = true ∧
        u.inbox = [] ∧ SameG t u [r])

/-- R58, R111, R112, R118, R313, R351: FENCE goes on when every condition its flags name holds, and parks otherwise; IFENCE empties the
quad's instruction cache, parks and is readied; YIELD gives up passed cycles until the next own cycle; TIME and CYC never run backwards: the count
that one keeps is not below what it has read, which the model leaves free (log 8); KHOLD starts a hold and its count, a second KHOLD changes nothing, KLET ends it. -/
def Obligations.FencesYieldClocksAndHolds : Prop :=
  (∀ (s : State) (tid : Nat) (t : Thread) (f : BitVec 3), Issues s tid t [] [] 1 → t.lost = [] →
     let holds := (f.getLsbD 0 = true → t.relaxed = []) ∧ (f.getLsbD 1 = true → jobsPending s t.pos.tileRef tid = false) ∧
       (f.getLsbD 2 = true → t.posted = 0)
     (holds → exec (.fence f) s = .next (afterIssue s tid t [])) ∧
     (¬ holds → exec (.fence f) s = .next (park tid (.fence f.toNat) (afterIssue s tid t []))) ∧
     (t.relaxed = [] → t.sfuLeft = 0 → ∃ s' u, exec .ifence s = .next s' ∧ (s'.quad t.pos.quadRef).icache = [] ∧
       s'.thread? tid = some u ∧ u.codeFrom = s.fresh ∧ u.status = .waking ∧ u.wait = none ∧ u.pc = t.pc + 8 ∧ SameG t u [] ∧ SameMem s s') ∧
     (t.relaxed ≠ [] → exec .ifence s = .next (park tid .drain s))) ∧
  (∀ (s : State) (tid : Nat) (t : Thread) (d : BitVec 6),
     (Issues s tid t [] [] 1 →
       (∃ s' u, exec .yield s = .next s' ∧ s'.thread? tid = some u ∧ u.notBefore = s.nextOwn t.pos ∧ u.pc = t.pc + 8 ∧ SameG t u [] ∧ SameMem s s') ∧
       (t.khold = false → ∃ s' u, exec .khold s = .next s' ∧ s'.thread? tid = some u ∧ u.khold = true ∧ u.holdCount = 0 ∧
         u.priv = t.priv ∧ SameG t u []) ∧
       (t.khold = true → exec .khold s = .next (afterIssue s tid t [])) ∧
       (∃ s' u, exec .klet s = .next s' ∧ s'.thread? tid = some u ∧ u.khold = false ∧ u.priv = t.priv ∧ SameG t u [])) ∧
     (Issues s tid t [] [d.toNat] 1 → t.wait = none → (∀ e ∈ t.inbox, e.1 = true → e.2.1 ≠ d.toNat) → plain d.toNat →
       (∃ n s' u, s.now t.pos.pkg ≤ n ∧ exec (.time d) s = .next s' ∧ s'.thread? tid = some u ∧ u.reg d.toNat = BitVec.ofNat 64 n ∧
         s'.now t.pos.pkg = n ∧ SameG t u [d.toNat]) ∧
       (t.pos.core < 8 → ∃ n s' u, (s.core t.pos.coreRef).cycle + (s.core t.pos.coreRef).cycBase ≤ n ∧ exec (.cyc d) s = .next s' ∧
         n ≤ (s'.core t.pos.coreRef).cycle + (s'.core t.pos.coreRef).cycBase ∧
         s'.thread? tid = some u ∧ u.reg d.toNat = BitVec.ofNat 64 n ∧ SameG t u [d.toNat])))

namespace Sys2Proof.Slice0
open Sys2Proof Sys2Proof.Machine

/-! ### Float, rational and packed arithmetic -/

/-- R226: the format of a width, .S 0 and .D 1, and the bits of an operand that a width reads. -/
def flt (w : BitVec 1) : FpFmt := if w = 0#1 then fp32 else fp64
def rat (w : BitVec 1) : RatFmt := if w = 0#1 then rat32 else rat64
def low (w : BitVec 1) (x : Word) : Nat := if w = 0#1 then x.toNat % 2 ^ 32 else x.toNat

/-- An instruction of one g result: gd, the g sources in field order, the result and the flags. -/
structure Result where
  d : BitVec 6
  srcs : List (BitVec 6)
  value : Word
  flags : Flags

/-- A result code of a width, zero-extended (R226), and an integer result. -/
def code (d : BitVec 6) (srcs : List (BitVec 6)) (r : Nat × Flags) : Option Result := some ⟨d, srcs, BitVec.ofNat 64 r.1, r.2⟩
def int (d : BitVec 6) (srcs : List (BitVec 6)) (r : Int × Flags) : Option Result := some ⟨d, srcs, BitVec.ofInt 64 r.1, r.2⟩

/-- The scalar float instructions in float mode (R226 to R229), from the values `g` of the registers under rounding mode `rm`;
the second part says whether it runs on the SFU. -/
def floatMode (i : Instr) (rm : Nat) (g : BitVec 6 → Word) : Option Result × Bool :=
  match i with
  | .fadd d a b w => (code d [a, b] ((flt w).add rm false (low w (g a)) (low w (g b))), false)
  | .fsub d a b w => (code d [a, b] ((flt w).sub rm false (low w (g a)) (low w (g b))), false)
  | .fmul d a b w => (code d [a, b] ((flt w).mul rm false (low w (g a)) (low w (g b))), false)
  | .fdiv d a b w => (code d [a, b] ((flt w).div rm (low w (g a)) (low w (g b))), true)
  | .fma d a b w v =>
    (code d [d, a, b] ((flt w).fma rm false (v = 2#3 ∨ v = 3#3) (v = 1#3 ∨ v = 3#3) (low w (g a)) (low w (g b)) (low w (g d))), false)
  | .fsqrt d a w => (code d [a] ((flt w).sqrt rm (low w (g a))), true)
  | .fmin d a b w => (code d [a, b] ((flt w).minMax false (low w (g a)) (low w (g b))), false)
  | .fmax d a b w => (code d [a, b] ((flt w).minMax true (low w (g a)) (low w (g b))), false)
  | .fcmp d a b w c =>
    let r := (flt w).compare c.toNat (low w (g a)) (low w (g b))
    (code d [a, b] (if r.1 then 1 else 0, r.2), false)
  | .fcvt d a w v => (match v.toNat with
      | 0 => code d [a] ((flt (~~~w)).convert rm false ((flt w).decode (low w (g a))))
      | 1 => int d [a] (toIntRange rm (-2 ^ 63) (2 ^ 63 - 1) ((flt w).decode (low w (g a))))
      | 2 => int d [a] (toIntRange rm 0 (2 ^ 64 - 1) ((flt w).decode (low w (g a))))
      | 3 => code d [a] ((flt w).round rm false (.fin ((g a).toInt < 0) (g a).toInt.natAbs 1))
      | 4 => code d [a] ((flt w).round rm false (.fin false (g a).toNat 1))
      | _ => none, false)
  | .fclass d a w => (code d [a] ((flt w).classOf (low w (g a)), noFlags), false)
  | .fsgn d a b w v => (code d [a, b] ((flt w).signOp v.toNat (low w (g a)) (low w (g b)), noFlags), false)
  | _ => (none, false)

/-- The scalar float instructions in rational mode (R223 to R229), all on the SFU. -/
def rationalMode (i : Instr) (rm qrm : Nat) (g : BitVec 6 → Word) : Option Result :=
  let q := fun (w : BitVec 1) (r : BitVec 6) => (rat w).decode (low w (g r))
  match i with
  | .fadd d a b w => code d [a, b] ((rat w).deliver qrm (qAdd (q w a) (q w b)))
  | .fsub d a b w => code d [a, b] ((rat w).deliver qrm (qSub (q w a) (q w b)))
  | .fmul d a b w => code d [a, b] ((rat w).deliver qrm (qMul (q w a) (q w b)))
  | .fdiv d a b w => code d [a, b] ((rat w).deliver qrm (qDiv (q w a) (q w b)))
  | .fma d a b w v =>
    code d [d, a, b] ((rat w).deliver qrm (qFma (v = 2#3 ∨ v = 3#3) (v = 1#3 ∨ v = 3#3) (q w a) (q w b) (q w d)))
  | .fsqrt d a w => code d [a] ((rat w).deliver qrm (qSqrt (q w a)))
  | .fmin d a b w => code d [a, b] ((rat w).minMax false (q w a) (q w b))
  | .fmax d a b w => code d [a, b] ((rat w).minMax true (q w a) (q w b))
  | .fcmp d a b w c =>
    let r := qCompare c.toNat (q w a) (q w b)
    code d [a, b] (if r.1 then 1 else 0, r.2)
  | .fcvt d a w v => match v.toNat with
    | 0 => code d [a] ((rat (~~~w)).ofQ qrm (q w a))
    | 1 => int d [a] (qToInt rm (-2 ^ 63) (2 ^ 63 - 1) (q w a))
    | 2 => int d [a] (qToInt rm 0 (2 ^ 64 - 1) (q w a))
    | 3 => code d [a] ((rat w).ofInt qrm (g a).toInt)
    | 4 => code d [a] ((rat w).ofInt qrm ((g a).toNat : Int))
    | 5 => code d [a] (qToFloat (flt w) rm (q w a))
    | 6 => code d [a] ((rat w).ofFloat qrm ((flt w).decode (low w (g a))))
    | _ => none
  | .fclass d a w => code d [a] (qClass (q w a), noFlags)
  | .fsgn d a b w v => code d [a, b] ((rat w).signOp v.toNat (low w (g a)) (low w (g b)))
  | _ => none

/-- The rational helpers (R230, R231); the second part says whether it runs on the SFU. -/
def helper (i : Instr) (qrm : Nat) (g : BitVec 6 → Word) : Option Result × Bool :=
  match i with
  | .qnum d a w => (int d [a] (match (rat w).decode (low w (g a)) with
      | .fin s n _ => (if s then -(n : Int) else n, noFlags)
      | .inf s => (if s then -1 else 1, noFlags)
      | .nar => (0, noFlags)
      | .ill => (0, { qinv := true })), false)
  | .qden d a w => (code d [a] (match (rat w).decode (low w (g a)) with
      | .fin _ n k => (if n = 0 then 1 else k, noFlags)
      | .inf _ => (0, noFlags)
      | .nar => (0, noFlags)
      | .ill => (0, { qinv := true })), false)
  | .qmake d a b w => (code d [a, b] ((rat w).make qrm (g a).toInt (g b).toInt), true)
  | .qgcd d a b => (code d [a, b] (Nat.gcd (g a).toNat (g b).toNat, noFlags), true)
  | .qbnd d a b w => (code d [a, b] ((rat w).bound qrm ((rat w).decode (low w (g a))) (g b).toNat), true)
  | _ => (none, false)

/-- A number of `n` bits read as two's complement. -/
def asInt (n x : Nat) : Int := if x % 2 ^ n < 2 ^ (n - 1) then (x % 2 ^ n : Nat) else (x % 2 ^ n : Nat) - (2 ^ n : Int)

/-- R185: the element format of an EF code, the width of an element (of a part of a complex one), and the element `j` of a register. -/
def r185 : Nat → PackKind
  | 0 => .int 8
  | 1 => .int 4
  | 2 => .scaled (.float e4m3)
  | 3 => .scaled (.float e5m2)
  | 4 => .scaled (.float e2m1)
  | 5 => .scaled .mxint8
  | 6 => .float bf16
  | 7 => .float fp16
  | 8 => .cpx 8
  | _ => .cpx 4
def partWidth : PackKind → Nat
  | .int w => w
  | .scaled e => e.width
  | .float f => f.width
  | .cpx p => p
def item (w x j : Nat) : Nat := x / 2 ^ (w * j) % 2 ^ w

/-- An integer saturated to `w` bits, as its code (R36). -/
def satCode (w : Nat) (z : Int) : Nat := (max (-2 ^ (w - 1)) (min (2 ^ (w - 1) - 1) z) % 2 ^ w).toNat

/-- A register put together from the results of its `n` elements of width `w`, with the flags of all of them. -/
def packed (n w : Nat) (el : Nat → Nat × Flags) : Nat × Flags :=
  (((List.range n).map (fun j => (el j).1 % 2 ^ w * 2 ^ (w * j))).sum, ((List.range n).map (fun j => (el j).2)).foldl Flags.or noFlags)

/-- R179, R213: the NaN that a scaled element format writes, with the flags `fl`: E4M3 and E5M2 have one, E2M1 and MXINT8 give 0 and NV. -/
def elementNan (e : ElFmt) (fl : Flags) : Nat × Flags :=
  if e = .float e4m3 then (0x7F, fl) else if e = .float e5m2 then (0x7E, fl) else (0, { nv := true })

/-- R213: an element (of an integer or a float format) of PADD 0, PSUB 1, PMUL 2, PMAX 3 and PMIN 4 under the scale byte `sc`. -/
def r213 (op rm sc : Nat) (k : PackKind) (a b : Nat) : Nat × Flags :=
  match k with
  | .int w =>
    let x := asInt w a
    let y := asInt w b
    (satCode w (match op with | 0 => x + y | 1 => x - y | 2 => x * y | 3 => max x y | _ => min x y), noFlags)
  | .float f => (match op with
      | 0 => f.add rm false a b
      | 1 => f.sub rm false a b
      | 2 => f.mul rm false a b
      | 3 => f.minMax true a b
      | _ => f.minMax false a b)
  | .scaled e =>
    if sc = 255 then elementNan e noFlags
    else if 3 ≤ op then (match e with
      | .float f => f.minMax (op = 3) a b
      | _ => ((if op = 3 then max (asInt 8 a) (asInt 8 b) else min (asInt 8 a) (asInt 8 b)) % 256 |>.toNat, noFlags))
    else
      let nan := match e with
        | .float f => f.nanRule [f.decode a, f.decode b]
        | _ => none
      let x := (e.decodeScaled sc a).xr
      let y := (e.decodeScaled sc b).xr
      nan.getD (match (match op with | 0 => x.add rm y | 1 => x.add rm y.neg | _ => x.mul y) with
        | some r => e.roundSat rm (r.scale (127 - (sc : Int)))
        | none => elementNan e { nv := true })
  | .cpx _ => (0, noFlags)

/-- R206, R213: the parts of a complex element of PADD, PSUB and PMUL; `j` counts parts, the real one of an element first. -/
def r213c (op p x y j : Nat) : Nat × Flags :=
  let re := fun (z : Nat) => asInt p (item p z (j / 2 * 2))
  let im := fun (z : Nat) => asInt p (item p z (j / 2 * 2 + 1))
  let own := fun (z : Nat) => asInt p (item p z j)
  (satCode p (match op with
    | 0 => own x + own y
    | 1 => own x - own y
    | _ => if j % 2 = 0 then re x * re y - im x * im y else re x * im y + im x * re y), noFlags)

/-- R213 on whole registers. -/
def elementwise (op rm ef sc x y : Nat) : Nat × Flags :=
  let k := r185 ef
  let w := partWidth k
  packed (64 / w) w (fun j => match k with
    | .cpx p => r213c op p x y j
    | _ => r213 op rm sc k (item w x j) (item w y j))

/-- R176, R214: PDOT of an integer format, the exact signed sum in 64 bits; of a float format, the exact sum of the scaled products rounded
once to FP32, with one canonical NaN for a NaN element, an invalid product or an invalid sum, and the sign of a zero sum as R176 gives it. -/
def dot (rm ef sc x y : Nat) : Nat × Flags :=
  let k := r185 ef
  let w := partWidth k
  let n := 64 / w
  let val := fun (z j : Nat) => match k with
    | .scaled e => e.decodeScaled sc (item w z j)
    | .float f => f.decode (item w z j)
    | _ => .num (.fin false 0 1)
  let bad : Nat × Flags := (0x7FC00000, { nv := true })
  match k with
  | .int w => ((((List.range n).map (fun j => asInt w (item w x j) * asInt w (item w y j))).sum % 2 ^ 64).toNat, noFlags)
  | _ =>
    if (List.range n).any (fun j => (val x j).isNan || (val y j).isNan) then bad
    else
      let products := (List.range n).map (fun j => (val x j).xr.mul (val y j).xr)
      let neg := fun (j : Nat) => (val x j).xr.isNeg != (val y j).xr.isNeg
      let sum : Option Xr := products.foldl (fun s p => s.bind (fun a => p.bind (fun b => a.add 0 b))) (some (.fin false 0 1))
      match sum with
      | none => bad
      | some (.fin s m d) =>
        if m = 0 then (if (List.range n).all neg then 2 ^ 31 else if (List.range n).any neg && rm == 2 then 2 ^ 31 else 0, noFlags)
        else fp32.round rm false (.fin s m d)
      | some v => fp32.round rm false v

/-- R214: PCDOT, the exact complex sum as C32. -/
def complexDot (ef x y : Nat) : Nat :=
  let p := partWidth (r185 ef)
  let re := fun (z q : Nat) => asInt p (item p z (2 * q))
  let im := fun (z q : Nat) => asInt p (item p z (2 * q + 1))
  let sum := fun (f : Nat → Int) => ((List.range (32 / p)).map f).sum
  (sum (fun q => re x q * re y q - im x q * im y q) % 2 ^ 32).toNat +
    2 ^ 32 * (sum (fun q => re x q * im y q + im x q * re y q) % 2 ^ 32).toNat

/-- R215: an element (or part) read as FP32, and an FP32 value written as one; an integer element saturates to ±max with OF and NX (R174),
an infinity gives its minimum or maximum and a NaN 0, with NV (R177; log 54). -/
def unpacked (rm sc : Nat) (k : PackKind) (x : Nat) : Nat × Flags :=
  match k with
  | .scaled e => fp32.convert rm false (e.decodeScaled sc x)
  | .float f => fp32.convert rm false (f.decode x)
  | .int w | .cpx w => fp32.round rm false (.fin (asInt w x < 0) (asInt w x).natAbs 1)
def repacked (rm sc : Nat) (k : PackKind) (x : Nat) : Nat × Flags :=
  let integer := fun (w : Nat) => match fp32.decode x with
    | .nan .. => (0, { nv := true })
    | .num (.inf s) => (if s then 2 ^ (w - 1) else 2 ^ (w - 1) - 1, { nv := true })
    | .num (.fin s n d) =>
      let r := roundStep rm s n d false 0
      let z := if s then -(r.1 : Int) else r.1
      if z < -2 ^ (w - 1) then (2 ^ (w - 1) + 1, { of := true, nx := true })
      else if 2 ^ (w - 1) ≤ z then (2 ^ (w - 1) - 1, { of := true, nx := true })
      else ((z % 2 ^ w).toNat, { nx := r.2 })
  match k with
  | .int w | .cpx w => integer w
  | .float f => f.convert rm false (fp32.decode x)
  | .scaled e => if sc = 255 then elementNan e noFlags else match fp32.decode x with
    | .nan _ _ _ sig => elementNan e { nv := sig }
    | .num y => e.roundSat rm (y.scale (127 - (sc : Int)))

/-- R215: PCVT with the control word `gb`: the part's two elements as an FP32 pair, or an FP32 pair into them, the other elements kept. -/
def convertPart (rm ef sc gd ga gb : Nat) : Nat × Flags :=
  let k := r185 ef
  let w := partWidth k
  let p := gb / 2 % 16
  if gb / 32 ≠ 0 ∨ 64 / w / 2 ≤ p then (2 ^ 64 - 1, noFlags)
  else if gb % 2 = 0 then packed 2 32 (fun j => unpacked rm sc k (item w ga (2 * p + j)))
  else packed (64 / w) w (fun j => if j / 2 = p then repacked rm sc k (item 32 ga (j % 2)) else (item w gd j, noFlags))

/-- The packed operations (R212 to R215) under the format EF, the scale byte `sc` and the rounding mode. -/
def packedOp (i : Instr) (rm ef sc : Nat) (g : BitVec 6 → Word) : Option Result :=
  let two := fun (op : Nat) (d a b : BitVec 6) => code d [a, b] (elementwise op rm ef sc (g a).toNat (g b).toNat)
  match i with
  | .padd d a b _ => two 0 d a b
  | .psub d a b _ => two 1 d a b
  | .pmul d a b _ => two 2 d a b
  | .pmax d a b _ => if ef ≤ 7 then two 3 d a b else none
  | .pmin d a b _ => if ef ≤ 7 then two 4 d a b else none
  | .pdot d a b _ => if ef ≤ 7 then code d [a, b] (dot rm ef sc (g a).toNat (g b).toNat) else none
  | .pcdot d a b _ => if 8 ≤ ef then code d [a, b] (complexDot ef (g a).toNat (g b).toNat, noFlags) else none
  | .pcvt d a b _ => code d [d, a, b] (convertPart rm ef sc (g d).toNat (g a).toNat (g b).toNat)
  | _ => none

/-- The companion field of a packed operation (R212), and whether it needs CPLX (R55). -/
def companion : Instr → BitVec 5
  | .padd _ _ _ s | .psub _ _ _ s | .pmul _ _ _ s | .pmax _ _ _ s | .pmin _ _ _ s | .pdot _ _ _ s | .pcdot _ _ _ s | .pcvt _ _ _ s => s
  | _ => 0
def needsCplx : Instr → Bool
  | .pcdot _ _ _ _ => true
  | _ => false

/-- The companion register as a source, and the block scale it gives: bits 7:0, or the unit scale for field 0 (R186). -/
def scaleSrcs (c : BitVec 5) : List (BitVec 6) := if c.toNat = 0 then [] else [BitVec.ofNat 6 c.toNat]
def scaleOf (c : BitVec 5) (g : BitVec 6 → Word) : Nat := if c.toNat = 0 then 0x7F else (g (BitVec.ofNat 6 c.toNat)).toNat % 256

/-- `s'` is `s` with a request of the thread at the end of its quad's SFU queue, the thread parked until it is served, and gd owed its
result (R13, R217, R219). -/
def Requested (s : State) (tid : Nat) (t : Thread) (r : SfuResult) (f : Flags) (d : Nat) (s' : State) : Prop :=
  (s'.quad t.pos.quadRef).queue = (s.quad t.pos.quadRef).queue ++ [⟨tid, r, BitVec.ofNat 64 (flagBits f), false⟩] ∧
  (s'.quad t.pos.quadRef).serving = (s.quad t.pos.quadRef).serving ∧
  ∃ u, s'.thread? tid = some u ∧ u.status = .parked ∧ u.wait = some .sfu ∧ u.sfuLeft = t.sfuLeft + 1 ∧ u.pc = t.pc + 8 ∧
    (plain d → u.full d = false) ∧ (∀ k, k ≠ d → u.reg k = t.reg k ∧ u.full k = t.full k) ∧ SameVector t u ∧ SameControl t u ∧
    u.fctl = t.fctl

end Sys2Proof.Slice0

/-- R182, R184, R226 to R231: in float mode every scalar float instruction but FDIV and FSQRT runs in the core, and QNUM and QDEN do in
either mode: gd gets the result, rounded under RM as captured, and the flags are ORed into FCTL. -/
def Obligations.FloatAndRationalInstructionsInTheCore : Prop :=
  (∀ (s : State) (tid : Nat) (t : Thread) (i : Instr) (r : Result), i.wf = true → t.qmode = false →
     floatMode i t.rm (valueOf s t) = (some r, false) → Issues s tid t r.srcs [r.d.toNat] 1 →
     exec i s = .next (flagged tid r.flags (regWrite tid r.d.toNat r.value (afterIssue s tid t r.srcs)))) ∧
  (∀ (s : State) (tid : Nat) (t : Thread) (i : Instr) (r : Result), helper i t.qrm (valueOf s t) = (some r, false) →
     Issues s tid t r.srcs [r.d.toNat] 8 →
     exec i s = .next (flagged tid r.flags (regWrite tid r.d.toNat r.value (afterIssue s tid t r.srcs))))

/-- R55, R217, R219, R227, R230: FDIV and FSQRT in float mode, every scalar float instruction in rational mode, QMAKE, QGCD and QBND
put a request with their captured result at the end of the quad's queue and park. -/
def Obligations.SfuRequestsCaptureTheirResult : Prop :=
  ∀ (s : State) (tid : Nat) (t : Thread) (i : Instr) (r : Result) (ext : Nat), i.wf = true →
    ((t.qmode = false ∧ ext = 1 ∧ floatMode i t.rm (valueOf s t) = (some r, true)) ∨
     (t.qmode = true ∧ ext = 8 ∧ rationalMode i t.rm t.qrm (valueOf s t) = some r) ∨
     (ext = 8 ∧ helper i t.qrm (valueOf s t) = (some r, true))) →
    Issues s tid t r.srcs [r.d.toNat] ext → (∀ x ∈ r.srcs, x.toNat = 0 ∨ plain x.toNat) →
    (∀ x ∈ (s.quad t.pos.quadRef).queue, x.tid ≠ tid) →
    ∃ s', exec i s = .next s' ∧ Requested s tid t (.scalar r.d.toNat r.value) r.flags r.d.toNat s'

/-- R185, R186, R212 to R215: the packed operations on the format of FMT, with the companion register's scale: each element's exact result
saturated, rounded or given its NaN, the exact sums, the conversions of PCVT, with their flags; complex PDOT, PMAX and PMIN and real PCDOT
take ILLREG with the number of FMT. Where R174 and R177 differ on an FP32 value beyond an integer element, the reading of log 54 is the
model's choice. -/
def Obligations.PackedOperations : Prop :=
  ∀ (s : State) (tid : Nat) (t : Thread) (i : Instr) (srcs : List (BitVec 6)) (d : BitVec 6),
    let c := companion i
    let go := fun ef => packedOp i t.rm ef (scaleOf c (valueOf s t)) (valueOf s t)
    Issues s tid t (srcs ++ scaleSrcs c) [d.toNat] (if needsCplx i then 17 else 1) →
    (∀ r, go (bits t.fmt.toNat 3 0) = some r → r.srcs = srcs → r.d = d →
      exec i s = .next (flagged tid r.flags (regWrite tid d.toNat r.value (afterIssue s tid t (srcs ++ scaleSrcs c))))) ∧
    (∀ r, go (bits t.fmt.toNat 3 0) = none → (go 0 = some r ∨ go 8 = some r) → r.srcs = srcs → r.d = d →
      exec i s = .next (takeTrap tid 0x02 0 0x011 t.pc s))

/-- R166 to R168, R174, R178, R181: one rounding step delivers the neighbour that its mode names, and says whether it changed the value
(for the magnitude n / d and the result q, RTZ truncates, RDN and RUP go down and up for the sign, RNE and RNA to the nearest, ties to even
and away); a value that a format represents is delivered unchanged, in every mode and without a flag; a NaN operand gives the first NaN,
quieted, a signalling one raises NV, minimum and maximum take the other operand, and the invalid operations give the canonical NaN. -/
def Obligations.RoundingAndNans : Prop :=
  (∀ (rm : Nat) (neg : Bool) (n d : Nat), 0 < d → rm ≤ 4 →
     let q := (roundStep rm neg n d false 0).1
     ((roundStep rm neg n d false 0).2 = true ↔ q * d ≠ n) ∧
     (rm = 1 → q * d ≤ n ∧ n < (q + 1) * d) ∧
     ((rm = 2 ∧ neg = false) ∨ (rm = 3 ∧ neg = true) → q * d ≤ n ∧ n < (q + 1) * d) ∧
     ((rm = 2 ∧ neg = true) ∨ (rm = 3 ∧ neg = false) → n ≤ q * d ∧ q * d < n + d) ∧
     (rm = 0 ∨ rm = 4 → 2 * (q * d) ≤ 2 * n + d ∧ 2 * n ≤ 2 * (q * d) + d) ∧
     (rm = 0 → (2 * (q * d) = 2 * n + d ∨ 2 * n = 2 * (q * d) + d) → q % 2 = 0) ∧
     (rm = 4 → 2 * n ≠ 2 * (q * d) + d)) ∧
  (∀ (f : FpFmt) (rm c : Nat) (x : Xr), f ∈ [fp64, fp32, fp16, bf16, e5m2, e4m3, e2m1] → rm ≤ 4 → c < 2 ^ f.width →
     f.decode c = .num x → f.round rm false x = (c, noFlags)) ∧
  (∀ (f : FpFmt) (rm a b : Nat), f ∈ [fp64, fp32] → a < 2 ^ f.width → b < 2 ^ f.width →
     let nan := fun c => bits c (f.width - 2) f.fracBits = 2 ^ f.expBits - 1 ∧ c % 2 ^ f.fracBits ≠ 0
     let quiet := fun c => if bitAt c (f.fracBits - 1) then c else c + 2 ^ (f.fracBits - 1)
     let sig := fun c => decide (nan c) && !bitAt c (f.fracBits - 1)
     let nv : Flags := { nv := sig a || sig b }
     (nan a → f.add rm false a b = (quiet a, nv) ∧ f.sub rm false a b = (quiet a, nv) ∧ f.mul rm false a b = (quiet a, nv) ∧
       f.div rm a b = (quiet a, nv)) ∧
     (¬ nan a → nan b → f.add rm false a b = (quiet b, nv) ∧ f.sub rm false a b = (quiet b, nv) ∧ f.mul rm false a b = (quiet b, nv) ∧
       f.div rm a b = (quiet b, nv) ∧ f.minMax false a b = (a, nv) ∧ f.minMax true a b = (a, nv)) ∧
     (nan a → ¬ nan b → f.minMax false a b = (b, nv) ∧ f.minMax true a b = (b, nv)) ∧
     (let inf := f.infCode
      let minf := 2 ^ (f.width - 1) + inf
      let bad : Nat × Flags := (inf + 2 ^ (f.fracBits - 1), { nv := true })
      f.add rm false inf minf = bad ∧ f.sub rm false inf inf = bad ∧ f.mul rm false 0 inf = bad ∧ f.div rm 0 0 = bad ∧
        f.div rm inf minf = bad ∧ f.sqrt rm minf = bad))

/-- R221 to R223: each value of the set has one code, which reads as that value: a coprime n / d whose lengths fit is written and read back,
±∞, NaR and zero as the table says, and every word that is not ill-formed, but a zero with S = 1, is the one code that its value is written
as; a finite sum of either kind or product that lies in the set is delivered exactly, without a flag, in every mode, and a sum of zero as
the canonical zero. -/
def Obligations.RationalCodesAndExactResults : Prop :=
  (∀ (f : RatFmt) (s : Bool) (n d : Nat), f = rat32 ∨ f = rat64 →
     (0 < n → 0 < d → Nat.gcd n d = 1 → bitlen n + bitlen d ≤ f.w → f.decode (f.encode (.fin s n d)) = .fin s n d) ∧
     f.decode (f.encode (.inf s)) = .inf s ∧ f.decode (f.encode .nar) = .nar ∧ f.encode (.fin s 0 d) = 1 ∧
     f.decode 1 = .fin false 0 1) ∧
  (∀ (f : RatFmt) (c : Nat), f = rat32 ∨ f = rat64 → c < 2 ^ f.width → f.decode c ≠ .ill →
     f.encode (f.decode c) = c ∨ (f.decode c = .fin false 0 1 ∧ c = 2 ^ (f.width - 1) + 1)) ∧
  (∀ (f : RatFmt) (qrm : Nat) (a : Bool) (p q k m : Nat), 0 < q → 0 < m →
     (p * m = k * q → f.deliver qrm (qAdd (.fin a p q) (.fin (!a) k m)) = (1, noFlags)) ∧
     (∀ n, (n + k * q = p * m ∨ n + p * m = k * q) → 0 < n →
       bitlen (n / Nat.gcd n (q * m)) + bitlen (q * m / Nat.gcd n (q * m)) ≤ f.w →
       f.deliver qrm (qAdd (.fin a p q) (.fin (!a) k m)) =
         (f.encode (.fin (if k * q < p * m then a else !a) (n / Nat.gcd n (q * m)) (q * m / Nat.gcd n (q * m))), noFlags))) ∧
  (∀ (f : RatFmt) (qrm : Nat) (s : Bool) (n d : Nat), 0 < n → 0 < d →
     bitlen (n / Nat.gcd n d) + bitlen (d / Nat.gcd n d) ≤ f.w →
     f.deliver qrm (.val s ⟨n, d, false⟩) = (f.encode (.fin s (n / Nat.gcd n d) (d / Nat.gcd n d)), noFlags) ∧
     (∀ (a b : Bool) (p q k m : Nat), qMul (.fin a p q) (.fin b k m) = .val (a != b) ⟨p * k, q * m, false⟩) ∧
     (∀ (a : Bool) (p q k m : Nat), qAdd (.fin a p q) (.fin a k m) = .val a ⟨p * m + k * q, q * m, false⟩))

/-- R217, R184, R220: an idle SFU takes its oldest request into service; on completion a scalar result is written, the flags are ORed
into FCTL as it then stands, and the thread is readied; the unit of a gated tile stands still (R22, R326). -/
def Obligations.SfuServesItsOldestRequest : Prop :=
  ∀ (s : State) (q : QuadRef) (r : SfuReq) (rs : List SfuReq), s.obj = .quad q →
    let point := (s.tile ⟨q.pkg, q.die, q.tile⟩).point
    (point = none → exec .sfuServiceStart s = .next s ∧ exec .sfuComplete s = .next s) ∧
    (point ≠ none → (s.quad q).serving = none → (s.quad q).queue = r :: rs →
      ∃ s', exec .sfuServiceStart s = .next s' ∧ (s'.quad q).serving = some r ∧ (s'.quad q).queue = rs ∧ SameMem s s') ∧
    (∀ t d v, point ≠ none → (s.quad q).serving = some r → r.dead = false → r.res = .scalar d v → s.thread? r.tid = some t → t.slot?.isSome = true →
      t.status = .parked → t.wait = some .sfu → t.sfuLeft = 1 → t.swapReq = false → t.haltReq = false → plain d →
      (∀ e ∈ t.inbox, e.1 = true → e.2.1 ≠ d) →
      ∃ s' u, exec .sfuComplete s = .next s' ∧ (s'.quad q).serving = none ∧ s'.thread? r.tid = some u ∧ u.reg d = v ∧
        u.full d = true ∧ u.fctl = t.fctl ||| r.flags ∧ u.status = .waking ∧ u.wait = none ∧ u.sfuLeft = 0 ∧ SameG t u [d]) ∧
    (point ≠ none → (s.quad q).serving = some r → r.dead = true →
      ∃ s', exec .sfuComplete s = .next s' ∧ (s'.quad q).serving = none ∧ ∀ k, s'.thread? k = s.thread? k)

namespace Sys2Proof.Slice0
open Sys2Proof Sys2Proof.Machine

/-! ### Memory -/

/-- What an instruction does at its word: from the old value of its bytes, whether the word is full, and its crew: nothing yet (it
waits), or the new value of its bytes, the new FE bit, and the result. -/
inductive Effect where
  | waits
  | done (new : Option Nat) (fe : Option Bool) (result : Word)

/-- A memory instruction (R94, R99 to R109): g sources in field order, gd (0: none), bytes, access kind of R66, effective address, whether
it is indivisible and a full/empty operation, and its effect. -/
structure MemForm where
  srcs : List (BitVec 6)
  d : Nat
  bytes : Nat
  kind : Nat
  ea : Word
  ind : Bool
  fe : Bool
  effect : Nat → Bool → Nat → Effect

/-- R105: the new value of AMO operation `op` on `n` bits. -/
def r105 (op n o b : Nat) : Nat :=
  match op with
  | 0 => (o + b) % 2 ^ n
  | 1 => o &&& b
  | 2 => o ||| b
  | 3 => o ^^^ b
  | 4 => if asInt n o ≤ asInt n b then o else b
  | 5 => if asInt n b ≤ asInt n o then o else b
  | 6 => if o ≤ b then o else b
  | 7 => if b ≤ o then o else b
  | _ => b

/-- R107: the new value of FAMO ADD 0, MIN 1, MAX 2, under RNE. -/
def r107 (op : Nat) (f : FpFmt) (o b : Nat) : Nat :=
  match op with
  | 0 => (f.add 0 false o b).1
  | 1 => (f.minMax false o b).1
  | _ => (f.minMax true o b).1

/-- R108: a malformed lock word. -/
def malformed (w : Nat) : Bool :=
  decide (bits w 63 48 ≠ 0 ∨ bits w 30 26 ≠ 0 ∨ (bits w 31 31 = 0 ∧ w ≠ 0) ∨ (bits w 31 31 = 1 ∧ bits w 47 32 = 0))

abbrev allOnes : Word := 0xFFFFFFFFFFFFFFFF#64

/-- R109: LOCK and UNLK by crew `me`. -/
def r109lock (w me : Nat) : Effect :=
  if malformed w then .done none none allOnes
  else if w = 0 then .done (some (2 ^ 32 + 2 ^ 31 + me)) none 1#64
  else if bits w 25 0 = me then
    (if bits w 47 32 = 0xFFFF then .done none none allOnes
     else .done (some (w + 2 ^ 32)) none (BitVec.ofNat 64 (bits w 47 32 + 1)))
  else .waits
def r109unlk (w me : Nat) : Effect :=
  if malformed w ∨ w = 0 ∨ bits w 25 0 ≠ me then .done none none allOnes
  else .done (some (if bits w 47 32 = 1 then 0 else w - 2 ^ 32)) none (BitVec.ofNat 64 (bits w 47 32 - 1))

/-- The memory instructions, from the values `g` of the registers. -/
def memForm (i : Instr) (g : BitVec 6 → Word) : Option MemForm :=
  let off := fun (i : BitVec 12) (n : Nat) => BitVec.ofInt 64 (i.toInt * (n : Int))
  let load := fun (srcs : List (BitVec 6)) (d : BitVec 6) (n : Nat) (signed : Bool) (ea : Word) => some (⟨srcs, d.toNat, n, 0, ea, false, false,
    fun o _ _ => .done none none (if signed then BitVec.ofInt 64 (asInt (8 * n) o) else BitVec.ofNat 64 o)⟩ : MemForm)
  let store := fun (srcs : List (BitVec 6)) (n : Nat) (v ea : Word) => some (⟨srcs, 0, n, 1, ea, false, false,
    fun _ _ _ => .done (some (v.toNat % 2 ^ (8 * n))) none 0#64⟩ : MemForm)
  let word := fun (srcs : List (BitVec 6)) (d : Nat) (ea : Word) (fe : Bool) (e : Nat → Bool → Nat → Effect) =>
    some (⟨srcs, d, 8, 3, ea, true, fe, e⟩ : MemForm)
  let atom := fun (srcs : List (BitVec 6)) (d : BitVec 6) (n : Nat) (ea : Word) (e : Nat → Effect) =>
    some (⟨srcs, d.toNat, n, 3, ea, true, false, fun o _ _ => e o⟩ : MemForm)
  match i with
  | .ld d a k m => load [a] d (2 ^ m.toNat) true (g a + off k (2 ^ m.toNat))
  | .ldU d a k m => load [a] d (2 ^ m.toNat) false (g a + off k (2 ^ m.toNat))
  | .ldx d a b z u => load [a, b] d (2 ^ z.toNat) (u = 0#1) (g a + g b)
  | .st v a k m => store [v, a] (2 ^ m.toNat) (g v) (g a + off k (2 ^ m.toNat))
  | .stx v a b z => store [v, a, b] (2 ^ z.toNat) (g v) (g a + g b)
  | .lds d a k => word [a] d.toNat (g a + off k 8) true (fun o f _ => if f then .done none none (BitVec.ofNat 64 o) else .waits)
  | .ldc d a k => word [a] d.toNat (g a + off k 8) true (fun o f _ => if f then .done none (some false) (BitVec.ofNat 64 o) else .waits)
  | .stf v a k => word [v, a] 0 (g a + off k 8) true (fun _ _ _ => .done (some (g v).toNat) (some true) 0#64)
  | .feset a => word [a] 0 (g a) true (fun _ _ _ => .done none (some true) 0#64)
  | .feclr a => word [a] 0 (g a) true (fun _ _ _ => .done none (some false) 0#64)
  | .fetst d a => word [a] d.toNat (g a) true (fun _ f _ => .done none none (if f then 1#64 else 0#64))
  | .amo d a b o z _ => let n := 2 ^ z.toNat
    atom [a, b] d n (g a) (fun old => .done (some (r105 o.toNat (8 * n) old ((g b).toNat % 2 ^ (8 * n)))) none
      (BitVec.ofInt 64 (asInt (8 * n) old)))
  | .cas d a b z => let n := 2 ^ z.toNat
    atom [d, a, b] d n (g a) (fun old => .done
      (if old = (g d).toNat % 2 ^ (8 * n) then some ((g b).toNat % 2 ^ (8 * n)) else none) none (BitVec.ofInt 64 (asInt (8 * n) old)))
  | .famo d a b o p => let n := if p = 1#1 then 8 else 4
    atom [a, b] d n (g a) (fun old => .done (some (r107 o.toNat (if p = 1#1 then fp64 else fp32) old ((g b).toNat % 2 ^ (8 * n)))) none
      (BitVec.ofNat 64 old))
  | .lock d a => word [a] d.toNat (g a) false (fun o _ me => r109lock o me)
  | .unlk d a => word [a] d.toNat (g a) false (fun o _ me => r109unlk o me)
  | _ => none

/-- The access is one that R95 performs at its word's own point of coherence in the issuing thread's package, with nothing before it:
aligned, translated, reachable, on an FE page where it needs one, outside the collective ranges, no soft error, not prefixed, not
tentative, no relaxed access outstanding, and no translation or handle table word. -/
structure OwnWord (s : State) (t : Thread) (f : MemForm) (tg : Target) : Prop where
  aligned : f.ea.toNat % f.bytes = 0
  translated : translate s t f.ea.toNat f.kind = .ok tg
  own : tg.aper = 0
  reach : reachable t tg = true
  fePage : f.fe = true → leafFE tg.leaf = true
  range : f.ind = false → inRange s t.part tg = false
  sound : s.bad tg.ga = false
  noPrefix : t.pfx = 0
  firm : t.tent = false
  notLost : t.lost = []
  drained : t.relaxed = []
  noTable : tableCached s (tg.ga / 8) = false

/-- Byte `a` of memory once the low `n` bytes of `v` stand at `ga`. -/
def byteOf (s : State) (ga n v a : Nat) : Byte :=
  if ga ≤ a ∧ a < ga + n then BitVec.ofNat 8 (v / 256 ^ (a - ga)) else memGet s.mem a

/-- Memory and FE bits after an effect at `ga`: its bytes, its FE bit, and every other byte and FE bit as before. -/
def MemoryAfter (s : State) (ga n : Nat) (new : Option Nat) (fe : Option Bool) (s' : State) : Prop :=
  (∀ a, memGet s'.mem a = match new with | some v => byteOf s ga n v a | none => memGet s.mem a) ∧
  (∀ w, feGet s'.fe w = match fe with | some b => if w = ga / 8 then b else feGet s.fe w | none => feGet s.fe w)

/-- The pages by which others wait at their words are still mapped once the bytes `new` stand at `ga` (R102). -/
def StillMapped (s : State) (ga n : Nat) (new : Option Nat) : Prop :=
  ∀ x ∈ s.feWaiters, waiterMapped { s with mem := match new with | some v => memWrite s.mem ga n v | none => s.mem } x = true

/-- R151 to R155: the walk of an address over table words `rd`, from the table root: the places read in order, the page size, and the leaf;
none takes XLATE. A table entry has V = 1, LEAF = 0 and no other bit outside 47:11; a leaf that is read as the first of its group decides
the group when it is a large page. -/
def r155 (rd : Nat → Nat) (root va : Nat) : Option (List Nat × Nat × Nat) :=
  let table := fun (e : Nat) => bits e 0 0 = 1 ∧ bits e 10 1 = 0 ∧ bits e 63 48 = 0
  let leaf := fun (e : Nat) => bits e 0 0 = 1 ∧ bits e 8 8 = 1
  let good := fun (e n : Nat) => leaf e ∧ bits e 11 10 = 0 ∧ bits e 59 58 ≠ 3 ∧ (bits e 59 58 = 1 ∨ bits e 57 48 = 0) ∧
    bits e 47 12 % 2 ^ n = 0 ∧ ¬(bits e 59 58 = 2 ∧ bits e 5 5 = 1)
  let next := fun (e : Nat) => bits e 47 11 * 2 ^ 15
  let a1 := root + 8 * bits va 51 40
  let g2 := next (rd a1) + 8 * (bits va 39 28 / 4 * 4)
  let a2 := next (rd a1) + 8 * bits va 39 28
  let g3 := next (rd a2) + 8 * (bits va 27 16 / 32 * 32)
  let a3 := next (rd a2) + 8 * bits va 27 16
  if bits va 63 52 ≠ (if bits va 51 51 = 1 then 0xFFF else 0) ∨ ¬ table (rd a1) then none
  else if leaf (rd g2) then (if bits (rd g2) 9 9 = 0 ∧ good (rd g2) 14 then some ([a1, g2], 2 ^ 30, rd g2) else none)
  else if ¬ table (rd a2) then none
  else if leaf (rd g3) ∧ bits (rd g3) 9 9 = 1 then (if good (rd g3) 5 then some ([a1, g2, a2, g3], 2 ^ 21, rd g3) else none)
  else if bits (rd a3) 9 9 = 0 ∧ good (rd a3) 0 then some ([a1, g2, a2, g3, a3], 2 ^ 16, rd a3) else none

/-- R152 to R155: an access of a kind (0 read, 1 write, 2 fetch, 3 atomic or FE) to `va` through a leaf of a page of `size` bytes. -/
def throughEntry (pkg part priv va kind size l : Nat) : Xlat :=
  let may := if kind = 0 then bits l 1 1 = 1 else if kind = 1 then bits l 2 2 = 1 else if kind = 2 then bits l 3 3 = 1
    else bits l 1 1 = 1 ∧ bits l 2 2 = 1
  let aper := if bits l 59 58 = 1 ∧ bits l 57 48 = pkg then 0 else bits l 59 58
  if bits l 63 60 ≠ part ∨ (priv = 0 ∧ bits l 4 4 = 0) ∨ ¬ may then .fault 6
  else .ok ⟨aper, if aper = 1 then bits l 57 48 else pkg, bits l 47 12 * 2 ^ 16 + va % size, l⟩

end Sys2Proof.Slice0

/-- R95, R99, R101, R103, R105 to R107, R109: every load, store, full/empty operation, atomic and lock operation on the thread's own TCM
or scratchpad completes at once; in shared memory it is performed and the thread parks for the reply that brings the result. That an access is
performed in the turn in which its bundle issues is the model's choice (log 13). Memory and
FE bits change exactly where the instruction says, and of the registers only gd. -/
def Obligations.MemoryInstructionsActOnTheirWord : Prop :=
  ∀ (s : State) (tid : Nat) (t : Thread) (i : Instr) (f : MemForm) (tg : Target) (new : Option Nat) (fe : Option Bool) (v : Word),
    i.wf = true → memForm i (valueOf s t) = some f → Issues s tid t f.srcs (if i matches .st .. | .stx .. | .stf .. | .feset _ | .feclr _ then [] else [f.d]) 1 →
    OwnWord s t f tg → (∀ r ∈ f.srcs, r.toNat = 0 ∨ plain r.toNat) → (f.d = 0 ∨ plain f.d) → t.wait = none →
    (∀ e ∈ t.inbox, e.1 = true → e.2.1 ≠ f.d) →
    f.effect (memRead s.mem tg.ga f.bytes) (feGet s.fe (tg.ga / 8)) t.crew.id26 = .done new fe v →
    (fe = some true → ∀ x ∈ s.feWaiters, x.word ≠ tg.ga / 8) → (f.kind ≠ 0 → StillMapped s tg.ga f.bytes new) → (f.kind ≠ 0 → ∀ x ∈ s.lockWaiters, x.word ≠ tg.ga / 8) →
    ∃ s' u, exec i s = .next s' ∧ MemoryAfter s tg.ga f.bytes new fe s' ∧ s'.thread? tid = some u ∧ u.pc = t.pc + 8 ∧
      SameG t u [f.d] ∧ SameControl t u ∧ SameVector t u ∧ u.fctl = t.fctl ∧ (∀ k, k ≠ tid → s'.thread? k = s.thread? k) ∧
      (fixedLatency tg = true → u.status = .ready ∧ (plain f.d → u.reg f.d = v ∧ u.full f.d = true)) ∧
      (fixedLatency tg = false → u.status = .parked ∧ u.wait = some (.reply f.d v) ∧ (plain f.d → u.full f.d = false) ∧
        .event .memoryReply (.thread tid) ∈ s'.agenda)

/-- R101, R102, R109, R110: LDS and LDC of an empty word and LOCK of a word that another crew holds leave memory as it is, enter the
word's queue behind those that wait there, and park; a fill serves the waiters of its word in park order, each LDS in turn, up to the
first LDC, which takes the value and leaves the word empty; a write that leaves a lock word 0 grants it to its oldest waiter: the word
names that crew with a count of 1, and the waiter gets 1 and goes on. (In the model's terms: what setting the word full, and a store of
0 there, do.) -/
def Obligations.WaitsAtAWord : Prop :=
  (∀ (s : State) (tid : Nat) (t : Thread) (i : Instr) (f : MemForm) (tg : Target),
     memForm i (valueOf s t) = some f → Issues s tid t f.srcs [f.d] 1 → OwnWord s t f tg →
     (∀ r ∈ f.srcs, r.toNat = 0 ∨ plain r.toNat) →
     f.effect (memRead s.mem tg.ga f.bytes) (feGet s.fe (tg.ga / 8)) t.crew.id26 = .waits →
     ∃ s' u, exec i s = .next s' ∧ SameMem s s' ∧ s'.thread? tid = some u ∧ u.status = .parked ∧
       (f.fe = true → u.wait = some .word ∧ s'.feWaiters = s.feWaiters ++ [⟨tid, tg.ga / 8, f.ea.toNat, f.d, i matches .ldc .., none, none⟩]) ∧
       (f.fe = false → u.wait = some .lock ∧ s'.lockWaiters = s.lockWaiters ++ [⟨tid, tg.ga / 8, f.d, none⟩])) ∧
  ((∀ (s : State) (w : Nat) (before : List FeWaiter) (x : FeWaiter) (after : List FeWaiter),
      s.feWaiters.filter (fun y => y.word == w) = before ++ x :: after → (∀ y ∈ before, y.consume = false) →
      (x.consume = true ∨ after = []) → s.feWaiters.Nodup → ((before ++ x :: after).map (·.tid)).Nodup →
      (∀ y ∈ before ++ [x], y.job = none ∧ y.req = none ∧ plain y.d ∧ ∃ t, s.thread? y.tid = some t ∧ t.slot?.isSome = true ∧
        t.status = .parked ∧ t.wait = some .word ∧ t.sfuLeft = 0 ∧ ∀ e ∈ t.inbox, e.1 = true → e.2.1 ≠ y.d) →
      let s' := setFe w true s
      (∀ y ∈ before ++ [x], ∃ u, s'.thread? y.tid = some u ∧ u.reg y.d = s.rdWord (8 * w) ∧ u.full y.d = true ∧ u.status = .waking) ∧
        (∀ k, (∀ y ∈ before ++ [x], y.tid ≠ k) → s'.thread? k = s.thread? k) ∧
        s'.feWaiters = s.feWaiters.filter (fun y => !(before ++ [x]).contains y) ∧ feGet s'.fe w = !x.consume ∧ s'.mem = s.mem) ∧
   (∀ (s : State) (w : Nat) (x : LockWaiter) (xs : List LockWaiter) (t : Thread),
      memWf s.mem = true → t.crew.id26 < 2 ^ 26 → s.lockWaiters = x :: xs → x.word = w → x.req = none → s.thread? x.tid = some t → t.slot?.isSome = true → t.status = .parked →
      t.wait = some .lock → t.sfuLeft = 0 → plain x.d → (∀ e ∈ t.inbox, e.1 = true → e.2.1 ≠ x.d) → (∀ y ∈ xs, y.word ≠ w) →
      ∃ u, (storeAt (8 * w) 8 0 s).thread? x.tid = some u ∧ u.reg x.d = 1#64 ∧ u.full x.d = true ∧ u.status = .waking ∧
        memRead (storeAt (8 * w) 8 0 s).mem (8 * w) 8 = 2 ^ 32 + 2 ^ 31 + t.crew.id26 ∧ (storeAt (8 * w) 8 0 s).lockWaiters = xs ∧
        ∀ a, (a < 8 * w ∨ 8 * w + 8 ≤ a) → memGet (storeAt (8 * w) 8 0 s).mem a = memGet s.mem a))

/-- R37, R94, R97, R142 ranks 6 to 10, R151 to R155: a misaligned address takes ALIGN, then the translation's XLATE or PERM, PERM for a
place that the thread may not reach, RAPERM for an indivisible access to host memory, FEPAGE for a full/empty operation on a page without FE;
EVAL is the address, INFO the access kind, and nothing else changes. What a walk of the partition's tables reads, in which order, what makes
it XLATE, and the page and leaf that it gives otherwise; an engine's access that no cached leaf covers goes by that walk, PERM for another
partition's tag, a page closed to U, or a missing permission. -/
def Obligations.MemoryFaults : Prop :=
  (∀ (s : State) (root pkg part va : Nat),
     let tree := r155 (fun a => memRead s.mem (devAddr pkg a) 8) root va
     walk s root pkg part va = tree.map (fun x =>
       ⟨part, root, va / x.2.1 * x.2.1, x.2.1, BitVec.ofNat 64 x.2.2, x.1.map (fun a => devAddr pkg a / 8)⟩) ∧
     ∀ (tl : TileRef) (priv kind : Nat), tl.pkg = pkg → (∀ e ∈ (s.tile tl).tlb, ¬(e.part = part ∧ e.root = root ∧ e.va ≤ va ∧ va < e.va + e.size)) →
       translateNow s tl root part priv va kind = match tree with
         | none => .fault 5
         | some x => throughEntry pkg part priv va kind x.2.1 x.2.2) ∧
  ∀ (s : State) (tid : Nat) (t : Thread) (i : Instr) (f : MemForm),
    i.wf = true → memForm i (valueOf s t) = some f → Issues s tid t f.srcs (if i matches .st .. | .stx .. | .stf .. | .feset _ | .feclr _ then [] else [f.d]) 1 →
    let takes := fun (cause info : Nat) => exec i s = .next (takeTrap tid cause info f.ea t.pc s)
    (f.ea.toNat % f.bytes ≠ 0 → takes 0x04 f.kind) ∧
    (f.ea.toNat % f.bytes = 0 →
      (∀ c, translate s t f.ea.toNat f.kind = .fault c → takes c f.kind) ∧
      (translate s t f.ea.toNat f.kind = .miss → exec i s = .next (missPark tid f.ea.toNat f.kind s)) ∧
      (∀ tg, translate s t f.ea.toNat f.kind = .ok tg →
        (reachable t tg = false → takes 0x06 f.kind) ∧
        (reachable t tg = true → f.ind = true → tg.aper = 2 → takes 0x07 3) ∧
        (reachable t tg = true → f.ind = true → tg.aper = 0 → f.fe = true → leafFE tg.leaf = false → takes 0x08 3)))

/-- R62, R95, R113, R115, R132: a load or store under PFX.R to shared memory does not park: it is outstanding, its gd is empty, and a ninth
waits; its reply performs it, when no earlier one to its word is outstanding, and fills gd. One to the thread's own TCM or scratchpad
completes at once, as without the prefix. That memory is as before at the issue, and that the access takes its place at the reply, is the
model's choice (log 14). -/
def Obligations.RelaxedAccessesDoNotPark : Prop :=
  (∀ (s : State) (tid : Nat) (t : Thread) (i : Instr) (f : MemForm) (tg : Target),
     i.wf = true → memForm i (valueOf s t) = some f → f.ind = false → Issues s tid t f.srcs (if f.kind = 0 then [f.d] else []) 1 →
     (∀ r ∈ f.srcs, r.toNat = 0 ∨ plain r.toNat) → (f.d = 0 ∨ plain f.d) → t.pfx = 17#5 → t.tent = false →
     f.ea.toNat % f.bytes = 0 → translate s t f.ea.toNat f.kind = .ok tg → tg.aper = 0 → reachable t tg = true →
     inRange s t.part tg = false → s.bad tg.ga = false →
     (fixedLatency tg = false → 8 ≤ t.relaxed.length → exec i s = .next (park tid .ninth s)) ∧
     (fixedLatency tg = false → t.relaxed.length < 8 → ∃ s' u acc, exec i s = .next s' ∧ s'.thread? tid = some u ∧ u.status = t.status ∧
       u.pc = t.pc + 8 ∧ (plain f.d → u.full f.d = false) ∧ u.relaxed = t.relaxed ++ [acc] ∧ acc.pa = tg.ga ∧ acc.d = f.d ∧
       SameG t u [f.d] ∧ SameControl t u ∧ SameVector t u ∧ SameMem s s' ∧ .event .relaxedReply (.threadNum tid acc.id) ∈ s'.agenda) ∧
     (∀ new fe v, fixedLatency tg = true → f.effect (memRead s.mem tg.ga f.bytes) (feGet s.fe (tg.ga / 8)) t.crew.id26 = .done new fe v →
       tableCached s (tg.ga / 8) = false → (∀ x ∈ s.lockWaiters, x.word ≠ tg.ga / 8) → t.wait = none →
       (∀ e ∈ t.inbox, e.1 = true → e.2.1 ≠ f.d) → (f.kind ≠ 0 → StillMapped s tg.ga f.bytes new) →
       ∃ s' u, exec i s = .next s' ∧ MemoryAfter s tg.ga f.bytes new fe s' ∧ s'.thread? tid = some u ∧ u.pc = t.pc + 8 ∧
         u.status = t.status ∧ u.relaxed = t.relaxed ∧ (plain f.d → u.reg f.d = v ∧ u.full f.d = true) ∧ SameG t u [f.d])) ∧
  (∀ (s : State) (tid : Nat) (t : Thread) (a : Access), s.obj = .threadNum tid a.id → memWf s.mem = true → s.thread? tid = some t →
     t.slot?.isSome = true → t.wait = none → t.relaxed.find? (fun x => x.id == a.id) = some a → s.reqs.get? a.id = none →
     (∀ x ∈ t.relaxed.takeWhile (fun x => x.id != a.id), x.pa / 8 ≠ a.pa / 8) → a.tent = false → s.feWaiters = [] → s.lockWaiters = [] →
     (∀ n sg, a.op = .load n sg → 0 < n → n ≤ 8 → plain a.d → (∀ e ∈ t.inbox, e.1 = true → e.2.1 ≠ a.d) →
       ∃ s' u, exec .relaxedReply s = .next s' ∧ s'.thread? tid = some u ∧ u.full a.d = true ∧
         u.reg a.d = (if sg then BitVec.ofInt 64 (asInt (8 * n) (memRead s.mem a.pa n)) else BitVec.ofNat 64 (memRead s.mem a.pa n)) ∧
         u.relaxed = t.relaxed.filter (fun x => x.id != a.id) ∧ u.status = t.status ∧ u.pc = t.pc ∧ SameG t u [a.d] ∧ SameMem s s') ∧
     (∀ n, a.op = .store n → a.d = 0 → 0 < n → n ≤ 8 → ∃ s' u, exec .relaxedReply s = .next s' ∧ s'.thread? tid = some u ∧
       u.relaxed = t.relaxed.filter (fun x => x.id != a.id) ∧ u.status = t.status ∧ u.pc = t.pc ∧ SameG t u [] ∧
       MemoryAfter s a.pa n (some (a.a.toNat % 2 ^ (8 * n))) none s'))

namespace Sys2Proof.Slice0
open Sys2Proof Sys2Proof.Machine

/-! ### Vector instructions -/

/-- Lane `l` of a v register and of a mask as data (R42, R192). -/
def lane (t : Thread) (r : BitVec 5) (l : Nat) : Nat := ((t.v.toArray.getD r.toNat []).getD l 0).toNat
def maskBit (t : Thread) (k : BitVec 3) (l : Nat) : Bool := decide (k = 0#3) || (t.m.toArray.getD k.toNat []).getD l false

/-- Element `j` of a lane, and element `i` of a register, at width `w` (R185, R192). -/
def elem (t : Thread) (w : Nat) (r : BitVec 5) (l j : Nat) : Nat := lane t r l / 2 ^ (w * j) % 2 ^ w
def regElem (t : Thread) (w : Nat) (r : BitVec 5) (i : Nat) : Nat := elem t w r (i / (32 / w)) (i % (32 / w))

/-- A V-slot instruction that writes lanes of vd: its mask (m0: every lane), extensions, g sources, element width, each element's new
value with the flags it raises, and the g register it also writes. -/
structure VForm where
  d : BitVec 5
  k : BitVec 3
  w : Nat
  el : Nat → Nat → Nat × Flags
  ext : Nat := 2
  srcs : List (BitVec 6) := []
  gd : Option (BitVec 6 × Word) := none

/-- R50: element widths of the type codes, and which are signed. -/
def intWidth (c : BitVec 3) : Nat := if c.toNat ≤ 1 then 32 else if c.toNat ≤ 3 then 16 else 8
def intSigned (c : BitVec 3) : Bool := c.toNat % 2 = 0
def floatFmt (c : Nat) : FpFmt := if c = 0 then fp32 else if c = 1 then bf16 else fp16
def permute (c : BitVec 3) : Nat := if c = 0#3 then 32 else if c = 2#3 then 16 else 8

/-- R200: vd, va, vb, vc, mask, type and the exact element result, from the elements read unsigned. -/
def r200 : Instr → Option (BitVec 5 × BitVec 5 × BitVec 5 × BitVec 5 × BitVec 3 × BitVec 3 × (Nat → Bool → Nat → Nat → Nat → Int))
  | .vadd d a b k t => some (d, a, b, a, k, t, fun _ _ x y _ => (x : Int) + y)
  | .vsub d a b k t => some (d, a, b, a, k, t, fun _ _ x y _ => (x : Int) - y)
  | .vmul d a b k t => some (d, a, b, a, k, t, fun _ _ x y _ => (x * y : Nat))
  | .vmulh d a b k t => some (d, a, b, a, k, t, fun w sg x y _ =>
      if sg then (asInt w x * asInt w y).fdiv (2 ^ w) else (x * y / 2 ^ w : Nat))
  | .vmac d a b c k t => some (d, a, b, c, k, t, fun _ _ x y z => (z + x * y : Nat))
  | .vand d a b k t => some (d, a, b, a, k, t, fun _ _ x y _ => (x &&& y : Nat))
  | .vor d a b k t => some (d, a, b, a, k, t, fun _ _ x y _ => (x ||| y : Nat))
  | .vxor d a b k t => some (d, a, b, a, k, t, fun _ _ x y _ => (x ^^^ y : Nat))
  | .vshl d a b k t => some (d, a, b, a, k, t, fun w _ x y _ => (x * 2 ^ (y % w) : Nat))
  | .vshr d a b k t => some (d, a, b, a, k, t, fun w _ x y _ => (x / 2 ^ (y % w) : Nat))
  | .vsar d a b k t => some (d, a, b, a, k, t, fun w _ x y _ => (asInt w x).fdiv (2 ^ (y % w)))
  | .vmin d a b k t => some (d, a, b, a, k, t, fun w sg x y _ => if sg then min (asInt w x) (asInt w y) else (min x y : Nat))
  | .vmax d a b k t => some (d, a, b, a, k, t, fun w sg x y _ => if sg then max (asInt w x) (asInt w y) else (max x y : Nat))
  | .vabs d a k t => some (d, a, a, a, k, t, fun w sg x _ _ => if sg then (asInt w x).natAbs else (x : Int))
  | _ => none

/-- R202: the float family, elementwise. -/
def r202 : Instr → Option (BitVec 5 × BitVec 5 × BitVec 5 × BitVec 5 × BitVec 3 × BitVec 3 ×
    (FpFmt → Nat → Bool → Nat → Nat → Nat → Nat × Flags))
  | .vfadd d a b k t => some (d, a, b, a, k, t, fun f rm z x y _ => f.add rm z x y)
  | .vfsub d a b k t => some (d, a, b, a, k, t, fun f rm z x y _ => f.sub rm z x y)
  | .vfmul d a b k t => some (d, a, b, a, k, t, fun f rm z x y _ => f.mul rm z x y)
  | .vfma d a b c k t => some (d, a, b, c, k, t, fun f rm z x y u => f.fma rm z false false x y u)
  | .vfmin d a b k t => some (d, a, b, a, k, t, fun f _ z x y _ => f.minMax false (f.flushIn z x) (f.flushIn z y))
  | .vfmax d a b k t => some (d, a, b, a, k, t, fun f _ z x y _ => f.minMax true (f.flushIn z x) (f.flushIn z y))
  | .vfsgn d a b c k t => some (d, a, b, a, k, t, fun f _ _ x y _ =>
      let n := 2 ^ (f.width - 1)
      let s := if c = 0#5 then y / n else if c = 1#5 then 1 - y / n else (x / n + y / n) % 2
      (x % n + s * n, noFlags))
  | _ => none

/-- R203: format, width and elements per lane of a VFCVT code. -/
inductive Cv where
  | float (f : FpFmt)
  | int (w : Nat) (lo hi : Int)
  | mx (e : ElFmt)
def r203 : Nat → Cv
  | 0 => .float fp32
  | 1 => .float bf16
  | 2 => .float fp16
  | 3 => .int 32 (-2 ^ 31) (2 ^ 31 - 1)
  | 4 => .int 32 0 (2 ^ 32 - 1)
  | 5 => .int 16 (-2 ^ 15) (2 ^ 15 - 1)
  | 6 => .int 8 (-2 ^ 7) (2 ^ 7 - 1)
  | 7 => .mx (.float e4m3)
  | 8 => .mx (.float e5m2)
  | 10 => .mx .mxint8
  | _ => .mx (.float e2m1)
def Cv.width : Cv → Nat
  | .float f => f.width
  | .int w _ _ => w
  | .mx e => e.width
def Cv.read (w : Nat) (lo : Int) (x : Nat) : Int := if lo < 0 then asInt w x else x

/-- R204: the conversion of the elements `x 0 … x (n − 1)`, block scales in or out at `g`: each element's code and flags, and the scale
word of an MX target. -/
def r204 (src tgt : Cv) (rm : Nat) (z : Bool) (g n : Nat) (x : Nat → Nat) : (Nat → Nat × Flags) × Nat :=
  match src, tgt with
  | .float f, .float h => (fun k => h.convert rm z (f.decode (f.flushIn z (x k))), 0)
  | .float f, .int w lo hi => (fun k =>
      let r := toIntRange rm lo hi (f.decode (f.flushIn z (x k)))
      ((r.1 % 2 ^ w).toNat, r.2), 0)
  | .int w lo _, .float h => (fun k => h.round rm false (.fin (Cv.read w lo (x k) < 0) (Cv.read w lo (x k)).natAbs 1), 0)
  | .int w lo _, .int w' lo' hi' => (fun k => ((max lo' (min hi' (Cv.read w lo (x k))) % 2 ^ w').toNat, noFlags), 0)
  | .mx e, .float h => (fun k => h.convert rm false (e.decodeScaled (g / 2 ^ (8 * (k / 32)) % 256) (x k)), 0)
  | .float f, .mx e =>
    let block := fun b => mxBlock e ((List.range (min 32 (n - 32 * b))).map (fun i => f.decode (x (32 * b + i))))
    (fun k => ((block (k / 32)).2.1.getD (k % 32) 0, (block (k / 32)).2.2),
      ((List.range 8).map (fun b => if 32 * b < n then (block b).1 * 2 ^ (8 * b) else 0)).sum)
  | _, _ => (fun _ => (0, noFlags), 0)

/-- The instructions that write lanes, but for the special functions: R200 to R209. `g` gives the values of g registers. -/
def vform (i : Instr) (t : Thread) (g : BitVec 6 → Word) : Option VForm :=
  let whole := fun (x : Nat) => (x, noFlags)
  let at32 := fun (z : Int × Int) (p : Nat) => -- a complex value, each part saturated to p bits (R169, R206)
    let part := fun (v : Int) => (max (-2 ^ (p - 1)) (min (2 ^ (p - 1) - 1) v) % 2 ^ p).toNat
    part z.1 + 2 ^ p * part z.2
  let sum := fun (n : Nat) (f : Nat → Int) => ((List.range n).map f).sum
  match r200 i, r202 i, i with
  | some (d, a, b, c, k, ty, f), _, _ => let w := intWidth ty
    some { d := d, k := k, w := w, el := fun l j => whole (f w (intSigned ty) (elem t w a l j) (elem t w b l j) (elem t w c l j) % 2 ^ w).toNat }
  | _, some (d, a, b, c, k, ty, f), _ => let h := floatFmt ty.toNat
    some { d := d, k := k, w := h.width, el := fun l j => f h t.rm t.ftz (elem t h.width a l j) (elem t h.width b l j) (elem t h.width c l j) }
  | _, _, .vsel d a b k => some { d := d, k := 0, w := 32, el := fun l _ => whole (if maskBit t k l then lane t a l else lane t b l) }
  | _, _, .vfscl d a r ty => let h := floatFmt ty.toNat
    let el : Nat → Nat → Nat × Flags := fun l j =>
        let v := h.decode (h.flushIn t.ftz (elem t h.width a l j))
        (h.nanRule [v]).getD (h.round t.rm t.ftz (v.xr.scale (max (-1024) (min 1023 (g r).toInt))))
    some { d := d, k := 0, w := h.width, srcs := [r], el := el }
  | _, _, .vfcvt d a r s o p =>
    let src := r203 s.toNat
    let tgt := r203 o.toNat
    let n := t.vlen * min (32 / src.width) (32 / tgt.width)
    let part := if s.toNat = 11 then p.toNat + 4 else p.toNat
    let c := r204 src tgt t.rm t.ftz (g r).toNat n (fun k => regElem t src.width a (part * n + k))
    some { d := d, k := 0, w := tgt.width, srcs := if src matches .mx _ then [r] else []
           el := fun l j => let k := l * (32 / tgt.width) + j
             if k < n then c.1 k else (0, noFlags)
           gd := if tgt matches .mx _ then some (r, BitVec.ofNat 64 c.2) else none }
  | _, _, .vcmac d a b c k ty =>
    let p := if ty = 0#3 then 16 else if ty = 1#3 then 8 else 4
    let re := fun (r : BitVec 5) (l q : Nat) => asInt p (elem t p r l (2 * q))
    let im := fun (r : BitVec 5) (l q : Nat) => asInt p (elem t p r l (2 * q + 1))
    let el : Nat → Nat → Nat × Flags := fun l _ => whole (at32
        (asInt 16 (elem t 16 c l 0) + sum (16 / p) (fun q => re a l q * re b l q - im a l q * im b l q),
         asInt 16 (elem t 16 c l 1) + sum (16 / p) (fun q => re a l q * im b l q + im a l q * re b l q)) 16)
    some { d := d, k := k, w := 32, ext := 18, el := el }
  | _, _, .vcconj d a k ty =>
    let p := if ty = 0#3 then 16 else if ty = 1#3 then 8 else 4
    some { d := d, k := k, w := 2 * p, ext := 18, el := fun l j => whole (at32
      (asInt p (elem t p a l (2 * j)), -asInt p (elem t p a l (2 * j + 1))) p) }
  | _, _, .vdot4 d a b c k ty =>
    let rd := fun (r : BitVec 5) (l q : Nat) => if ty = 0#3 then asInt 8 (elem t 8 r l q) else (elem t 8 r l q : Int)
    some { d := d, k := k, w := 32, el := fun l _ => whole ((lane t c l + sum 4 (fun q => rd a l q * rd b l q)) % 2 ^ 32).toNat }
  | _, _, .vdot8 d a b c k ty =>
    let rd := fun (r : BitVec 5) (l q : Nat) => if ty = 0#3 then asInt 4 (elem t 4 r l q) else (elem t 4 r l q : Int)
    some { d := d, k := k, w := 32, el := fun l _ => whole ((lane t c l + sum 8 (fun q => rd a l q * rd b l q)) % 2 ^ 32).toNat }
  | _, _, .vbcast d r e => some { d := d, k := 0, w := permute e, srcs := [r], el := fun _ _ => whole ((g r).toNat % 2 ^ permute e) }
  | _, _, .vins d r n =>
    let el : Nat → Nat → Nat × Flags := fun l _ =>
        whole (if l = n.toNat then (g r).toNat % 2 ^ 32 else lane t d l)
    some { d := d, k := 0, w := 32, srcs := [r], el := el }
  | _, _, .vperm d a b k e => let w := permute e
    let el : Nat → Nat → Nat × Flags := fun l j =>
        let x := elem t w b l j
        whole (if x < t.vlen * (32 / w) then regElem t w a x else 0)
    some { d := d, k := k, w := w, el := el }
  | _, _, .vslide d a k =>
    let el : Nat → Nat → Nat × Flags := fun l _ =>
        let x := (l : Int) + k.toInt
        whole (if 0 ≤ x ∧ x < t.vlen then lane t a x.toNat else 0)
    some { d := d, k := 0, w := 32, el := el }
  | _, _, .vzip d a b h k e => let w := permute e
    let el : Nat → Nat → Nat × Flags := fun l j =>
        let x := l * (32 / w) + j
        let base := h.toNat * (t.vlen * (32 / w)) / 2
        whole (if x % 2 = 0 then regElem t w a (base + x / 2) else regElem t w b (base + (x - 1) / 2))
    some { d := d, k := k, w := w, el := el }
  | _, _, .vunzip d a b h k e => let w := permute e
    let el : Nat → Nat → Nat × Flags := fun l j =>
        let x := 2 * (l * (32 / w) + j) + h.toNat
        whole (if x < t.vlen * (32 / w) then regElem t w a x else regElem t w b (x - t.vlen * (32 / w)))
    some { d := d, k := k, w := w, el := el }
  | _, _, .vmov d a k _ => some { d := d, k := k, w := 32, el := fun l _ => whole (lane t a l) }
  | _, _, _ => none

/-- The flags raised by a set of elements, ORed (R182, R193). -/
def FlagsOf (fl : Flags) (p : Nat → Nat → Prop) (el : Nat → Nat → Flags) : Prop :=
  ∀ n, (flagBits fl).testBit n = true ↔ ∃ l j, p l j ∧ (flagBits (el l j)).testBit n = true

/-- A v register and a mask register written whole. -/
def putV (tid : Nat) (d : BitVec 5) (ls : List Lane) (s : State) : State :=
  s.updThread tid (fun u => { u with v := u.v.setIfInBounds d.toNat ls })
def putM (tid : Nat) (d : BitVec 3) (ms : List Bool) (s : State) : State :=
  s.updThread tid (fun u => { u with m := u.m.setIfInBounds d.toNat ms })

/-- R201, R202, R211: instructions that write a mask: md, the write-enabling mask, each bit with the flags it raises. -/
def mform (i : Instr) (t : Thread) : Option (BitVec 3 × BitVec 3 × (Nat → Bool × Flags)) :=
  let bit := fun (k : BitVec 3) (l : Nat) => maskBit t k l
  match i with
  | .vcmp d a b c k ty => some (d, k, fun l =>
      let x := if ty = 0#3 then asInt 32 (lane t a l) else (lane t a l : Int)
      let y := if ty = 0#3 then asInt 32 (lane t b l) else (lane t b l : Int)
      (match c.toNat with
        | 0 => decide (x = y)
        | 1 => decide (x ≠ y)
        | 2 => decide (x < y)
        | 3 => decide (x ≤ y)
        | 4 => decide (y < x)
        | _ => decide (y ≤ x), noFlags))
  | .vfcmp d a b c k => some (d, k, fun l =>
      let x := fp32.decode (fp32.flushIn t.ftz (lane t a l))
      let y := fp32.decode (fp32.flushIn t.ftz (lane t b l))
      let nan := x.isNan || y.isNan
      let lt := fun (p q : FpVal) => p.xr.lt q.xr
      (if nan then decide (c.toNat = 1 ∨ c.toNat = 6) else match c.toNat with
        | 0 => !lt x y && !lt y x
        | 1 => lt x y || lt y x
        | 2 => lt x y
        | 3 => !lt y x
        | 4 => lt y x
        | 5 => !lt x y
        | 6 => false
        | _ => true,
       { nv := x.isSig || y.isSig || (nan && decide (2 ≤ c.toNat ∧ c.toNat ≤ 5)) }))
  | .mand d a b => some (d, 0, fun l => (bit a l && bit b l, noFlags))
  | .mor d a b => some (d, 0, fun l => (bit a l || bit b l, noFlags))
  | .mxor d a b => some (d, 0, fun l => (bit a l != bit b l, noFlags))
  | .mnot d a => some (d, 0, fun l => (!bit a l, noFlags))
  | _ => none

/-- R210: the VFRSUM tree over `2 ^ k` element places from place `2 ^ k * i` on. -/
def tree (f : FpFmt) (rm : Nat) (z : Bool) (e : Nat → Option Nat) : Nat → Nat → Option Nat × Flags
  | 0, i => (e i, noFlags)
  | k + 1, i =>
    let x := tree f rm z e k (2 * i)
    let y := tree f rm z e k (2 * i + 1)
    match x.1, y.1 with
    | some p, some q =>
      let r := f.add rm z p q
      (some r.1, (x.2.or y.2).or r.2)
    | some p, none => (some p, x.2.or y.2)
    | none, q => (q, x.2.or y.2)

/-- R207, R210, R211: instructions that write a g register from a vector register or a mask. -/
def gform (i : Instr) (t : Thread) : Option (BitVec 6 × Word × Flags) :=
  let active := fun (k : BitVec 3) (a : BitVec 5) (w : Nat) =>
    ((List.range (t.vlen * (32 / w))).filter (fun x => maskBit t k (x / (32 / w)))).map (regElem t w a)
  let vals := fun (k ty : BitVec 3) (a : BitVec 5) => (active k a (intWidth ty)).map
    (fun x => if intSigned ty then asInt (intWidth ty) x else (x : Int))
  let lo := fun (ty : BitVec 3) => if intSigned ty then -2 ^ (intWidth ty - 1) else (0 : Int)
  let hi := fun (ty : BitVec 3) => if intSigned ty then 2 ^ (intWidth ty - 1) - 1 else (2 ^ intWidth ty - 1 : Int)
  match i with
  | .vextr a r n => some (r, BitVec.ofNat 64 (if n.toNat < t.vlen then lane t a n.toNat else 0), noFlags)
  | .vrsum a r ty k => some (r, BitVec.ofInt 64 (vals k ty a).sum, noFlags)
  | .vrmax a r ty k => some (r, BitVec.ofInt 64 ((vals k ty a).foldl max (lo ty)), noFlags)
  | .vrmin a r ty k => some (r, BitVec.ofInt 64 ((vals k ty a).foldl min (hi ty)), noFlags)
  | .vfrsum a r ty k =>
    let h := floatFmt ty.toNat
    let n := t.vlen * (32 / h.width)
    let x := tree h t.rm t.ftz (fun j => if j < n ∧ maskBit t k (j / (32 / h.width)) = true
      then some (h.flushIn t.ftz (regElem t h.width a j)) else none) (bitlen (n - 1)) 0
    some (r, BitVec.ofNat 64 (x.1.getD 0), x.2)
  | .mpop a r => some (r, BitVec.ofNat 64 ((List.range t.vlen).countP (maskBit t a)), noFlags)
  | _ => none

/-- R232: vd, va, the mask and the function of a vector special function. -/
def r232 : Instr → Option (BitVec 5 × BitVec 5 × BitVec 3 × Nat)
  | .vexp d a k => some (d, a, k, 0)
  | .vlog d a k => some (d, a, k, 1)
  | .vrcp d a k => some (d, a, k, 2)
  | .vrsq d a k => some (d, a, k, 3)
  | .vsigm d a k => some (d, a, k, 4)
  | .vtanh d a k => some (d, a, k, 5)
  | .vsin d a k => some (d, a, k, 6)
  | .vcos d a k => some (d, a, k, 7)
  | _ => none

/-- R233: the special inputs of the functions, as FP32 codes, with their exact results and flags. -/
def r233 (fn a : Nat) : Option (Nat × Flags) :=
  let neg := 2 ^ 31 ≤ a
  let zero := a % 2 ^ 31 = 0
  let inf := a % 2 ^ 31 = 0x7F800000
  let one := 0x3F800000
  let invalid : Nat × Flags := (0x7FC00000, { nv := true })
  let sign := a / 2 ^ 31 * 2 ^ 31
  match fn with
  | 0 => if zero then some (one, noFlags) else if inf then some (if neg then 0 else a, noFlags) else none
  | 1 => if zero then some (0xFF800000, { dz := true }) else if neg then some invalid else if a = one then some (0, noFlags)
      else if inf then some (a, noFlags) else none
  | 2 => if zero then some (sign + 0x7F800000, { dz := true }) else if inf then some (sign, noFlags) else none
  | 3 => if zero then some (sign + 0x7F800000, { dz := true }) else if neg then some invalid else if inf then some (0, noFlags) else none
  | 4 => if zero then some (0x3F000000, noFlags) else if inf then some (if neg then 0 else one, noFlags) else none
  | 5 => if zero then some (a, noFlags) else if inf then some (sign + one, noFlags) else none
  | 6 => if zero then some (a, noFlags) else if inf then some invalid else none
  | _ => if zero then some (one, noFlags) else if inf then some invalid else none

/-- Vector memory (R195, R196): the data register, mask, element bytes, whether it loads, g sources, and each lane's address. -/
structure VMem where
  v : BitVec 5
  k : BitVec 3
  b : Nat
  load : Bool
  srcs : List (BitVec 6)
  ea : Nat → Word

def vmem (i : Instr) (t : Thread) (g : BitVec 6 → Word) : Option VMem :=
  let unit := fun (a : BitVec 6) (l : Nat) => g a + BitVec.ofNat 64 (4 * l)
  let stride := fun (a b : BitVec 6) (l : Nat) => BitVec.ofInt 64 ((g a).toInt + l * (g b).toInt)
  let index := fun (a : BitVec 6) (x : BitVec 5) (l : Nat) => g a + BitVec.ofNat 64 (lane t x l)
  match i with
  | .vld v a k => some ⟨v, k, 4, true, [a], unit a⟩
  | .vst v a k => some ⟨v, k, 4, false, [a], unit a⟩
  | .vlds v a b k z => some ⟨v, k, 2 ^ z.toNat, true, [a, b], stride a b⟩
  | .vsts v a b k z => some ⟨v, k, 2 ^ z.toNat, false, [a, b], stride a b⟩
  | .vgth v a x k z => some ⟨v, k, 2 ^ z.toNat, true, [a], index a x⟩
  | .vsct v a x k z => some ⟨v, k, 2 ^ z.toNat, false, [a], index a x⟩
  | _ => none

/-- R188: the core in whose lane group a thread counts: that of its slot, and for one on its way to another core of its tile, whose claim
has not ended (R56), the core it comes from, which is the model's choice (log 43). -/
def laneHome (t : Thread) : Option CoreRef :=
  match t.place with
  | .slot p => some p.coreRef
  | .flight a b => if a.tileRef = b.tileRef then some a.coreRef else none
  | .image _ _ => none

/-- R198: the passes that serve elements `ls`, given in ascending order, from the word of each: an element that would be the ninth word of its
bank in a pass opens the next. -/
def r198 (w : Nat → Nat) (cur : List Nat) : List Nat → List (List Nat)
  | [] => [cur]
  | l :: ls =>
    let bank := ((cur.filter (fun k => w k % 32 == w l % 32)).map w).eraseDups
    if w l ∈ bank ∨ bank.length < 8 then r198 w (cur ++ [l]) ls else cur :: r198 w [l] ls

/-- The lanes that R189 grants thread `tid` for request `q`. -/
def r189 (s : State) (tid : Nat) (t : Thread) (q : Nat) : Nat :=
  let core := fun k => (⟨t.pos.pkg, t.pos.die, t.pos.tile, k⟩ : CoreRef)
  let others := (s.threads.filter (fun x => x.1 != tid)).map (·.2)
  let counted := fun k => s.threads.any (fun x => decide (laneHome x.2 = some (core k) ∧ x.2.claim ≠ .none))
  let group := fun k => ((others.filter (fun x => laneHome x = some (core k))).map (·.vlen)).foldl max 0
  let n := (List.range 8).countP (fun k => decide (core k = t.pos.coreRef) || counted k)
  let a := 256 - (((List.range 8).filter (fun k => decide (core k ≠ t.pos.coreRef))).map group).sum
  let f := 1048576 - 128 * ((others.filter (fun x => (laneHome x).map (·.tileRef) = some t.pos.tileRef)).map (·.vlen)).sum
  min (min q (256 / n / 8 * 8)) (min a (f / 1024 * 8))

/-- A thread whose lanes are now `k`: kept below the old and the new width, zero above, lost beyond; nothing else changes but the claim. -/
def Lanes (k : Nat) (c : Claim) (u u' : Thread) : Prop :=
  u'.vlen = k ∧ u'.claim = c ∧ (∀ r l, lane u' r l = if l < k then lane u r l else 0) ∧
    (∀ r l, r ≠ 0#3 → maskBit u' r l = (decide (l < k) && maskBit u r l)) ∧ SameG u u' [] ∧ SameControl u u' ∧ u'.h = u.h ∧
    u'.pc = u.pc ∧ u'.status = u.status ∧ u'.fctl = u.fctl ∧ u'.mstat = u.mstat

end Sys2Proof.Slice0

/-- R193, R200 to R209: every instruction that writes lanes writes each element of each enabled lane as its table says, keeps the
others, raises the flags of enabled elements, and changes nothing else; an MX target's scales go to its g register. -/
def Obligations.VectorInstructionsWriteTheirElements : Prop :=
  ∀ (s : State) (tid : Nat) (t : Thread) (i : Instr) (f : VForm), i.wf = true → vform i t (valueOf s t) = some f → t.vlen ≠ 0 →
    Issues s tid t f.srcs (f.gd.elim [] (fun x => [x.1.toNat])) f.ext →
    ∃ (ls : List Lane) (fl : Flags), ls.length = t.vlen ∧
      (∀ l, l < t.vlen → (maskBit t f.k l = true → ∀ j, j < 32 / f.w → (ls.getD l 0).toNat / 2 ^ (f.w * j) % 2 ^ f.w = (f.el l j).1 % 2 ^ f.w) ∧
        (maskBit t f.k l = false → (ls.getD l 0).toNat = lane t f.d l)) ∧
      FlagsOf fl (fun l j => l < t.vlen ∧ maskBit t f.k l = true ∧ j < 32 / f.w) (fun l j => (f.el l j).2) ∧
      exec i s = .next (flagged tid fl (f.gd.elim id (fun x => regWrite tid x.1.toNat x.2) (putV tid f.d ls (afterIssue s tid t f.srcs))))

/-- R192, R193, R201, R202, R211: comparisons and mask instructions write md lane by lane where the mask enables; a write of m0 takes
ILLREG with EVAL 0. R207, R210, R211: reductions, VEXTR and MPOP write their g register. -/
def Obligations.MasksAndReductions : Prop :=
  ∀ (s : State) (tid : Nat) (t : Thread) (i : Instr), i.wf = true → t.vlen ≠ 0 →
    (∀ d k bit, mform i t = some (d, k, bit) → Issues s tid t [] [] 2 →
      (d = 0#3 → exec i s = .next (takeTrap tid 0x02 0 0 t.pc s)) ∧
      (d ≠ 0#3 → ∃ (ms : List Bool) (fl : Flags), ms.length = t.vlen ∧
        (∀ l, l < t.vlen → ms.getD l false = if maskBit t k l then (bit l).1 else maskBit t d l) ∧
        FlagsOf fl (fun l j => l < t.vlen ∧ maskBit t k l = true ∧ j = 0) (fun l _ => (bit l).2) ∧
        exec i s = .next (flagged tid fl (putM tid d ms (afterIssue s tid t []))))) ∧
    (∀ r v fl, gform i t = some (r, v, fl) → Issues s tid t [] [r.toNat] 2 →
      exec i s = .next (flagged tid fl (regWrite tid r.toNat v (afterIssue s tid t []))))

/-- R217, R219, R232, R233: a vector special function parks its thread with a request that holds its lanes, mask and flags; the special
inputs give the table's exact results whichever values the unit picks elsewhere (log 7), a NaN its quieted self, every other input NX;
on completion the enabled lanes are written. -/
def Obligations.VectorSpecialFunctions : Prop :=
  (∀ (s : State) (tid : Nat) (t : Thread) (i : Instr) (d a : BitVec 5) (k : BitVec 3) (fn : Nat), r232 i = some (d, a, k, fn) →
    t.vlen ≠ 0 → Issues s tid t [] [] 2 →
    ∃ (new : List Lane) (mask : List Bool) (fl : Flags) (s' : State), new.length = t.vlen ∧ mask.length = t.vlen ∧
      (∀ l, l < t.vlen → mask.getD l false = maskBit t k l ∧
        new.getD l 0 = (sfuLane Config.sfuPick fn t.ftz (BitVec.ofNat 32 (lane t a l))).1) ∧
      FlagsOf fl (fun l j => l < t.vlen ∧ maskBit t k l = true ∧ j = 0)
        (fun l _ => (sfuLane Config.sfuPick fn t.ftz (BitVec.ofNat 32 (lane t a l))).2) ∧
      exec i s = .next s' ∧ Requested s tid t (.lanes d.toNat new mask) fl 64 s') ∧
  (∀ (pick : Nat → Lane → Nat) (fn : Nat) (z : Bool) (a : Lane), fn < 8 →
    let c := if z = true ∧ a.toNat % 2 ^ 31 < 2 ^ 23 then a.toNat / 2 ^ 31 * 2 ^ 31 else a.toNat
    let nan := 0x7F800000 < a.toNat % 2 ^ 31
    (nan → sfuLane pick fn z a = (a ||| 0x00400000#32, { nv := !a.getLsbD 22 })) ∧
    (¬ nan → ∀ r fl, r233 fn c = some (r, fl) → sfuLane pick fn z a = (BitVec.ofNat 32 r, fl)) ∧
    (¬ nan → r233 fn c = none → (sfuLane pick fn z a).2.nx = true ∧ (sfuLane pick fn z a).2.nv = false ∧
      (sfuLane pick fn z a).2.dz = false)) ∧
  (∀ (s : State) (q : QuadRef) (r : SfuReq) (t : Thread) (d : BitVec 5) (new : List Lane) (mask : List Bool), s.obj = .quad q →
    (s.tile ⟨q.pkg, q.die, q.tile⟩).point ≠ none → (s.quad q).serving = some r → r.dead = false → r.res = .lanes d.toNat new mask → new.length = t.vlen → mask.length = t.vlen →
    s.thread? r.tid = some t → t.slot?.isSome = true → t.status = .parked → t.wait = some .sfu → t.sfuLeft = 1 → t.swapReq = false →
    t.haltReq = false → ∃ s' u, exec .sfuComplete s = .next s' ∧ s'.thread? r.tid = some u ∧ u.status = .waking ∧
      u.fctl = t.fctl ||| r.flags ∧ (∀ l, l < t.vlen → lane u d l = if mask.getD l false then (new.getD l 0).toNat else lane t d l) ∧
      (∀ c l, c ≠ d → lane u c l = lane t c l) ∧ SameG t u [])

/-- R188 to R191, R193, R194: VCLAIM claims what R189 grants and reports it, VREL gives the claim back, and a vector instruction without a
claim takes VNOCLAIM. The lane group of a thread on its way between two cores of a tile is the model's choice (log 43). -/
def Obligations.LaneClaims : Prop :=
  ∀ (s : State) (tid : Nat) (t : Thread) (r : BitVec 6),
    (Issues s tid t [r] [r.toNat] 2 →
      let m := afterIssue s tid t [r]
      let q := max 8 (min 128 (((valueOf s t r).toNat + 7) / 8 * 8))
      let k := r189 m tid t q
      let got := if 8 ≤ k then k else 0
      ∃ f : Thread → Thread, (∀ u, Lanes got (if 8 ≤ k then .held q else .pending q) u (f u)) ∧
        exec (.vclaim r) s = .next (regWrite tid r.toNat (BitVec.ofNat 64 got) (m.updThread tid f))) ∧
    (Issues s tid t [] [] 2 → ∃ f : Thread → Thread, (∀ u, Lanes 0 .none u (f u)) ∧
      exec .vrel s = .next ((afterIssue s tid t []).updThread tid f)) ∧
    (t.vlen = 0 → ∀ i,
      let refused := exec i s = .next (takeTrap tid 0x0C 0 0 t.pc s)
      (∀ f, vform i t (valueOf s t) = some f → Issues s tid t f.srcs (f.gd.elim [] (fun x => [x.1.toNat])) f.ext → refused) ∧
      (∀ d k bit, mform i t = some (d, k, bit) → d ≠ 0#3 → Issues s tid t [] [] 2 → refused) ∧
      (∀ g v fl, gform i t = some (g, v, fl) → Issues s tid t [] [g.toNat] 2 → refused) ∧
      (∀ x, r232 i = some x → Issues s tid t [] [] 2 → refused) ∧
      (∀ f, vmem i t (valueOf s t) = some f → Issues s tid t f.srcs [] 2 → refused))

/-- R195 to R199: a vector memory instruction is served pass by pass, each pass with at most 8 distinct words of one bank; in a pass before
the last the bundle does not issue: a store's elements of the pass are stored, a load's are read and kept hidden. With the last pass a load
writes each enabled lane with its zero-extended element; a store leaves the highest element's bytes where they meet; every other lane,
byte and FE bit is as before. A turn that cuts the access after some elements leaves the others for later turns, which access them in their
order. That a pass is one turn or is cut into several, and that the words of the TCM area count in banks, are the model's choices (logs 41,
48). -/
def Obligations.VectorMemoryAccessesItsElements : Prop :=
  ∀ (s : State) (tid : Nat) (t : Thread) (i : Instr) (f : VMem) (tg : Nat → Target), i.wf = true → vmem i t (valueOf s t) = some f →
    t.vlen ≠ 0 → Issues s tid t f.srcs [] 2 → t.lost = [] → t.relaxed = [] → t.tail = none → s.feWaiters = [] →
    let m := afterIssue s tid t f.srcs
    let on := fun l => l < t.vlen ∧ maskBit t f.k l = true
    let ps := r198 (fun l => (tg l).ga / 8) [] ((List.range t.vlen).filter (fun l => maskBit t f.k l))
    let p := t.vmemPass
    let now := ps.getD p []
    (∀ l, on l → (f.ea l).toNat % f.b = 0 ∧ fixedLatency (tg l) = true ∧ reachable t (tg l) = true ∧ inRange s t.part (tg l) = false ∧
      s.bad (tg l).ga = false ∧ tableCached s ((tg l).ga / 8) = false ∧ (∀ x ∈ s.lockWaiters, x.word ≠ (tg l).ga / 8) ∧
      ∀ σ, σ = s ∨ σ = m → translate σ t (f.ea l).toNat (if f.load then 0 else 1) = .ok (tg l)) →
    let whole := s.cut = 0
    (f.load = true → whole → p + 1 < ps.length → exec i s = .next (s.updThread tid (fun u => { u with
      vmemPass := u.vmemPass + 1
      vmemRead := u.vmemRead ++ now.map (fun l => (l, BitVec.ofNat 32 (memRead s.mem (tg l).ga f.b))) }))) ∧
    (f.load = true → whole → p + 1 = ps.length → ∃ ls : List Lane, ls.length = t.vlen ∧
      (∀ l, l < t.vlen → ls.getD l 0 = match t.vmemRead.find? (fun e => e.1 == l) with
        | some e => e.2
        | none => if now.contains l then BitVec.ofNat 32 (memRead m.mem (tg l).ga f.b) else BitVec.ofNat 32 (lane t f.v l)) ∧
      exec i s = .next (putV tid f.v ls m)) ∧
    (f.load = false → whole → p + 1 ≤ ps.length → ∃ s', exec i s = .next s' ∧
      (p + 1 < ps.length → s'.threads = (s.updThread tid (fun u => { u with vmemPass := u.vmemPass + 1 })).threads) ∧
      (p + 1 = ps.length → s'.threads = m.threads) ∧ s'.fe = s.fe ∧
      (∀ a, (∀ l ∈ now, ¬((tg l).ga ≤ a ∧ a < (tg l).ga + f.b)) → memGet s'.mem a = memGet s.mem a) ∧
      (∀ a, ∀ l ∈ now, (tg l).ga ≤ a → a < (tg l).ga + f.b → (∀ l' ∈ now, l < l' → ¬((tg l').ga ≤ a ∧ a < (tg l').ga + f.b)) →
        memGet s'.mem a = BitVec.ofNat 8 (lane t f.v l / 256 ^ (a - (tg l).ga)))) ∧
    (0 < s.cut → s.cut < now.length → p + 1 ≤ ps.length → ∃ s' u x, exec i s = .next s' ∧ s'.thread? tid = some u ∧ u.tail = some x ∧
      x.load = f.load ∧ x.size = f.b ∧ x.todo = (now.drop s.cut).map (fun l => (l, (tg l).ga)) ∧
      x.data = t.v.toArray.getD f.v.toNat [] ∧ x.vd = (if p + 1 = ps.length then some f.v.toNat else none) ∧
      x.got = (if p + 1 = ps.length then t.vmemRead else []) ++ (if f.load then (now.take s.cut).map (fun l =>
        (l, BitVec.ofNat 32 (memRead s.mem (tg l).ga f.b))) else []) ∧
      (f.load = true → SameMem s s') ∧
      (∀ a, (∀ l ∈ now.take s.cut, ¬((tg l).ga ≤ a ∧ a < (tg l).ga + f.b)) → memGet s'.mem a = memGet s.mem a)) ∧
    (∀ (z : State) (u : Thread) (x : VTail) (n : Nat) (rest : List Turn), z.agenda = .part tid n :: rest → z.thread? tid = some u →
      u.tail = some x → x.load = true → n < x.todo.length → step z = .next ({ z with agenda := rest }.updThread tid (fun w => { w with
        tail := some { x with todo := x.todo.drop n, got := x.got ++ (x.todo.take n).map (fun (e : Nat × Nat) =>
          (e.1, BitVec.ofNat 32 (memRead z.mem e.2 x.size))) } })))

namespace Sys2Proof.Slice0
open Sys2Proof Sys2Proof.Machine

/-! ### Bundles of two instructions, moves, the undo log -/

/-- R355, R392, R410, R420: a slot that the thread may take there: below 14, in its partition's slot set, free, of a core that runs threads. -/
def SlotAt (s : State) (t : Thread) (p : Pos) : Prop :=
  (s.core p.coreRef).available = true ∧ p.slot < 14 ∧ bitAt (s.cfg p.pkg t.part t.launch).slots p.slot = true ∧ slotFree s p = true

/-- A tile of the partition with such a slot on a core that `needs` admits. -/
def HasSlot (s : State) (t : Thread) (needs : CoreRef → Prop) (x : TileRef) : Prop :=
  tileUsable s x t.part t.launch = true ∧ ∃ k j, k < 8 ∧ needs ⟨x.pkg, x.die, x.tile, k⟩ ∧ SlotAt s t ⟨x.pkg, x.die, x.tile, k, j⟩

/-- R56, R355: on its tile, the thread takes the lowest core with such a slot, and there its own slot number if that is one, else the
lowest. -/
def Takes (s : State) (t : Thread) (needs : CoreRef → Prop) (p : Pos) : Prop :=
  p.core < 8 ∧ needs p.coreRef ∧ SlotAt s t p ∧
    (∀ k j, k < p.core → needs ⟨p.pkg, p.die, p.tile, k⟩ → ¬ SlotAt s t ⟨p.pkg, p.die, p.tile, k, j⟩) ∧
    (SlotAt s t { p with slot := t.pos.slot } → p.slot = t.pos.slot) ∧
    (¬ SlotAt s t { p with slot := t.pos.slot } → ∀ j, j < p.slot → ¬ SlotAt s t { p with slot := j })

/-- R355: of the tiles of a die with such a slot, `x` is the nearest to `a`, the lower tile number among equals. -/
def NearestOnDie (s : State) (t : Thread) (a x : TileRef) : Prop :=
  ∀ k, k < 144 → HasSlot s t (fun _ => True) ⟨x.pkg, x.die, k⟩ →
    meshSteps a x < meshSteps a ⟨x.pkg, x.die, k⟩ ∨ (meshSteps a x = meshSteps a ⟨x.pkg, x.die, k⟩ ∧ x.tile ≤ k)

/-- R355: the slot of a migration to the memory at `a`: on its die if a tile of it qualifies, else on the lowest other die of which one does. -/
def BestFor (s : State) (t : Thread) (a : TileRef) (p : Pos) : Prop :=
  p.pkg = a.pkg ∧ p.tile < 144 ∧ tileUsable s p.tileRef t.part t.launch = true ∧ Takes s t (fun _ => True) p ∧ NearestOnDie s t a p.tileRef ∧
    (p.die ≠ a.die → ∀ d k, (d = a.die ∨ (d < p.die ∧ d < 4)) → k < 144 → ¬ HasSlot s t (fun _ => True) ⟨a.pkg, d, k⟩)

/-- R354: the conditions on the thread itself, outside PFX. -/
def MayMove (s : State) (tid : Nat) (t : Thread) : Prop :=
  t.priv = 0 ∧ t.tent = false ∧ holdsResources s tid t = false ∧ t.khold = false ∧ (∀ k, k < 4 → t.queues.toArray.getD k none = none) ∧
    (∀ k, k < 4 → t.streams.toArray.getD k none = none)

/-- The thread has left for `dst` in `s'`, with its bundle still to run, and carries its registers, its claim and its prefix. -/
def Leaves (tid : Nat) (t : Thread) (dst : Pos) (s' : State) : Prop :=
  ∃ u, s'.thread? tid = some u ∧ u.place = .flight t.pos dst ∧ u.pc = t.pc ∧ u.pfx = t.pfx ∧ u.claim = t.claim ∧ SameG t u [] ∧
    SameControl t u ∧ SameVector t u ∧ .event .migrationArrival (.thread tid) ∈ s'.agenda

/-- The checks of an access to another package or the host that come before its route: aligned, translated, reachable, an FE page where it
needs one, no range, no soft error, nothing outstanding or lost, not tentative (R142). -/
structure AwayWord (s : State) (t : Thread) (f : MemForm) (tg : Target) : Prop where
  aligned : f.ea.toNat % f.bytes = 0
  translated : translate s t f.ea.toNat f.kind = .ok tg
  reach : reachable t tg = true
  fePage : f.fe = true → leafFE tg.leaf = true
  range : f.ind = false → inRange s t.part tg = false
  sound : s.bad tg.ga = false
  firm : t.tent = false
  notLost : t.lost = []
  drained : t.relaxed = []

/-- Thread `tid` has asked for its access in `s'` and waits; the request is under way when its route and a number are there (R350, R351). -/
def AsksAway (s : State) (tid : Nat) (t : Thread) (f : MemForm) (tg : Target) (s' : State) : Prop :=
  ∃ u q r, s'.thread? tid = some u ∧ u.status = .parked ∧ u.wait = some (.remote q) ∧ u.pc = t.pc + 8 ∧ (plain f.d → u.full f.d = false) ∧
    SameG t u [f.d] ∧ SameMem s s' ∧ s'.reqs.get? q = some r ∧ r.acc.tid = tid ∧ r.acc.va = f.ea.toNat ∧ r.acc.pa = tg.ga ∧ r.acc.d = f.d ∧
    r.dest = tg.pkg ∧ r.host = (tg.aper == 2) ∧ r.relaxed = false ∧ r.posted = false ∧ r.result = none ∧
    (tg.aper = 2 ∨ (∃ p n, routePort s t.pos.pkg t.part t.launch tg.pkg = some p ∧ takeSeq s p = some n) →
      r.held = false ∧ .event .remoteRequest (.num q) ∈ s'.agenda)

/-- The undo entries of a log (R125): `n` of them from `a` on, as they stand in memory. -/
structure UndoLog (s : State) (t : Thread) (n : Nat) : Prop where
  canonical : memWf s.mem = true
  resident : t.slot?.isSome = true
  base : bits t.tlog.toNat 10 0 % 16 = 0
  count : bits t.tlog.toNat 42 32 = bits t.tlog.toNat 10 0 + 16 * n
  noWaiters : s.feWaiters = []
  noLockers : s.lockWaiters = []

/-- Entry `k` of a thread's undo log: its global address, and its two words. -/
def undoAt (t : Thread) (k : Nat) : Nat := devAddr t.pos.pkg (tcmBase t.pos) + bits t.tlog.toNat 10 0 + 16 * k
def undoAddr (s : State) (t : Thread) (k : Nat) : Nat := memRead s.mem (undoAt t k) 8
def undoOld (s : State) (t : Thread) (k : Nat) : Nat := memRead s.mem (undoAt t k + 8) 8

end Sys2Proof.Slice0

/-- R41, R51 step 5, R52, R142, R184: a bundle with an instruction in both slots. Both slots read the values from before the bundle; the V
slot's effects come first, then those of the S slot, then the flags; a common destination other than g0 takes ILLOP; of the faults of both
slots the one of the lower rank is taken, and neither slot has an effect. -/
def Obligations.TwoSlotBundles : Prop :=
  ∀ (s : State) (tid : Nat) (t : Thread) (j v : Instr), v.wf = true →
    let pair := issue (semOf j) (semOf v) s
    (∀ op w d a b f, r74 j = some (op, w, d, a, b) → vform v t (valueOf s t) = some f →
      let gd := f.gd.elim [] (fun x => [x.1.toNat])
      (Issues s tid t ([a, b] ++ f.srcs) (gd ++ [d.toNat]) (1 ||| f.ext) → t.vlen ≠ 0 → d = 0#6 ∨ d.toNat ∉ gd →
        ∃ (ls : List Lane) (fl : Flags), ls.length = t.vlen ∧
          (∀ l, l < t.vlen →
            (maskBit t f.k l = true → ∀ e, e < 32 / f.w → (ls.getD l 0).toNat / 2 ^ (f.w * e) % 2 ^ f.w = (f.el l e).1 % 2 ^ f.w) ∧
            (maskBit t f.k l = false → (ls.getD l 0).toNat = lane t f.d l)) ∧
          FlagsOf fl (fun l e => l < t.vlen ∧ maskBit t f.k l = true ∧ e < 32 / f.w) (fun l e => (f.el l e).2) ∧
          pair = .next (flagged tid fl (regWrite tid d.toNat (op.result w (valueOf s t a) (valueOf s t b))
            (f.gd.elim id (fun x => regWrite tid x.1.toNat x.2) (putV tid f.d ls (afterIssue s tid t ([a, b] ++ f.srcs))))))) ∧
      (s.cur = some tid → s.thread? tid = some t → t.status = .ready → t.slot?.isSome = true → d ≠ 0#6 → d.toNat ∈ gd →
        pair = .next (takeTrap tid 0x01 0 s.bundle t.pc s))) ∧
    (∀ r x fl, gform v t = some (r, x, fl) →
      (∀ op w d a b, r74 j = some (op, w, d, a, b) →
        (Issues s tid t [a, b] [r.toNat, d.toNat] 3 → t.vlen ≠ 0 → d = 0#6 ∨ d ≠ r →
          pair = .next (flagged tid fl (regWrite tid d.toNat (op.result w (valueOf s t a) (valueOf s t b))
            (regWrite tid r.toNat x (afterIssue s tid t [a, b]))))) ∧
        (s.cur = some tid → s.thread? tid = some t → t.status = .ready → t.slot?.isSome = true → d ≠ 0#6 → d = r →
          pair = .next (takeTrap tid 0x01 0 s.bundle t.pc s))) ∧
      (∀ d n c, j = .crd d n → r64 n.toNat = some c → ¬ mayRead c t.priv → Issues s tid t [] [r.toNat, d.toNat] 3 → d = 0#6 ∨ d ≠ r →
        pair = .next (takeTrap tid 0x03 0 (BitVec.ofNat 64 n.toNat) t.pc s)) ∧
      (∀ d a, j = .jr d a → (valueOf s t a).toNat % 8 ≠ 0 → Issues s tid t [a] [r.toNat, d.toNat] 3 → d = 0#6 ∨ d ≠ r →
        (t.vlen = 0 → pair = .next (takeTrap tid 0x0C 0 0 t.pc s)) ∧
        (t.vlen ≠ 0 → pair = .next (takeTrap tid 0x04 2 (valueOf s t a) t.pc s))))

/-- R56, R144, R255, R355: a bundle that needs an extension its core lacks moves its thread to the first qualifying core: of its own tile,
with its lane claim and registers, else of the nearest other tile, unless it holds tile resources, stands in a hold, under PFX.N or with
a stream bound; its copy jobs finish first; while no qualifying core has a free slot it parks; otherwise, and above U privilege, it takes
ILLOP. -/
def Obligations.ExtensionMoves : Prop :=
  ∀ (s : State) (tid : Nat) (t : Thread) (i : Instr) (r : BitVec 6) (x : Word) (fl : Flags),
    i.wf = true → gform i t = some (r, x, fl) → s.cur = some tid → s.thread? tid = some t → t.status = .ready → t.slot?.isSome = true →
    (s.core t.pos.coreRef).extid.getLsbD 1 = false → t.lost = [] → t.relaxed = [] →
    let tl := t.pos.tileRef
    let needs := fun (c : CoreRef) => c ≠ t.pos.coreRef ∧ (s.core c).available = true ∧ (s.core c).extid.getLsbD 1 = true
    let illop := exec i s = .next (takeTrap tid 0x01 0 s.bundle t.pc s)
    let leaves := fun (dst : Pos) => ∃ s', exec i s = .next s' ∧ Leaves tid t dst s'
    let off := holdsResources s tid t = false ∧ t.khold = false ∧ (t.pfx.getLsbD 4 && t.pfx.getLsbD 2) = false ∧
      ∀ k, k < 4 → t.streams.toArray.getD k none = none
    let here := ∃ k j, k < 8 ∧ needs ⟨tl.pkg, tl.die, tl.tile, k⟩ ∧ SlotAt s t ⟨tl.pkg, tl.die, tl.tile, k, j⟩
    let places := fun (y : TileRef) => y.pkg = tl.pkg ∧ y.die < 4 ∧ y.tile < 144 ∧ y ≠ tl
    (t.priv ≠ 0 → illop) ∧
    (t.priv = 0 →
      (∀ dst, dst.tileRef = tl → Takes s t needs dst → leaves dst) ∧
      (¬ here → off →
        (∀ dst, places dst.tileRef → tileUsable s dst.tileRef t.part t.launch = true → Takes s t needs dst →
          (∀ y, places y → HasSlot s t needs y → meshSteps tl dst.tileRef < meshSteps tl y ∨
            (meshSteps tl dst.tileRef = meshSteps tl y ∧ dst.die * 144 + dst.tile ≤ y.die * 144 + y.tile)) →
          (jobsPending s tl tid = false → leaves dst) ∧
          (jobsPending s tl tid = true → exec i s = .next (park tid .jobsDone s)))) ∧
      (¬ here → (¬ off ∨ ∀ y, places y → ¬ HasSlot s t needs y) →
        let waits := (∃ k, k < 8 ∧ needs ⟨tl.pkg, tl.die, tl.tile, k⟩) ∨
          (off ∧ ∃ y k, places y ∧ tileUsable s y t.part t.launch = true ∧ k < 8 ∧ needs ⟨y.pkg, y.die, y.tile, k⟩)
        (waits → exec i s = .next (park tid .extmigSlot s)) ∧ (¬ waits → illop)))

/-- R95, R144, R255, R354, R355, R357: an access to peer aperture on a page with MIG set moves its thread to the word's package when every
condition of R354 holds, after its copy jobs are DONE; a second such move within 4 µs suspends the next ones for 64 µs. Any other access
to peer aperture is a round trip, or RAPERM for an indivisible one on a page without RAP; to host aperture a load is a round trip, and a
store is posted. -/
def Obligations.AccessesOffThePackage : Prop :=
  ∀ (s : State) (tid : Nat) (t : Thread) (i : Instr) (f : MemForm) (tg : Target),
    i.wf = true → memForm i (valueOf s t) = some f →
    Issues s tid t f.srcs (if i matches .st .. | .stx .. | .stf .. | .feset _ | .feclr _ then [] else [f.d]) 1 →
    AwayWord s t f tg → (∀ r ∈ f.srcs, r.toNat = 0 ∨ plain r.toNat) → (f.d = 0 ∨ plain f.d) → (t.pfx = 0#5 ∨ t.pfx = 20#5) →
    let now := s.now t.pos.pkg
    let moves := t.pfx = 0#5 ∧ bitAt tg.leaf 6 = true ∧ MayMove s tid t ∧ hosts s tg.pkg t.part = true ∧ t.appt ≤ now
    let slot := memorySlot s t tg.pkg tg.pa false
    (tg.aper = 1 →
      (∀ at_, attachment tg.pkg tg.pa = some at_ → (∀ dst, slot = some dst → BestFor s t at_ dst) ∧
        (slot = none → at_.pkg = tg.pkg → at_.die < 4 → ∀ d k, d < 4 → k < 144 → ¬ HasSlot s t (fun _ => True) ⟨tg.pkg, d, k⟩)) ∧
      (∀ dst, moves → slot = some dst →
        (jobsPending s t.pos.tileRef tid = true → exec i s = .next (park tid .jobsDone s)) ∧
        (jobsPending s t.pos.tileRef tid = false → ∃ s' u, exec i s = .next s' ∧ Leaves tid t dst s' ∧ s'.thread? tid = some u ∧
          u.migT = some (now : Int) ∧
          u.appt = (match t.migT with | some m => if (now : Int) < m + 4000 then now + 64000 else t.appt | none => t.appt))) ∧
      (¬ moves ∨ slot = none →
        (f.ind = true → bitAt tg.leaf 7 = false → exec i s = .next (takeTrap tid 0x07 3 f.ea t.pc s)) ∧
        (f.ind = false ∨ bitAt tg.leaf 7 = true → ∃ s', exec i s = .next s' ∧ AsksAway s tid t f tg s'))) ∧
    (tg.aper = 2 → f.ind = false →
      (f.kind = 0 → ∃ s', exec i s = .next s' ∧ AsksAway s tid t f tg s') ∧
      (f.kind = 1 → ∃ s' u q r, exec i s = .next s' ∧ s'.thread? tid = some u ∧ u.status = .parked ∧ u.wait = some (.reply 0 0) ∧
        u.posted = t.posted + 1 ∧ u.pc = t.pc + 8 ∧ SameG t u [] ∧ SameMem s s' ∧ s'.reqs.get? q = some r ∧ r.acc.pa = tg.ga ∧
        r.host = true ∧ r.posted = true ∧ .event .remoteRequest (.num q) ∈ s'.agenda ∧ .event .memoryReply (.thread tid) ∈ s'.agenda))

/-- R125, R140, R144, R311: a tentative store first appends an undo entry, the word's address with its FE bit, and its old value, and
takes TENTOVF with no effect when the log has no room; the replay of a log leaves in each word that it names the value, and the FE bit, of the
oldest entry that has one, and changes nothing else. (That the store and its entry are written in the turn in which the bundle issues, while
the thread parks, is the model's choice, log 13; the replay is what the model's `replayLog` does, which the kill of R311 calls.) -/
def Obligations.TentativeStoresAndTheirReplay : Prop :=
  (∀ (s : State) (tid : Nat) (t : Thread) (i : Instr) (f : MemForm) (tg : Target) (new : Nat) (fe : Option Bool) (v : Word),
     i.wf = true → (i matches .st .. | .stx .. | .stf ..) → memForm i (valueOf s t) = some f → Issues s tid t f.srcs [] 1 →
     (∀ r ∈ f.srcs, r.toNat = 0 ∨ plain r.toNat) → t.priv = 0 → (t.pfx = 18#5 ∨ (t.pfx = 0#5 ∧ t.tent = true)) → t.wait = none →
     f.ea.toNat % f.bytes = 0 → translate s t f.ea.toNat f.kind = .ok tg → tg.aper = 0 → reachable t tg = true →
     (f.fe = true → leafFE tg.leaf = true) → (f.ind = false → inRange s t.part tg = false) → t.lost = [] → t.relaxed = [] →
     let p := bits t.tlog.toNat 42 32
     let a := devAddr t.pos.pkg (tcmBase t.pos) + p
     let w := tg.ga / 8
     (bits t.tlog.toNat 26 16 < p + 16 → exec i s = .next (takeTrap tid 0x0A 1 f.ea t.pc s)) ∧
     (p + 16 ≤ bits t.tlog.toNat 26 16 → p % 16 = 0 → tableCached s w = false → s.bad tg.ga = false → s.feWaiters = [] → s.lockWaiters = [] →
       w ≠ a / 8 → w ≠ a / 8 + 1 →
       f.effect (memRead s.mem tg.ga f.bytes) (feGet s.fe w) t.crew.id26 = .done (some new) fe v →
       ∃ s' u, exec i s = .next s' ∧ s'.thread? tid = some u ∧ u.pc = t.pc + 8 ∧ SameG t u [0] ∧
         memRead s'.mem a 8 = f.ea.toNat / 8 * 8 + (if leafFE tg.leaf then 2 + (if feGet s.fe w then 1 else 0) else 0) ∧
         memRead s'.mem (a + 8) 8 = memRead s.mem (8 * w) 8 ∧
         bits u.tlog.toNat 42 32 = p + 16 ∧ (∀ j, (j < 32 ∨ 42 < j) → u.tlog.getLsbD j = t.tlog.getLsbD j) ∧
         (∀ b, (b < a ∨ a + 16 ≤ b) → memGet s'.mem b = byteOf s tg.ga f.bytes new b) ∧
         (∀ x, feGet s'.fe x = match fe with | some b => if x = w then b else feGet s.fe x | none => feGet s.fe x) ∧
         (fixedLatency tg = false → u.status = .parked ∧ u.wait = some (.reply 0 0)))) ∧
  (∀ (s : State) (t : Thread) (n : Nat) (ga : Nat → Nat), UndoLog s t n →
     (∀ k, k < n → tableCached s (ga k / 8) = false ∧ (∀ j, j < n → ga k / 8 ≠ undoAt t j / 8 ∧ ga k / 8 ≠ undoAt t j / 8 + 1) ∧
       ∀ σ, σ.tiles = s.tiles → σ.parts = s.parts → σ.pkgs = s.pkgs → ∃ tg, tg.ga = ga k ∧ reachable t tg = true ∧
         translateNow σ t.pos.tileRef (s.cfgOf t).root t.part 0 (undoAddr s t k / 8 * 8) 1 = .ok tg) →
     let s' := replayLog t s
     (∀ b, memGet s'.mem b = match (List.range n).find? (fun k => ga k / 8 == b / 8) with
       | some k => BitVec.ofNat 8 (undoOld s t k / 256 ^ (b % 8))
       | none => memGet s.mem b) ∧
     (∀ w, feGet s'.fe w = match (List.range n).find? (fun k => ga k / 8 == w && bitAt (undoAddr s t k) 1) with
       | some k => bitAt (undoAddr s t k) 0
       | none => feGet s.fe w) ∧
     s'.threads = s.threads ∧ s'.tiles = s.tiles)

namespace Sys2Proof.Slice0
open Sys2Proof Sys2Proof.Machine

/-! ### Launches, tasks, messages, moves -/

/-- Thread `tid`, past its bundle in `m`, waits in `s'` for `w`; each register of `ds` is owed its result (R13), and nothing else of it
has changed. -/
def WaitsFor (tid : Nat) (w : Wait) (ds : List Nat) (m s' : State) : Prop :=
  ∃ u0 u, m.thread? tid = some u0 ∧ s'.thread? tid = some u ∧ u.status = .parked ∧ u.wait = some w ∧
    (∀ d ∈ ds, plain d → u.full d = false) ∧ SameG u0 u ds ∧ SameControl u0 u ∧ SameVector u0 u ∧ u.fctl = u0.fctl ∧ u.pc = u0.pc

/-- No relaxed access is outstanding or lost (R115, R351), no wait stands, no message is held for a register of `ds` (R126). -/
def Free (t : Thread) (ds : List Nat) : Prop :=
  t.relaxed = [] ∧ t.lost = [] ∧ t.wait = none ∧ ∀ e ∈ t.inbox, e.1 = true → e.2.1 ∉ ds

/-- The sources are plain registers. -/
def Plain (srcs : List (BitVec 6)) : Prop := ∀ r ∈ srcs, r.toNat = 0 ∨ plain r.toNat

/-- A refusal: bit 63 and the reason. -/
def refusal (n : Nat) : Word := BitVec.ofNat 64 (2 ^ 63 + n)

/-- R121, R386: the task queue that binding `b` of a thread's launch names: byte `b` of word 4, with a use bit in word 3. -/
def binding (s : State) (t : Thread) (b : Word) : Option TaskQueueRef :=
  match s.launches.get? t.launch with
  | none => none
  | some x =>
    let e := (x.words.getD 4 0).toNat / 256 ^ b.toNat % 256
    if b.toNat < 8 ∧ (x.words.getD 3 0).getLsbD (46 + b.toNat) = true then some ⟨t.start.pkg, e / 64, e % 64⟩ else none

/-- R386: handle field `k` of a packet, and the handle that it stands for on a package. -/
def field (ws : List Word) (k : Nat) : Nat :=
  ((ws.getD 5 0).toNat + 2 ^ 64 * (ws.getD 6 0).toNat + 2 ^ 128 * (ws.getD 7 0).toNat) / 2 ^ (48 * k) % 2 ^ 48
def rebuilt (pkg f : Nat) : Word :=
  if f = 0 then 0 else BitVec.ofNat 64 (pkg * 2 ^ 53 + f / 2 ^ 18 % 2 ^ 24 * 2 ^ 29 + f % 2 ^ 18)

/-- R123 check 4: a malformed ENTRY or a nonzero F<47:42>. -/
def badPacket (ws : List Word) : Prop := (ws.getD 0 0).toNat = 0 ∨ (ws.getD 0 0).toNat % 8 ≠ 0 ∨ ∃ k, k < 4 ∧ field ws k / 2 ^ 42 ≠ 0

/-- R358: the home tile of an endpoint. R68, R127: the position of a COORDR word. -/
def homeOf (e : Nat) : TileRef := ⟨bits e 26 17, bits e 16 15, bits e 14 7⟩
def positionOf (w : Nat) : Pos := ⟨bits w 31 22, bits w 21 20, bits w 19 12, bits w 6 4, bits w 3 0⟩

end Sys2Proof.Slice0

/-- R118, R119, R124, R312, R390: EXIT takes a thread of no join out of the machine, a join's member leaves its join first; LAUNCH hands
the record that its address translates to to the dispatcher and parks; LWAIT gives the completion word, waits, or refuses, and its request for a launch
of another package travels there. That a member keeps its undo log until its home has decided is the model's reading (log 34). -/
def Obligations.ExitLaunchAndLwait : Prop :=
  ∀ (s : State) (tid : Nat) (t : Thread) (d a : BitVec 6),
    (Issues s tid t [] [] 1 → t.relaxed = [] → t.lost = [] →
      (t.join = none → ∃ s', exec .exit s = .next s' ∧ s'.thread? tid = none) ∧
      (∀ j, t.join = some j → ∃ s' u q, exec .exit s = .next s' ∧ s'.thread? tid = some u ∧ u.status = .parked ∧ u.wait = some .answer ∧
        u.khold = false ∧ u.tlog = t.tlog ∧
        s'.keyReqs.get? q = some ⟨tid, t.part, 0, j, .depart⟩ ∧ .event .joinDeparture (.num q) ∈ s'.agenda)) ∧
    (Issues s tid t [a] [d.toNat] 1 → Free t [d.toNat] →
      let m := afterIssue s tid t [a]
      let v := valueOf s t a
      (recordCheck (ctxOf s tid t [a]) s v 2 matches .ok → ∃ s' q, exec (.launch d a) s = .next s' ∧
        WaitsFor tid .answer [d.toNat] m s' ∧ .event .launchCheck (.num q) ∈ s'.agenda ∧
        s'.subs.get? q = some ⟨.thread tid d.toNat, t.pos.pkg, t.part, readRecord m t v 2, none, false⟩) ∧
      (v.toNat % 64 ≠ 0 → exec (.launch d a) s = .next (takeTrap tid 0x04 0 v t.pc s)) ∧
      (Plain [a] →
        let p : PartRef := ⟨bits v.toNat 27 18, t.part⟩
        let known := v.toNat < 2 ^ 32 ∧ bits v.toNat 31 28 = t.part
        (¬ known ∨ (p.pkg = t.pos.pkg ∧ (s.part p).completions.get? v.toNat = none) →
          exec (.lwait d a) s = .next (regWrite tid d.toNat (refusal 1) m)) ∧
        (known → p.pkg ≠ t.pos.pkg → ∃ s' q, exec (.lwait d a) s = .next s' ∧ WaitsFor tid .answer [d.toNat] m s' ∧ SameMem m s' ∧
          s'.keyReqs.get? q = some ⟨tid, t.part, d.toNat, ⟨p.pkg, 0, 0, 0⟩, .lwait v.toNat⟩ ∧ .event .memoryReply (.num q) ∈ s'.agenda) ∧
        (known → p.pkg = t.pos.pkg → (s.part p).completions.get? v.toNat = some none →
          ∃ s', exec (.lwait d a) s = .next s' ∧ WaitsFor tid (.lwait d.toNat v.toNat) [d.toNat] m s' ∧ SameMem m s') ∧
        (∀ w, known → p.pkg = t.pos.pkg → (s.part p).completions.get? v.toNat = some (some w) → (s.part p).held = [] →
          ∃ s', exec (.lwait d a) s = .next (regWrite tid d.toNat w s') ∧ (s'.part p).completions.get? v.toNat = none ∧
            s'.threads = m.threads ∧ SameMem m s')))

/-- R121 to R123, R386, R387: TNEXT delivers the oldest packet of its queue, answers a closed queue or an unused binding, or waits;
TEND ends the task; TPOST pushes a packet, waits for room, or refuses. The package of a binding's queue is the model's reading (log 22). -/
def Obligations.TaskInstructions : Prop :=
  ∀ (s : State) (tid : Nat) (t : Thread) (d a b : BitVec 6),
    (Issues s tid t [a] (d.toNat :: [3, 4, 5, 6]) 1 → Free t (d.toNat :: [3, 4, 5, 6]) → Plain [a] →
      let m := afterIssue s tid t [a]
      let good := d.toNat = 1 ∨ d.toNat = 2 ∨ (7 ≤ d.toNat ∧ d.toNat ≤ 47) ∨ 60 ≤ d.toNat
      (¬ good → exec (.tnext d a) s = .next (takeTrap tid 0x02 0 (BitVec.ofNat 64 d.toNat) t.pc s)) ∧
      (good → t.task = none → binding s t (valueOf s t a) = none → exec (.tnext d a) s = .next (regWrite tid d.toNat allOnes m)) ∧
      (∀ q, good → t.task = none → binding s t (valueOf s t a) = some q →
        (∀ k ks, (s.taskQueue q).packets = k :: ks → (s.taskQueue q).waiters = [] →
          ∃ s' u, exec (.tnext d a) s = .next s' ∧ s'.thread? tid = some u ∧ u.reg d.toNat = k.words.getD 0 0 ∧
            (∀ i ∈ [3, 4, 5, 6], u.reg i = k.words.getD (i - 2) 0) ∧
            (∀ i, i < 4 → u.h.toArray.getD i 0 = rebuilt q.pkg (field k.words i)) ∧ u.task = some k.launch ∧ u.pc = t.pc + 8 ∧
            SameG t u (d.toNat :: [3, 4, 5, 6]) ∧ SameControl t u) ∧
        ((s.taskQueue q).packets = [] → (s.taskQueue q).isOpen = false → exec (.tnext d a) s = .next (regWrite tid d.toNat 0 m)) ∧
        ((s.taskQueue q).packets = [] → (s.taskQueue q).isOpen = true → (s.taskQueue q).posters = [] →
          (∃ e ∈ s.threads, e.1 ≠ tid ∧ bindsQueue s q e.2 = true ∧ ∀ n, e.2.wait ≠ some (.tnext n q)) →
          ∃ s', exec (.tnext d a) s = .next s' ∧ WaitsFor tid (.tnext d.toNat q) (d.toNat :: [3, 4, 5, 6]) m s' ∧
            (s'.taskQueue q).waiters = (s.taskQueue q).waiters ++ [tid]))) ∧
    (Issues s tid t [] [] 1 → Free t [] → ∃ s' u, exec .tend s = .next s' ∧ s'.thread? tid = some u ∧ u.task = none ∧
      (t.task ≠ none → ∀ i, i < 4 → u.h.toArray.getD i 0 = 0) ∧ (t.task = none → u.h = t.h) ∧
      (∀ i, 4 ≤ i → u.h.toArray.getD i 0 = t.h.toArray.getD i 0) ∧ SameG t u [] ∧ SameControl t u ∧ u.pc = t.pc + 8) ∧
    (Issues s tid t [a, b] [d.toNat] 1 → Free t [d.toNat] → Plain [a, b] →
      let m := afterIssue s tid t [a, b]
      let v := valueOf s t b
      let ws := readRecord s t v 1
      (v.toNat % 64 ≠ 0 → exec (.tpost d a b) s = .next (takeTrap tid 0x04 0 v t.pc s)) ∧
      (v.toNat % 64 = 0 → (∀ q, binding s t (valueOf s t a) = some q → (s.taskQueue q).isOpen = false) →
        exec (.tpost d a b) s = .next (regWrite tid d.toNat allOnes m)) ∧
      (∀ q, binding s t (valueOf s t a) = some q → (s.taskQueue q).isOpen = true → recordCheck (ctxOf s tid t [a, b]) s v 1 matches .ok →
        (badPacket ws → exec (.tpost d a b) s = .next (regWrite tid d.toNat (allOnes - 1) m)) ∧
        (¬ badPacket ws → ∀ k, k < 4 → (∀ j, j < k → field ws j = 0 ∨ handleLive s t (rebuilt t.pos.pkg (field ws j)) = true) →
          field ws k ≠ 0 → handleLive s t (rebuilt t.pos.pkg (field ws k)) = false →
          exec (.tpost d a b) s = .next (takeTrap tid 0x0F 0 (rebuilt t.pos.pkg (field ws k)) t.pc s)) ∧
        (¬ badPacket ws → (∀ k, k < 4 → field ws k = 0 ∨ handleLive s t (rebuilt t.pos.pkg (field ws k)) = true) →
          (s.taskQueue q).waiters = [] → (s.taskQueue q).posters = [] →
          ((s.taskQueue q).packets.length < 256 → ∃ s' u, exec (.tpost d a b) s = .next s' ∧ s'.thread? tid = some u ∧ u.pc = t.pc + 8 ∧
            (s'.taskQueue q).packets = (s.taskQueue q).packets ++ [⟨ws, some t.launch⟩] ∧ (plain d.toNat → u.reg d.toNat = 0) ∧
            SameG t u [d.toNat]) ∧
          (256 ≤ (s.taskQueue q).packets.length → ∃ s', exec (.tpost d a b) s = .next s' ∧
            WaitsFor tid (.tpost d.toNat q ws) [d.toNat] m s' ∧ (s'.taskQueue q).packets = (s.taskQueue q).packets))))

/-- R126 to R129, R358: SEND sends its message and parks for a target of its package, or is posted; EPID gives the endpoint of a start
position; MIG leaves for the die that holds a word, has no effect on its own die, takes PERM for a place that holds no memory and may fail;
QBIND binds or unbinds a queue register. How a target is classed that has moved (log 46), and that MIG's failure is tested before its die
(log 33), are the model's choices. -/
def Obligations.MessagesAndMoves : Prop :=
  ∀ (s : State) (tid : Nat) (t : Thread) (r d a b : BitVec 6),
    (Issues s tid t [a, b] [] 1 → t.relaxed = [] → t.lost = [] → Plain [a, b] →
      let m := afterIssue s tid t [a, b]
      let e : BitVec 32 := if (valueOf s t a).toNat < 2 ^ 32 then (valueOf s t a).setWidth 32 else 0
      let at_ := s.learned.getD (t.pos.coreRef, e) (homeOf e.toNat)
      ∃ s' n x, exec (.send r a b) s = .next s' ∧ s'.msgs.get? n = some x ∧ .event .messageDelivery (.num n) ∈ s'.agenda ∧
        x.epid = e ∧ x.reg = r.toNat ∧ x.val = valueOf s t b ∧ x.part = t.part ∧ x.at_ = at_ ∧ x.hops = 0 ∧
        (at_.pkg = t.pos.pkg → WaitsFor tid (.send n) [] m s' ∧ x.sender = some tid ∧ x.posted = none) ∧
        (at_.pkg ≠ t.pos.pkg → x.sender = none ∧ x.posted = some tid ∧ ∃ u, s'.thread? tid = some u ∧ u.posted = t.posted + 1 ∧
          u.status = .ready ∧ SameG t u [])) ∧
    (Issues s tid t [a] [d.toNat] 1 → Plain [a] →
      let w := (valueOf s t a).toNat
      exec (.epid d a) s = .next (regWrite tid d.toNat
        (if bits w 63 32 ≠ 0 ∨ bits w 11 7 ≠ 0 then 0 else match s.launches.get? t.launch with
          | none => 0
          | some x => ((x.eps.find? (fun e => e.1 == positionOf w)).map (fun e => e.2.setWidth 64)).getD 0)
        (afterIssue s tid t [a]))) ∧
    (∀ tg, Issues s tid t [a] [] 1 → t.relaxed = [] → t.lost = [] → Plain [a] → translate s t (valueOf s t a).toNat 0 = .ok tg →
      let stays := tg.aper = 2 ∨ holdsResources s tid t = true ∨ t.khold = true ∨ (∃ x ∈ t.queues.toList, x.isSome = true) ∨
        (∃ x ∈ t.streams.toList, x.isSome = true) ∨ hosts s tg.pkg t.part = false
      (tg.aper ≠ 2 → attachment tg.pkg tg.pa = none → exec (.mig a) s = .next (takeTrap tid 0x06 0 (valueOf s t a) t.pc s)) ∧
      (tg.aper = 2 ∨ attachment tg.pkg tg.pa ≠ none → stays → exec (.mig a) s = .next (takeTrap tid 0x11 0 (valueOf s t a) t.pc s)) ∧
      (∀ at_, ¬ stays → attachment tg.pkg tg.pa = some at_ →
        (at_.dieRef = t.pos.dieRef → exec (.mig a) s = .next (afterIssue s tid t [a])) ∧
        (∀ dst, at_.dieRef ≠ t.pos.dieRef → jobsPending s t.pos.tileRef tid = false →
          memorySlot s t tg.pkg tg.pa (tg.pkg == t.pos.pkg) = some dst →
          ∃ s' u, exec (.mig a) s = .next s' ∧ s'.thread? tid = some u ∧ u.place = .flight t.pos dst ∧ u.pc = t.pc + 8 ∧
            SameG t u [] ∧ SameControl t u ∧ .event .migrationArrival (.thread tid) ∈ s'.agenda))) ∧
    (56 ≤ r.toNat → r.toNat ≤ 59 → Issues s tid t [a, b] [] 1 →
      let q := (valueOf s t a).toNat % 16
      let off := (valueOf s t a).getLsbD 4
      (off = false → (s.hwQueue t.pos.tileRef q).part ≠ some t.part →
        exec (.qbind r a b) s = .next (takeTrap tid 0x06 0 (valueOf s t a) t.pc s)) ∧
      (off = true ∨ (s.hwQueue t.pos.tileRef q).part = some t.part →
        exec (.qbind r a b) s = .next ((afterIssue s tid t [a, b]).updThread tid (fun u => { u with
          queues := u.queues.setIfInBounds (r.toNat - 56) (if off then none
            else some ⟨q, if (valueOf s t b).getLsbD 63 then none else some ((valueOf s t b).toNat % 2 ^ 26)⟩) }))))

namespace Sys2Proof.Slice0
open Sys2Proof Sys2Proof.Machine

/-! ### The copy group -/

/-- R249: the status word of a job. -/
def r249 (j : CopyJob) : Word :=
  let bit := fun (b : Bool) (n : Nat) => if b then 2 ^ n else 0
  BitVec.ofNat 64 ((match j.state with | .queued => 0 | .running => 1 | .done => 2) * 2 ^ 62 + j.err * 2 ^ 48 + bit j.nv 42 + bit j.of 41 +
    bit j.nx 40 + j.count)

/-- R249: the job that an ID names for a thread: of its partition, on its tile, and of the entry's current use. -/
def NamesJob (s : State) (t : Thread) (id : Nat) (j : CopyJob) : Prop :=
  ∃ e, (s.tile t.pos.tileRef).copy.get? (id % 64) = some e ∧ e.seq = id / 64 ∧ e.job = some j ∧ j.part = t.part

/-- The sealed record that a handle names, and the format and alignment codes of R237 that CPY looks at. -/
def record (s : State) (t : Thread) (h : Word) : List Word :=
  (List.range 8).map (fun k => s.rdWord (handleAddr t.pos.pkg t.htab h + 8 * k))

/-- R237, R238, R240: the reason for which TSEAL refuses a record for its contents: checks 4 to 9, in their order. -/
def r240 (r : List Word) : Option Nat :=
  let f := fun (k hi lo : Nat) => bits (r.getD k 0).toNat hi lo
  let sf := f 4 3 0
  let df := f 4 7 4
  let size := fun (k : Nat) => f 0 (16 * k + 15) (16 * k)
  let mx := fun (c : Nat) => decide (2 ≤ c ∧ c ≤ 5)
  let complex := fun (c : Nat) => decide (c = 8 ∨ c = 9 ∨ c = 12)
  let half := fun (c : Nat) => decide (c = 1 ∨ c = 4)
  let aligned := fun (c x : Nat) => asInt 32 x % (if 10 ≤ c then 4 else if 6 ≤ c ∧ c ≤ 8 then 2 else 1) = 0
  if f 4 63 13 ≠ 0 ∨ f 7 63 0 ≠ 0 ∨ (f 4 11 11 = 0 ∧ f 5 63 0 ≠ 0) ∨ (f 4 12 12 = 0 ∧ f 6 63 0 ≠ 0) then some 4
  else if 12 < sf ∨ 12 < df then some 5
  else if complex sf ≠ complex df then some 6
  else if size 0 = 0 ∨ size 1 = 0 ∨ size 2 = 0 ∨ size 3 = 0 ∨ 2 ^ 32 - 1 < size 0 * size 1 * size 2 * size 3 then some 7
  else if ((mx sf || mx df) = true ∧ size 0 % 32 ≠ 0) ∨ ((half sf || half df) = true ∧ size 0 % 2 ≠ 0) then some 8
  else if ¬(aligned sf (f 1 31 0) ∧ aligned sf (f 1 63 32) ∧ aligned sf (f 2 31 0) ∧ aligned df (f 2 63 32) ∧ aligned df (f 3 31 0) ∧
      aligned df (f 3 63 32)) then some 9
  else none
def narrow (r : List Word) : Prop := (copyKind (bits (r.getD 4 0).toNat 7 4)).isMx = true ∨ (copyKind (bits (r.getD 4 0).toNat 7 4)).bits = 4

end Sys2Proof.Slice0

/-- R243, R247, R248, R250: CPY takes HANDLE for a handle that is not live and ALIGN for a misaligned base, refuses a stream job with .F
or a narrow destination format, and otherwise queues its job in a free entry and gives its ID; with every entry busy it parks. -/
def Obligations.CopyJobsAreQueued : Prop :=
  ∀ (s : State) (tid : Nat) (t : Thread) (d a b : BitVec 6) (h : BitVec 3) (f k : BitVec 1),
    Issues s tid t [a, b] [d.toNat] 1 → Free t [d.toNat] → Plain [a, b] →
    let m := afterIssue s tid t [a, b]
    let hv := t.h.toArray.getD h.toNat 0
    let r := record s t hv
    let dst := valueOf s t a
    let src := valueOf s t b
    let tl := t.pos.tileRef
    let here := (s.tile tl).handles.contains (handleAddr t.pos.pkg t.htab hv)
    let bad := dst ≠ 0 ∧ dst.toNat % fmtAlign (bits (r.getD 4 0).toNat 7 4) ≠ 0
    (handleFits t hv = false ∨ (here = true ∧ handleLive s t hv = false) → exec (.cpy d a b h f k) s = .next (takeTrap tid 0x0F 0 hv t.pc s)) ∧
    (handleFits t hv = true → here = false → ∃ s', exec (.cpy d a b h f k) s = .next s' ∧
      .event .handleCacheFill (.threadNum tid (handleAddr t.pos.pkg t.htab hv)) ∈ s'.agenda ∧
      ∃ u, s'.thread? tid = some u ∧ u.status = .parked ∧ u.pc = t.pc) ∧
    (here = true → handleLive s t hv = true →
      (bad → exec (.cpy d a b h f k) s = .next (takeTrap tid 0x04 1 dst t.pc s)) ∧
      (¬ bad → src.toNat % fmtAlign (bits (r.getD 4 0).toNat 3 0) ≠ 0 → exec (.cpy d a b h f k) s = .next (takeTrap tid 0x04 0 src t.pc s)) ∧
      (¬ bad → src.toNat % fmtAlign (bits (r.getD 4 0).toNat 3 0) = 0 →
        (dst = 0 → f = 1#1 → exec (.cpy d a b h f k) s = .next (regWrite tid d.toNat (refusal 2) m)) ∧
        (dst = 0 → f = 0#1 → narrow r → exec (.cpy d a b h f k) s = .next (regWrite tid d.toNat (refusal 1) m)) ∧
        (¬(dst = 0 ∧ (f = 1#1 ∨ narrow r)) →
          ((∃ e, e < 64 ∧ jobAt s tl e = none) → ∃ s' e j, e < 64 ∧ jobAt s tl e = none ∧
            exec (.cpy d a b h f k) s = .next (regWrite tid d.toNat (BitVec.ofNat 64 (((s.tile tl).copy.getD e CopyEntry.init).seq * 64 + e)) s') ∧
            jobAt s' tl e = some j ∧ j.state = .queued ∧ j.tid = tid ∧ j.part = t.part ∧ j.priv = t.priv ∧ j.record = r ∧ j.dst = dst ∧
            j.src = src ∧ j.fill = (f == 1#1) ∧ j.consume = (k == 1#1) ∧ j.stream = (dst == 0) ∧ j.count = 0 ∧ j.err = 0 ∧
            s'.threads = m.threads ∧ SameMem m s' ∧ (∀ x, x ≠ e → jobAt s' tl x = jobAt s tl x) ∧
            .event .copyChunk (.tile tl) ∈ s'.agenda) ∧
          ((∀ e, e < 64 → jobAt s tl e ≠ none) → (∀ x ∈ (s.tile tl).copy, ∀ j, x.2.job = some j → j.state ≠ .done ∨ j.err ≠ 0) →
            exec (.cpy d a b h f k) s = .next (park tid .copyQueue s)))))

/-- R243, R245 to R247, R249, R251, R252: CPW and CPQ give a job's status, RETIRED for an ID that names none, and CPW waits for a job
that has not ended; SBIND binds, unbinds or refuses; HMOV moves; TSEAL writes a table entry and gives its handle, or refuses, with the reason
of the first check that fails: alignment, translation, a soft error, the record's fields, no table or no free entry; TFREE frees it. A record
that a peer holds is read at once: the model's choice (log 65). -/
def Obligations.CopyStatusStreamsAndHandles : Prop :=
  ∀ (s : State) (tid : Nat) (t : Thread) (d a : BitVec 6) (h : BitVec 3) (k : BitVec 2),
    (Issues s tid t [a] [d.toNat] 1 → Free t [d.toNat] → Plain [a] →
      let m := afterIssue s tid t [a]
      let v := valueOf s t a
      let tl := t.pos.tileRef
      ((∀ j, ¬ NamesJob s t v.toNat j) → exec (.cpw d a) s = .next (regWrite tid d.toNat 0xC000000000000000#64 m) ∧
        exec (.cpq d a) s = .next (regWrite tid d.toNat 0xC000000000000000#64 m)) ∧
      (∀ j, NamesJob s t v.toNat j →
        (j.state = .done → ∃ s', exec (.cpw d a) s = .next (regWrite tid d.toNat (r249 j) s') ∧
          exec (.cpq d a) s = .next (regWrite tid d.toNat (r249 j) s') ∧ jobAt s' tl (v.toNat % 64) = none ∧ SameMem m s' ∧
          ∃ u, s'.thread? tid = some u ∧ u.pc = t.pc + 8 ∧ SameG t u []) ∧
        (j.state ≠ .done → exec (.cpq d a) s = .next (regWrite tid d.toNat (r249 j) m) ∧
          ∃ s', exec (.cpw d a) s = .next s' ∧ WaitsFor tid (.job d.toNat v.toNat tl) [d.toNat] m s')) ∧
      (v = 0 → s.feWaiters = [] → s.lockWaiters = [] → ∃ s' u, exec (.sbind d a k) s = .next (regWrite tid d.toNat 0 s') ∧ s'.thread? tid = some u ∧
        u.streams.toArray.getD k.toNat none = none ∧ SameG t u []) ∧
      (v ≠ 0 →
        ((∀ j, NamesJob s t v.toNat j → j.state = .done ∨ j.tid ≠ tid) → exec (.sbind d a k) s = .next (regWrite tid d.toNat 1 m)) ∧
        (∀ j, NamesJob s t v.toNat j → j.state ≠ .done → j.tid = tid →
          (j.stream = false → exec (.sbind d a k) s = .next (regWrite tid d.toNat 2 m)) ∧
          (j.stream = true → j.bound ≠ none → exec (.sbind d a k) s = .next (regWrite tid d.toNat 3 m)) ∧
          (j.stream = true → j.bound = none → t.streams.toArray.getD k.toNat none ≠ none →
            exec (.sbind d a k) s = .next (regWrite tid d.toNat 4 m)) ∧
          (j.stream = true → j.bound = none → t.streams.toArray.getD k.toNat none = none →
            ∃ s' u j', exec (.sbind d a k) s = .next (regWrite tid d.toNat 0 s') ∧ s'.thread? tid = some u ∧
              u.streams.toArray.getD k.toNat none = some ⟨v.toNat % 64, v.toNat / 64, [], false⟩ ∧
              jobAt s' tl (v.toNat % 64) = some j' ∧ j'.bound = some k.toNat ∧ SameG t u []))) ∧
      (handleLive s t v = false → exec (.tfree d a) s = .next (regWrite tid d.toNat 1 m)) ∧
      (∀ e, handleAddr t.pos.pkg t.htab v = 8 * e → handleLive s t v = true → (∀ x ∈ s.lockWaiters, x.word ≠ e + 7) →
        ∃ s', exec (.tfree d a) s = .next s' ∧ WaitsFor tid .drop [d.toNat] m s' ∧
          memRead s'.mem (8 * e + 56) 8 = v.toNat / 2 ^ 29 % 2 ^ 24 ∧
          (∀ x, (x < 8 * e + 56 ∨ 8 * e + 64 ≤ x) → memGet s'.mem x = memGet m.mem x) ∧ s'.fe = m.fe) ∧
      (t.sfuLeft = 0 →
        let x := translateNow m tl (m.cfgOf t).root t.part t.priv v.toNat 0
        let refuses := fun (n : Nat) => ∃ s' u, exec (.tseal d a) s = .next s' ∧ s'.thread? tid = some u ∧
          (plain d.toNat → u.reg d.toNat = refusal n) ∧ SameG t u [d.toNat] ∧ SameMem m s'
        (v.toNat % 64 ≠ 0 → refuses 1) ∧
        (v.toNat % 64 = 0 → (∀ tg, x = .ok tg → reachable t tg = false) → refuses 2) ∧
        (∀ tg, v.toNat % 64 = 0 → x = .ok tg → reachable t tg = true →
          let bad := ∃ n, n < 8 ∧ s.bad (tg.ga + 8 * n) = true
          let r := (List.range 8).map (fun n => s.rdWord (tg.ga + 8 * n))
          let live := fun n => (s.rdWord (devAddr t.pos.pkg (t.htab.toNat + t.pos.die * 0x40000) + n * 64 + 56)).getLsbD 63
          (bad → refuses 3) ∧ (∀ n, ¬ bad → r240 r = some n → refuses n) ∧
          (¬ bad → r240 r = none → bits t.htab.toNat 51 6 = 0 ∨ (∀ n, n < 4096 → live n = true) → refuses 10))) ∧
      (∀ tg i, v.toNat % 64 = 0 → t.sfuLeft = 0 → translateNow m tl (m.cfgOf t).root t.part t.priv v.toNat 0 = .ok tg → reachable t tg = true →
        (∀ n, n < 8 → s.bad (tg.ga + 8 * n) = false) → t.htab.toNat / 64 ≠ 0 → t.htab.toNat < 2 ^ 52 → i < 4096 →
        let r := (List.range 8).map (fun n => s.rdWord (tg.ga + 8 * n))
        let entry := fun n => devAddr t.pos.pkg (t.htab.toNat + t.pos.die * 0x40000) + n * 64
        let live := fun n => (s.rdWord (entry n + 56)).getLsbD 63
        let gen := if (s.rdWord (entry i + 56)).toNat % 2 ^ 24 = 0xFFFFFF then 1 else (s.rdWord (entry i + 56)).toNat % 2 ^ 24 + 1
        r240 r = none → (∀ n, n < i → live n = true) → live i = false → entry i % 8 = 0 →
        (∀ x ∈ s.lockWaiters, x.word < entry i / 8 ∨ entry i / 8 + 8 ≤ x.word) →
        ∃ s' u, exec (.tseal d a) s = .next s' ∧ s'.thread? tid = some u ∧ SameG t u [d.toNat] ∧
          (plain d.toNat → u.reg d.toNat =
            BitVec.ofNat 64 (t.pos.pkg * 2 ^ 53 + gen * 2 ^ 29 + t.part * 2 ^ 14 + t.pos.die * 2 ^ 12 + i)) ∧
          (∀ n, n < 7 → memRead s'.mem (entry i + 8 * n) 8 = (r.getD n 0).toNat) ∧ memRead s'.mem (entry i + 56) 8 = 2 ^ 63 + gen ∧
          (∀ x, (x < entry i ∨ entry i + 64 ≤ x) → memGet s'.mem x = memGet m.mem x))) ∧
    (Issues s tid t [a] [] 1 → exec (.hmovToH a h) s = .next ((afterIssue s tid t [a]).updThread tid (fun u =>
      { u with h := u.h.setIfInBounds h.toNat (valueOf s t a) }))) ∧
    (Issues s tid t [] [d.toNat] 1 → exec (.hmovFromH d h) s = .next (regWrite tid d.toNat (t.h.toArray.getD h.toNat 0) (afterIssue s tid t [])))

namespace Sys2Proof.Slice0
open Sys2Proof Sys2Proof.Machine

/-! ### The matrix engine -/

/-- R258, R279: an operand slot of the issuer's that is not released. R262: an accumulator tile that the issuer's crew may use. R266: room
in the tile's matrix queue. R263: no queued entry names the accumulator tile, and no save runs. -/
def OwnSlot (s : State) (tid : Nat) (t : Thread) (v : Word) : Prop :=
  let x := slotOf s t.pos.tileRef v.toNat
  v.toNat ≤ 23 ∧ x.state ≠ .free ∧ x.owner = tid ∧ x.releasing = false
def Usable (s : State) (t : Thread) (k : Nat) : Prop := (accOf s t.pos.tileRef k).state ≠ .free ∧ (accOf s t.pos.tileRef k).crew = t.crew
def Room (s : State) (tid : Nat) (tl : TileRef) : Prop :=
  tid ∈ (s.tile tl).matReserved ∨ (s.tile tl).matQ.length + (s.tile tl).matReserved.length < 128
def Unlocked (s : State) (tl : TileRef) (k : Nat) : Prop :=
  (∀ e ∈ (s.tile tl).matQ, e.op.usesAcc k = false) ∧ (accOf s tl k).saving = false

/-- R258, R282: an operand of an MMA: loaded, not released, of a thread of the launch on this tile. -/
def Operand (s : State) (t : Thread) (v : Word) : Prop :=
  let x := slotOf s t.pos.tileRef v.toNat
  v.toNat ≤ 23 ∧ x.state = .loaded ∧ x.releasing = false ∧
    ∃ o, s.thread? x.owner = some o ∧ o.launch = t.launch ∧ o.pos.tileRef = t.pos.tileRef

/-- R268: the family of a slot format, and the TYPE of its tiles (F32 0, I32 1, C32 2). -/
def family (f : Nat) : Nat := if f ≤ 1 then 0 else if f ≤ 7 then 1 else if f ≤ 9 then 2 else 3
def typeOf (fam : Nat) : Nat := if fam = 0 then 1 else if fam = 2 then 2 else 0

/-- An entry of the issuer's at the end of the tile's matrix queue. -/
def Enqueued (tid : Nat) (t : Thread) (n : Nat) (op : MatOp) (m s' : State) : Prop :=
  (s'.tile t.pos.tileRef).matQ = (m.tile t.pos.tileRef).matQ ++ [⟨n, tid, t.priv, t.part, op, false, t.launch⟩]

/-- R263, R266: the bundle does not issue, and its thread is offered no passed cycle. -/
def Stalls (i : Instr) (tid : Nat) (t : Thread) (s : State) : Prop :=
  ∃ s' u, exec i s = .next s' ∧ s'.thread? tid = some u ∧ u.notBefore = s.nextOwn t.pos ∧ u.pc = t.pc ∧ u.status = .ready ∧ SameG t u [] ∧ SameMem s s'

/-- R288: the place of element `e` of a slice, the slice's elements, and the bound of its index. -/
def sliceElem (x : AccTile) (row : Bool) (g e : Nat) : Nat := if row then g * x.cols + e else e * x.cols + g
def sliceLength (x : AccTile) (row : Bool) : Nat := if row then x.cols else x.rows
def sliceCount (x : AccTile) (row : Bool) : Nat := if row then x.rows else x.cols

/-- R287: the accumulator moves: whether it reads the tile and whether its slice is a row, the v register, the index, the tile. -/
def r287 : Instr → Option (Bool × Bool × BitVec 5 × BitVec 6 × BitVec 3)
  | .mrdr d g t => some (true, true, d, g, t)
  | .mrdc d g t => some (true, false, d, g, t)
  | .mwrr a g t => some (false, true, a, g, t)
  | .mwrc a g t => some (false, false, a, g, t)
  | _ => none

end Sys2Proof.Slice0

/-- R260, R265, R266, R276 to R285: MSLOT claims the lowest free slot, waits or refuses; MFREE releases; MLDA, MMA, MZERO and MSTA queue
their work, the first two parking; MCFG follows its table; the checks come in the entries' order. -/
def Obligations.MatrixInstructions : Prop :=
  ∀ (s : State) (tid : Nat) (t : Thread) (d a b : BitVec 6) (k h : BitVec 3) (w : BitVec 1),
    let tl := t.pos.tileRef
    let slot := fun n => slotOf s tl n
    let acc := accOf s tl k.toNat
    let hv := t.h.toArray.getD h.toNat 0
    let r := record s t hv
    let live := (s.tile tl).handles.contains (handleAddr t.pos.pkg t.htab hv) = true ∧ handleLive s t hv = true
    let va := valueOf s t a
    let vb := valueOf s t b
    (Issues s tid t [] [d.toNat] 4 → t.wait = none →
      (∀ n, n < 24 → (slot n).state = .free → (∀ x, x < n → (slot x).state ≠ .free) →
        ∃ s', exec (.mslot d w) s = .next (regWrite tid d.toNat (BitVec.ofNat 64 n) s') ∧
          slotOf s' tl n = { OpSlot.init with state := .claimed, owner := tid } ∧ s'.threads = (afterIssue s tid t []).threads) ∧
      ((∀ n, n < 24 → (slot n).state ≠ .free) →
        exec (.mslot d 0#1) s = .next (regWrite tid d.toNat allOnes (afterIssue s tid t [])) ∧
        ∃ s', exec (.mslot d 1#1) s = .next s' ∧ WaitsFor tid .mslot [d.toNat] (afterIssue s tid t []) s' ∧
          (s'.tile tl).mslotWait = (s.tile tl).mslotWait ++ [(tid, d.toNat)])) ∧
    (Issues s tid t [a] [] 4 → Plain [a] →
      (¬ OwnSlot s tid t va → exec (.mfree a) s = .next (takeTrap tid 0x0E 0 va t.pc s)) ∧
      (OwnSlot s tid t va → ∃ s' u, exec (.mfree a) s = .next s' ∧ s'.thread? tid = some u ∧ u.pc = t.pc + 8 ∧
        ((∃ e ∈ (s.tile tl).matQ, e.op.usesSlot va.toNat = true) → (slotOf s' tl va.toNat).releasing = true) ∧
        ((∀ e ∈ (s.tile tl).matQ, e.op.usesSlot va.toNat = false) → (s.tile tl).mslotWait = [] →
          slotOf s' tl va.toNat = OpSlot.init) ∧
        (∀ x rest, (∀ e ∈ (s.tile tl).matQ, e.op.usesSlot va.toNat = false) → (s.tile tl).mslotWait = x :: rest →
          (slotOf s' tl va.toNat).state = .claimed ∧ (slotOf s' tl va.toNat).owner = x.1 ∧ (s'.tile tl).mslotWait = rest))) ∧
    (Issues s tid t [a, b] [d.toNat] 4 → Plain [a, b] →
      (¬ OwnSlot s tid t va → exec (.mlda d a b h) s = .next (takeTrap tid 0x0E 0 va t.pc s)) ∧
      (OwnSlot s tid t va → handleFits t hv = false → exec (.mlda d a b h) s = .next (takeTrap tid 0x0F 0 hv t.pc s)) ∧
      (OwnSlot s tid t va → live → vb.toNat % fmtAlign (bits (r.getD 4 0).toNat 3 0) ≠ 0 →
        exec (.mlda d a b h) s = .next (takeTrap tid 0x04 0 vb t.pc s)) ∧
      (OwnSlot s tid t va → live → vb.toNat % fmtAlign (bits (r.getD 4 0).toNat 3 0) = 0 → Room s tid tl → handleFits t hv = true →
        ∃ s' n, exec (.mlda d a b h) s = .next s' ∧ WaitsFor tid (.matrix n) [d.toNat] (afterIssue s tid t [a, b]) s' ∧
          Enqueued tid t n (.mlda va.toNat vb r d.toNat) (afterIssue s tid t [a, b]) s')) ∧
    (let complex := fun (v : Word) => (slot v.toNat).state = .loaded ∧ ((slot v.toNat).fmt = 8 ∨ (slot v.toNat).fmt = 9)
     Issues s tid t [a, b] [] 4 → (complex va ∨ complex vb → (s.core t.pos.coreRef).extid.getLsbD 4 = true) → Plain [a, b] →
      let fits := family (slot va.toNat).fmt = family (slot vb.toNat).fmt ∧ acc.ty = typeOf (family (slot va.toNat).fmt) ∧
        (w = 1#1 → family (slot va.toNat).fmt = 2)
      (¬ Usable s t k.toNat → exec (.mma a b k w) s = .next (takeTrap tid 0x0D 0 (BitVec.ofNat 64 k.toNat) t.pc s)) ∧
      (Usable s t k.toNat → ¬ Operand s t va → exec (.mma a b k w) s = .next (takeTrap tid 0x0E 0 va t.pc s)) ∧
      (Usable s t k.toNat → Operand s t va → ¬ Operand s t vb → exec (.mma a b k w) s = .next (takeTrap tid 0x0E 0 vb t.pc s)) ∧
      (Usable s t k.toNat → Operand s t va → Operand s t vb → ¬ fits →
        exec (.mma a b k w) s = .next (takeTrap tid 0x0D 0 (BitVec.ofNat 64 k.toNat) t.pc s)) ∧
      (Usable s t k.toNat → Operand s t va → Operand s t vb → fits → Room s tid tl →
        ∃ s' n, exec (.mma a b k w) s = .next s' ∧ WaitsFor tid (.matrix n) [] (afterIssue s tid t [a, b]) s' ∧
          Enqueued tid t n (.mma va.toNat vb.toNat k.toNat (w == 1#1)) (afterIssue s tid t [a, b]) s')) ∧
    (Issues s tid t [] [] 4 →
      (¬ Usable s t k.toNat → exec (.mzero k) s = .next (takeTrap tid 0x0D 0 (BitVec.ofNat 64 k.toNat) t.pc s)) ∧
      (Usable s t k.toNat → ¬ Room s tid tl → Stalls (.mzero k) tid t s) ∧
      (Usable s t k.toNat → Room s tid tl → ∃ s' n, exec (.mzero k) s = .next s' ∧ s'.threads = (afterIssue s tid t []).threads ∧
        Enqueued tid t n (.mzero k.toNat) (afterIssue s tid t []) s')) ∧
    (Issues s tid t [a] [d.toNat] 4 → Plain [a] →
      let align := if bits (r.getD 4 0).toNat 3 0 = 12 ∧ bits (r.getD 4 0).toNat 7 4 = 12 then 8 else fmtAlign (bits (r.getD 4 0).toNat 7 4)
      (¬ Usable s t k.toNat → exec (.msta d a k h) s = .next (takeTrap tid 0x0D 0 (BitVec.ofNat 64 k.toNat) t.pc s)) ∧
      (Usable s t k.toNat → handleFits t hv = true → live → va.toNat % align ≠ 0 →
        exec (.msta d a k h) s = .next (takeTrap tid 0x04 1 va t.pc s)) ∧
      (Usable s t k.toNat → handleFits t hv = true → live → va.toNat % align = 0 → Room s tid tl →
        ∃ s' u n, exec (.msta d a k h) s = .next s' ∧ s'.thread? tid = some u ∧ u.status = .ready ∧ u.pc = t.pc + 8 ∧
          (plain d.toNat → u.full d.toNat = false) ∧ SameG t u [d.toNat] ∧
          Enqueued tid t n (.msta k.toNat va r d.toNat) (afterIssue s tid t [a]) s')) ∧
    (Issues s tid t [a] [d.toNat] 4 → Plain [a] →
      let m := afterIssue s tid t [a]
      let v := va.toNat
      let bad := if v / 2 ^ 63 = 1 then v % 2 ^ 63 ≠ 0
        else v / 64 ≠ 0 ∨ v / 16 % 4 = 3 ∨ v / 4 % 4 = 3 ∨ v % 4 = 3 ∨ (v / 16 % 4 = 2 ∧ v / 4 % 4 = 2)
      let gives := fun (n : Nat) (x : State) => exec (.mcfg d a k) s = .next (regWrite tid d.toNat (BitVec.ofNat 64 n) x)
      (¬ Unlocked s tl k.toNat → Stalls (.mcfg d a k) tid t s) ∧
      (Unlocked s tl k.toNat →
        (bad → gives 2 m) ∧
        (¬ bad → v / 2 ^ 63 = 1 → acc.owner = tid → acc.state = .owned →
          ∃ s', gives 0 s' ∧ (accOf s' tl k.toNat).state = .free ∧ s'.threads = m.threads ∧ SameMem m s') ∧
        (¬ bad → v / 2 ^ 63 = 1 → ¬(acc.owner = tid ∧ acc.state = .owned) → gives 3 m) ∧
        (¬ bad → v / 2 ^ 63 = 0 →
          (acc.state = .free ∨ acc.crew = t.crew → ∃ s', gives 0 s' ∧ s'.threads = m.threads ∧ SameMem m s' ∧
            let x := accOf s' tl k.toNat
            x.state = .owned ∧ x.owner = tid ∧ x.crew = t.crew ∧ x.rows = 16 * 2 ^ (v % 4) ∧ x.cols = 16 * 2 ^ (v / 4 % 4) ∧
              x.ty = v / 16 % 4 ∧ x.data.length = x.rows * x.cols ∧ ∀ e ∈ x.data, e = 0) ∧
          (acc.state = .owned → acc.crew ≠ t.crew → gives 1 m) ∧
          (acc.state = .away → acc.crew ≠ t.crew → ∃ s', exec (.mcfg d a k) s = .next s' ∧
            WaitsFor tid (.lazySave k.toNat d.toNat v) [d.toNat] m s' ∧ (accOf s' tl k.toNat).saving = true))))

/-- R263, R276, R287, R288: the accumulator moves take VNOCLAIM, then ACCUNCFG, wait on a locked tile, and move a slice lane by lane; an
index out of range reads zeros and writes nothing. -/
def Obligations.AccumulatorMoves : Prop :=
  ∀ (s : State) (tid : Nat) (t : Thread) (i : Instr) (reads row : Bool) (v : BitVec 5) (g : BitVec 6) (k : BitVec 3),
    r287 i = some (reads, row, v, g, k) → Issues s tid t [g] [] 6 → Plain [g] →
    let tl := t.pos.tileRef
    let x := accOf s tl k.toNat
    let n := (valueOf s t g).toNat
    let m := afterIssue s tid t [g]
    (t.vlen = 0 → exec i s = .next (takeTrap tid 0x0C 0 0 t.pc s)) ∧
    (t.vlen ≠ 0 → ¬ Usable s t k.toNat → exec i s = .next (takeTrap tid 0x0D 0 (BitVec.ofNat 64 k.toNat) t.pc s)) ∧
    (t.vlen ≠ 0 → Usable s t k.toNat → ¬ Unlocked s tl k.toNat → Stalls i tid t s) ∧
    (t.vlen ≠ 0 → Usable s t k.toNat → Unlocked s tl k.toNat →
      (reads = true → ∃ ls : List Lane, ls.length = t.vlen ∧ exec i s = .next (putV tid v ls m) ∧
        ∀ l, l < t.vlen → (ls.getD l 0).toNat =
          if n < sliceCount x row ∧ l < sliceLength x row * (if x.ty = 2 then 2 else 1) then
            (if x.ty = 2 then x.data.getD (sliceElem x row n (l / 2)) 0 / 2 ^ (32 * (l % 2)) % 2 ^ 32
             else x.data.getD (sliceElem x row n l) 0 % 2 ^ 32)
          else 0) ∧
      (reads = false → ∃ s' y, exec i s = .next s' ∧ accOf s' tl k.toNat = y ∧ s'.threads = m.threads ∧ SameMem m s' ∧
        y.data.length = x.data.length ∧ y.rows = x.rows ∧ y.cols = x.cols ∧ y.ty = x.ty ∧ y.state = x.state ∧
        (∀ e, n < sliceCount x row → e < sliceLength x row → sliceElem x row n e < x.data.length →
          (x.ty = 2 → 2 * e + 1 < t.vlen → y.data.getD (sliceElem x row n e) 0 = lane t v (2 * e) + 2 ^ 32 * lane t v (2 * e + 1)) ∧
          (x.ty ≠ 2 → e < t.vlen → y.data.getD (sliceElem x row n e) 0 = lane t v e)) ∧
        (∀ p, (∀ e, n < sliceCount x row → e < sliceLength x row → (if x.ty = 2 then 2 * e + 1 else e) < t.vlen → p ≠ sliceElem x row n e) →
          y.data.getD p 0 = x.data.getD p 0)))

namespace Sys2Proof.Slice0
open Sys2Proof Sys2Proof.Machine

/-! ### Keystone, Truss, collective groups -/

/-- R292: the join that a handle names; a handle with a nonzero upper half names none. -/
def joinOf (v : Nat) : JoinRef := ⟨bits v 31 22, bits v 21 20, bits v 19 12, if v < 2 ^ 32 then v % 2 ^ 12 else 0⟩

/-- A request to a join's home (R303, R305 to R309): its register, its handle, what it asks, and the event of its arrival there. -/
def joinRequest : Instr → Option (BitVec 6 × BitVec 6 × KeyOp × Instr)
  | .jbind d a t => some (d, a, .bind (t == 1#1), .joinBindRequest)
  | .jwait d a k => some (d, a, .wait (k == 1#1), .joinWaitRequest)
  | .jclose d a => some (d, a, .close, .joinCloseRequest)
  | .jqry d a => some (d, a, .query, .joinQuery)
  | _ => none

/-- The thread waits for the home's answer to a request that is on its way. -/
def Asked (tid : Nat) (t : Thread) (d : Nat) (j : JoinRef) (op : KeyOp) (ev : Instr) (m s' : State) : Prop :=
  ∃ q, WaitsFor tid .answer [d] m s' ∧ s'.keyReqs.get? q = some ⟨tid, t.part, d, j, op⟩ ∧ .event ev (.num q) ∈ s'.agenda

/-- R298: element `e` of a contribution from a g register, and from a v register. -/
def fromG (ty : Nat) (v : Word) (e : Nat) : Nat :=
  if ty = 2 then (if e = 0 then v.toNat else 0) else if e = 0 then v.toNat % 2 ^ 32 else if e = 1 then v.toNat / 2 ^ 32 else 0
def fromV (t : Thread) (ty : Nat) (r : BitVec 5) (e : Nat) : Nat :=
  let at_ := fun l => if l < t.vlen then lane t r l else 0
  if ty = 2 then at_ (2 * e) + 2 ^ 32 * at_ (2 * e + 1) else at_ e

/-- A count of SHST (R342). -/
def count16 (n : Nat) : Nat := if n < 65535 then n else 65535

end Sys2Proof.Slice0

/-- R298, R302 to R309: JBIND, JWAIT, JCLOSE and JQRY send their request to the join's home and park; JARR sends its contribution and
weight to the home of its membership, is refused without one, and takes VNOCLAIM for lanes without a claim.
R292 to R294, R304: JOPEN opens a join of the lowest free slot of its die as its descriptor says, with its result words empty, and
gives its handle; a misaligned or unreadable descriptor, reserved bits, a bad quorum, weight or length and a full die are refused with
their reasons; a descriptor or substitute on another package is a round trip there first. -/
def Obligations.JoinInstructions : Prop :=
  (∀ (s : State) (tid : Nat) (t : Thread) (d a b : BitVec 6) (w : BitVec 1),
     (∀ i op ev, joinRequest i = some (d, a, op, ev) → Issues s tid t [a] [d.toNat] 1 →
       ∃ s', exec i s = .next s' ∧ Asked tid t d.toNat (joinOf (valueOf s t a).toNat) op ev (afterIssue s tid t [a]) s') ∧
     (let srcs := if w = 1#1 then [b] else [a, b]
      Issues s tid t srcs [d.toNat] 1 → t.relaxed = [] → t.lost = [] →
       let m := afterIssue s tid t srcs
       (w = 1#1 → t.vlen = 0 → exec (.jarr d a b w) s = .next (takeTrap tid 0x0C 0 0 t.pc s)) ∧
       (w = 0#1 ∨ t.vlen ≠ 0 →
         (t.join = none → exec (.jarr d a b w) s = .next (regWrite tid d.toNat (refusal 6) m)) ∧
         (∀ j, t.join = some j → ∃ s' xs, exec (.jarr d a b w) s = .next s' ∧
           (let x := m.join ⟨j.pkg, j.die⟩ j.slot
            let n := (valueOf s t b).toNat % 65536
            xs.length = x.len ∧
            (∀ e, e < x.len → xs.getD e 0 = if w = 1#1 then fromV t x.ty (a.setWidth 5) e else fromG x.ty (valueOf s t a) e) ∧
            Asked tid t d.toNat j (.arrive xs (if n = 0 then 1 else n)) .joinArrival m s'))))) ∧
  (∀ (s : State) (tid : Nat) (t : Thread) (d a : BitVec 6), Issues s tid t [a] [d.toNat] 1 → Free t [d.toNat] → Plain [a] → plain d.toNat →
     t.sfuLeft = 0 →
     let m := afterIssue s tid t [a]
     let v := (valueOf s t a).toNat
     let gives := fun (w : Word) (s' : State) => exec (.jopen d a) s = .next s' ∧ ∃ u, s'.thread? tid = some u ∧ u.reg d.toNat = w ∧
       u.full d.toNat = true ∧ u.status = .waking ∧ u.pc = t.pc + 8 ∧ SameG t u [d.toNat]
     (v % 8 ≠ 0 → ∃ s', gives (refusal 16) s' ∧ SameMem m s') ∧
     (∀ p rest, v % 8 = 0 → openPeers m t (valueOf s t a) = p :: rest → ∃ s', exec (.jopen d a) s = .next s' ∧
       Asked tid t d.toNat ⟨p, 0, 0, 0⟩ (.openAt (valueOf s t a)) .memoryReply m s') ∧
     (v % 8 = 0 → openPeers m t (valueOf s t a) = [] →
       (∃ k, k < 4 ∧ readThrough m t ((v + 8 * k) % 2 ^ 64) = none) → ∃ s', gives (refusal 17) s' ∧ SameMem m s') ∧
     (∀ d0 d1 res d3 : Word, v % 8 = 0 →
       openPeers m t (valueOf s t a) = [] → readThrough m t v = some d0 → readThrough m t ((v + 8) % 2 ^ 64) = some d1 → readThrough m t ((v + 16) % 2 ^ 64) = some res →
       readThrough m t ((v + 24) % 2 ^ 64) = some d3 → (∀ k, k < 4 → badThrough m t ((v + 8 * k) % 2 ^ 64) = false) →
       let n := d0.toNat % 65536
       let kf := d0.toNat / 65536 % 65536
       let wtot := d0.toNat / 2 ^ 32
       let len := d1.toNat % 256
       let ty := d1.toNat / 256 % 4
       let fill := d1.toNat / 1024 % 4
       let frac := d1.getLsbD 12
       let q := if frac then max 1 ((kf * n + 65535) / 65536) else kf
       let words := (len * (if ty = 2 then 8 else 4) + 7) / 8
       let bad19 := d1.toNat / 2 ^ 13 ≠ 0 ∨ d3 ≠ 0
       let bad20 := n = 0 ∨ kf = 0 ∨ (frac = false ∧ n < kf)
       let bad21 := wtot = 0 ∨ n * 65535 < wtot
       let bad22 := len = 0 ∨ 64 < len ∨ (fill = 3 ∧ q ≠ 1)
       (bad19 → ∃ s', gives (refusal 19) s' ∧ SameMem m s') ∧
       (¬ bad19 → bad20 → ∃ s', gives (refusal 20) s' ∧ SameMem m s') ∧
       (¬ bad19 → ¬ bad20 → bad21 → ∃ s', gives (refusal 21) s' ∧ SameMem m s') ∧
       (¬ bad19 → ¬ bad20 → ¬ bad21 → bad22 → ∃ s', gives (refusal 22) s' ∧ SameMem m s') ∧
       (¬ bad19 → ¬ bad20 → ¬ bad21 → ¬ bad22 → res.toNat % 8 ≠ 0 → ∃ s', gives (refusal 23) s' ∧ SameMem m s') ∧
       (∀ area : Nat → Nat, ¬ bad19 → ¬ bad20 → ¬ bad21 → ¬ bad22 → res.toNat % 8 = 0 → fill ≠ 2 →
         (∀ k, k < words → resultWord m t ((res.toNat + 8 * k) % 2 ^ 64) = some (area k)) →
         let home : DieRef := ⟨t.pos.pkg, t.pos.die⟩
         ((∀ k, k < 256 → (s.join home k).state ≠ .free) → ∃ s', gives (refusal 25) s' ∧ SameMem m s') ∧
         (∀ k, k < 256 → (s.join home k).state = .free → (∀ x, x < k → (s.join home x).state ≠ .free) →
           let gen := if (s.join home k).gen = 4095 then 1 else (s.join home k).gen + 1
           ∃ s', gives (BitVec.ofNat 64 (t.pos.pkg * 2 ^ 22 + t.pos.die * 2 ^ 20 + k * 2 ^ 12 + gen)) s' ∧
             (let x := s'.join home k
              x.state = .opened ∧ x.gen = gen ∧ x.part = t.part ∧ x.n = n ∧ x.k = q ∧ x.wtot = wtot ∧ x.ty = ty ∧ x.len = len ∧
                x.fill = fill ∧ x.arrived = 0 ∧ x.warr = 0 ∧ x.bound = [] ∧ x.killed = [] ∧ x.close = false ∧
                x.acc = List.replicate len (if ty = 3 then 1 else 0)) ∧
             (∀ i, i < words → feGet s'.fe (area i / 8) = false) ∧ (∀ p, memGet s'.mem p = memGet m.mem p)))))

/-- R341 to R344, R362, R369 to R372: SHRD reads the counts of the crew, of its tile and of its partition, SHCAP, WEDGE and WCLR set the crew's cap and target and give the old one;
COPEN binds a group register or refuses, at the group's root router, to which a request goes when it is on another package or has no
route (log 49), CCLOSE and CWAIT refuse an unbound register, answer once the rounds are complete, or wait. -/
def Obligations.TrussAndCollectiveInstructions : Prop :=
  ∀ (s : State) (tid : Nat) (t : Thread) (d a b : BitVec 6) (k : BitVec 2),
    (Issues s tid t [a] [d.toNat] 1 →
      let m := afterIssue s tid t [a]
      let v := valueOf s t a
      let gives := fun (i : Instr) (w : Word) (x : State) => exec i s = .next (regWrite tid d.toNat w x)
      (∀ x, v = 0 → m.crew? t.crew = some x → gives (.shrd d a) (BitVec.ofNat 64 (count16 x.own * 2 ^ 48 +
        count16 ((m.loans.filter (fun l => l.owner != t.crew && l.at_ != .flight && l.at_ != .toPool && l.trail.contains t.crew)).map (·.amount)).sum * 2 ^ 32 +
        count16 ((m.loans.filter (fun l => l.owner == t.crew)).map (·.amount)).sum * 2 ^ 16)) m) ∧
      (v = 1 → ∃ w, gives (.shrd d a) w m ∧ w.toNat % 2 ^ 16 = (crewsOn m t.crew.tileRef).length % 2 ^ 16 ∧
        (let tl := t.crew.tileRef
         let field := fun (hi lo : Nat) => bits w.toNat hi lo
         let states := (m.part ⟨t.pos.pkg, t.part⟩).vstates
         let capped := fun (n : Nat) => ∃ e ∈ crewsOn m tl, e.2.cap = some n
         let parked := m.loans.filter (fun l => l.at_ == .pool && (match l.target with | .crew c => c.tileRef == tl | .span _ => false))
         (crewsOn m tl).length < 2 ^ 16 → (∀ e ∈ m.crews, ∀ n, e.2.cap = some n → n < 16) →
           field 63 48 = count16 (held m tl) ∧ field 38 32 = 0 ∧ field 31 16 = count16 ((parked.map (·.amount)).sum) ∧
           ((m.tile tl).point = none → field 47 44 = 0) ∧
           (∀ q n, (m.tile tl).point = some q → n < 16 → states.getD n 15 ≤ q → (∀ k, n < k → k < 16 → q < states.getD k 15) →
             field 47 44 = n) ∧
           ((∀ n, ¬ capped n) → field 43 39 = 0) ∧
           (∀ n, capped n → (∀ k, k < n → ¬ capped k) → field 43 40 = n ∧ field 39 39 = 1))) ∧
      (v = 2 → ∃ w, gives (.shrd d a) w m ∧ bits w.toNat 63 48 = count16 (m.part ⟨t.pos.pkg, t.part⟩).allot ∧
        bits w.toNat 47 32 = (if (m.part ⟨t.pos.pkg, t.part⟩).debt = 0 then count16 (m.part ⟨t.pos.pkg, t.part⟩).pool else 0) ∧
        bits w.toNat 31 16 = count16 (((m.part ⟨t.pos.pkg, t.part⟩).slackOut.map (·.2)).sum) ∧
        (let mine := (busyTiles m t.pos.pkg).filter (fun tl => (crewsOn m tl).any (fun e => e.2.part == t.part))
         bits w.toNat 15 0 = count16 ((mine.map (fun tl => (((m.tile tl).slackIn.filter (fun e => e.1 != t.part)).map (·.2)).sum)).sum))) ∧
      (2 < v.toNat → gives (.shrd d a) allOnes m) ∧
      (∀ x, m.crew? t.crew = some x →
        let old : Word := match x.cap with
          | some n => BitVec.ofNat 64 n
          | none => BitVec.ofNat 64 (2 ^ 63)
        (v.toNat < 16 ∨ v.toNat = 2 ^ 63 → ∃ s' y, gives (.shcap d a) old s' ∧ s'.crew? t.crew = some y ∧
          y.cap = if v.toNat < 16 then some v.toNat else none) ∧
        (16 ≤ v.toNat → v.toNat ≠ 2 ^ 63 → gives (.shcap d a) allOnes m) ∧
        (let good := bits v.toNat 63 62 ≠ 3 ∧ bits v.toNat 61 26 = 0 ∧ (bits v.toNat 63 62 = 0 ∨ bits v.toNat 25 0 = 0)
         (good → gives (.wedge d a) x.wedge (m.updCrew t.crew (fun x => { x with wedge := v }))) ∧
         (¬ good → gives (.wedge d a) allOnes m)))) ∧
    (Issues s tid t [] [d.toNat] 1 → ∀ x, s.crew? t.crew = some x → exec (.wclr d) s = .next (regWrite tid d.toNat x.wedge
      ((afterIssue s tid t []).updCrew t.crew (fun x => { x with wedge := BitVec.ofNat 64 (2 ^ 63) })))) ∧
    (Issues s tid t [a, b] [d.toNat] 1 → Free t [d.toNat] → Plain [a, b] → plain d.toNat → t.sfuLeft = 0 →
      let m := afterIssue s tid t [a, b]
      let g := (valueOf s t a).toNat
      let w := (valueOf s t b).toNat
      let gives := fun (n : Word) (s' : State) (u : Thread) => exec (.copen d a b k) s = .next s' ∧ s'.thread? tid = some u ∧
        u.reg d.toNat = n ∧ u.full d.toNat = true ∧ u.pc = t.pc + 8 ∧ SameG t u [d.toNat] ∧ SameMem m s'
      let unbound := t.groups.toArray.getD k.toNat none = none
      let near := m.rootPkg t.launch t.pos.pkg = t.pos.pkg ∧ copenRouted m t (valueOf s t b) = true
      (¬ near → ∃ s', exec (.copen d a b k) s = .next s' ∧
        Asked tid t d.toNat ⟨m.rootPkg t.launch t.pos.pkg, 0, 0, 0⟩ (.group k.toNat (valueOf s t a) (valueOf s t b)) .memoryReply m s') ∧
      (near → ¬ unbound → ∃ s' u, gives (refusal 5) s' u ∧ u.groups = t.groups) ∧
      (near → unbound → 64 ≤ g ∨ bits w 63 62 = 3 ∨ 7 ≤ bits w 61 58 ∨ bits w 55 52 ≠ 0 ∨ bits w 11 0 ≠ 0 →
        ∃ s' u, gives (refusal 2) s' u ∧ u.groups = t.groups) ∧
      (∀ x leaves, near → unbound → badControl g w = false → bits w 63 62 = 0 → s.launches.get? t.launch = some x → treeLeaves x g = some leaves →
        (t.start ∉ leaves → ∃ s' u, gives (refusal 3) s' u ∧ u.groups = t.groups) ∧
        (t.start ∈ leaves → (∀ y, s.group? t.part g = some y → y.isOpen = false) → x.pkgs.length ≤ 1 →
          ∃ s' u y, gives 0 s' u ∧ u.groups.toArray.getD k.toNat none = some ⟨g, 0, 0, []⟩ ∧ s'.group? t.part g = some y ∧
            y.isOpen = true ∧ y.op = bits w 61 58 ∧ y.ty = bits w 57 56 ∧ y.leaves = leaves ∧ y.bound = [(t.start, tid, k.toNat)]))) ∧
    (Issues s tid t [] [d.toNat] 1 →
      let m := afterIssue s tid t []
      let bound := t.groups.toArray.getD k.toNat none
      (bound = none → exec (.cclose d k) s = .next (regWrite tid d.toNat (refusal 8) m) ∧
        exec (.cwait d k) s = .next (regWrite tid d.toNat (refusal 8) m)) ∧
      (∀ x, bound = some x →
        (x.sent ≤ x.got → exec (.cwait d k) s = .next (regWrite tid d.toNat (BitVec.ofNat 64 x.results.length) m) ∧
          ∃ s' u, exec (.cclose d k) s = .next (regWrite tid d.toNat 0 s') ∧ s'.thread? tid = some u ∧
            u.groups.toArray.getD k.toNat none = none ∧ SameG t u []) ∧
        (x.got < x.sent →
          (∃ s', exec (.cwait d k) s = .next s' ∧ WaitsFor tid (.cwait d.toNat k.toNat) [d.toNat] m s') ∧
          ∃ s', exec (.cclose d k) s = .next s' ∧ WaitsFor tid (.cclose d.toNat k.toNat) [d.toNat] m s')))

namespace Sys2Proof.Slice0
open Sys2Proof Sys2Proof.Machine

/-! ### Events -/

/-- The state in which the event of a turn acts on `o` (log 2). -/
def on (s : State) (o : Obj) : State := { s with obj := o }

/-- Registers, control, vector state, pc of a thread are as before. -/
def Same (t u : Thread) : Prop := SameG t u [] ∧ SameControl t u ∧ SameVector t u ∧ u.fctl = t.fctl ∧ u.pc = t.pc

/-- A resident thread waits for `w`, and its bundle for nothing else; a message is held for gd no longer (R61, R126, R217). -/
def Waits (s : State) (tid : Nat) (t : Thread) (d : Nat) (w : Wait) : Prop :=
  s.thread? tid = some t ∧ t.slot?.isSome = true ∧ t.status = .parked ∧ t.wait = some w ∧ t.sfuLeft = 0 ∧ plain d ∧
    ∀ e ∈ t.inbox, e.1 = true → e.2.1 ≠ d

/-- The thread has got `v` in gd and is about to go on (R61). -/
def Answered (s' : State) (tid : Nat) (t : Thread) (d : Nat) (v : Word) : Prop :=
  ∃ u, s'.thread? tid = some u ∧ u.reg d = v ∧ u.full d = true ∧ u.status = .waking ∧ u.pc = t.pc ∧ SameG t u [d]

/-- The event named in the agenda of turns to come. -/
def Posted (s' : State) (i : Instr) (o : Obj) : Prop := .event i o ∈ s'.agenda

/-- The tile at which a thread is found: one in flight is at the stub of the tile that it has left (R359). -/
def standsAt : Place → TileRef
  | .slot p => ⟨p.pkg, p.die, p.tile⟩
  | .image home _ => home
  | .flight src _ => ⟨src.pkg, src.die, src.tile⟩

/-- R359: the newest stub of an endpoint at a tile whose time has not run out. -/
def liveStub (s : State) (tl : TileRef) (e : BitVec 32) : Option Stub :=
  ((s.tile tl).stubs.filter (fun x => x.epid = e ∧ s.now tl.pkg < x.until_)).getLast?

/-- R146: a thread that has entered the firmware for a hypercall. -/
def hypercall (t : Thread) : Prop := t.priv = 2 ∧ bits t.ecause.toNat 7 0 = 0x20

end Sys2Proof.Slice0

/-- R43, R60, R61, R128, R129, R143, R146, R147, R217, R251, R310, R311, R314, R350, R355 to R357, R359, R360, R362: the events of one thread:
what each does to it, and that one whose condition does not hold changes nothing. Which unit raises an event and how a moved member's
contribution travels are logs 2 and 49; where a hypercall's answer is written is log 16. -/
def Obligations.ThreadEvents : Prop :=
  ∀ (s : State) (tid : Nat) (t : Thread), memWf s.mem = true → s.thread? tid = some t →
    let me := Obj.thread tid
    let part := s.part ⟨t.pos.pkg, t.part⟩
    let now := s.now t.pos.pkg
    -- the special registers (R43, R251, R362)
    (∀ r b, 48 ≤ r → r ≤ 51 → t.streams.toArray.getD (r - 48) none = some b →
      ∃ s' u, exec .streamRegisterRead (on s (.threadNum tid r)) = .next s' ∧ s'.thread? tid = some u ∧ Same t u ∧
        u.streams.toArray.getD (r - 48) none = if b.fifo.tail = [] ∧ b.ended = true then none else some { b with fifo := b.fifo.tail }) ∧
    (∀ r b, 52 ≤ r → r ≤ 55 → t.groups.toArray.getD (r - 52) none = some b →
      (∃ s' u, exec .groupResultRead (on s (.threadNum tid r)) = .next s' ∧ s'.thread? tid = some u ∧ Same t u ∧
        u.groups.toArray.getD (r - 52) none = some { b with results := b.results.tail }) ∧
      let near := t.pos.pkg = t.start.pkg ∧ routed s t.start.pkg t.part t.launch (s.rootPkg t.launch t.start.pkg) = true
      (∀ v, ¬ near → ∃ s' u, exec .groupContribute (on s (.threadReg tid r v)) = .next s' ∧ s'.thread? tid = some u ∧
        Same t u ∧ u.groups.toArray.getD (r - 52) none = some { b with sent := b.sent + 1 } ∧
        s'.contribs.get? s.fresh = some ⟨t.part, b.group, b.sent, t.start, v, t.pos.pkg, t.launch, false⟩ ∧
        Posted s' .groupContribute (.num s.fresh)) ∧
      (∀ g v, near → g.first ≤ b.sent → s.group? t.part b.group = some g →
        ∃ s' u y, exec .groupContribute (on s (.threadReg tid r v)) = .next s' ∧ s'.thread? tid = some u ∧ Same t u ∧
          u.groups.toArray.getD (r - 52) none = some { b with sent := b.sent + 1 } ∧ s'.group? t.part b.group = some y ∧
          y.rounds = addGiven g.rounds (b.sent - g.first) (t.start, v))) ∧
    (∀ r b v, 56 ≤ r → r ≤ 59 → t.queues.toArray.getD (r - 56) none = some b →
      let items := (s.hwQueue t.pos.tileRef b.queue).items
      ((∀ e ∈ s.threads, queueWaiters t.pos.tileRef b.queue true e.2 = false) →
        ∃ s', exec .queuePop (on s (.threadNum tid r)) = .next s' ∧ (s'.hwQueue t.pos.tileRef b.queue).items = items.tail ∧ SameMem s s') ∧
      (items.length < 64 → ∃ s', exec .queuePush (on s (.threadReg tid r v)) = .next s' ∧
        (s'.hwQueue t.pos.tileRef b.queue).items = items ++ [v] ∧ SameMem s s') ∧
      (64 ≤ items.length → exec .queuePush (on s (.threadReg tid r v)) = .next (on s (.threadReg tid r v)))) ∧
    -- a contribution and a result on their way (R350, R360, R362)
    (∀ q x, s.contribs.get? q = some x →
      let ev := exec .groupContribute (on s (.num q))
      let toLeaf := routed s x.from_ x.part x.launch x.leaf.pkg
      let toRoot := routed s x.leaf.pkg x.part x.launch (s.rootPkg x.launch x.leaf.pkg)
      (x.down = false → toLeaf = false → ev = .next (on s (.num q))) ∧
      (x.down = false → toLeaf = true → toRoot = false →
        ev = .next { on s (.num q) with contribs := s.contribs.upd q (fun y => { y with from_ := x.leaf.pkg }) }) ∧
      (∀ g, x.down = false → toLeaf = true → toRoot = true → s.group? x.part x.group = some g → g.first ≤ x.round → ∃ s' y, ev = .next s' ∧
        s'.contribs.get? q = none ∧ s'.group? x.part x.group = some y ∧ y.rounds = addGiven g.rounds (x.round - g.first) (x.leaf, x.val)) ∧
      (∀ g, x.down = true → s.group? x.part x.group = some g → (∀ e ∈ g.bound, e.1 ≠ x.leaf) → ∃ s', ev = .next s' ∧ s'.contribs.get? q = none ∧
        s'.threads = s.threads) ∧
      (∀ g m k u b, x.down = true → s.group? x.part x.group = some g → g.bound.find? (fun e => e.1 == x.leaf) = some (x.leaf, m, k) →
        s.thread? m = some u → u.groups.toArray.getD k none = some b →
        (b.got < x.round ∨ (x.round = b.got ∧ toLeaf = false) → ev = .next (on s (.num q))) ∧
        (x.round < b.got → ∃ s', ev = .next s' ∧ s'.contribs.get? q = none ∧ s'.threads = s.threads) ∧
        (x.round = b.got → toLeaf = true → u.wait = none → ∃ s' y, ev = .next s' ∧ s'.contribs.get? q = none ∧ s'.thread? m = some y ∧
          y.groups.toArray.getD k none = some { b with got := b.got + 1, results := b.results ++ [x.val] }))) ∧
    -- the end of ENTRY (R143, R217), and a hypercall there (R146)
    (t.status = .entry → t.wait.isSome = true ∨ t.sfuLeft ≠ 0 → ∃ s' u, exec .entryEnd (on s me) = .next s' ∧ s'.thread? tid = some u ∧
      u.status = .parked ∧ u.wait = (match t.wait with
        | some w => some w
        | none => some .sfu) ∧ Same t u ∧ SameMem s s' ∧ (t.kill = .held → Posted s' .killTaken me)) ∧
    (t.status = .entry → t.wait = none → t.sfuLeft = 0 →
      (¬ hypercall t → t.savedVlen = 0 → ∃ s' u, exec .entryEnd (on s me) = .next s' ∧ s'.thread? tid = some u ∧
        u.status = .ready ∧ u.notBefore = s.nextOwn t.pos ∧ Same t u ∧ SameMem s s' ∧ (t.kill = .held → Posted s' .killTaken me)) ∧
      (hypercall t → bits t.estat.toNat 1 0 = 1 → t.haltReq = true → ∃ s', exec .entryEnd (on s me) = .next s' ∧ Posted s' .debugHalt me) ∧
      (hypercall t → bits t.estat.toNat 1 0 = 1 → t.haltReq = false →
        let code := bits t.ecause.toNat 19 8
        ∃ s' u, exec .entryEnd (on s me) = .next s' ∧ s'.thread? tid = some u ∧
          (code = 0x800 → Posted s' .hver me) ∧ (code = 0x801 → Posted s' .ptebits me) ∧ (code = 0x802 → Posted s' .pteget me) ∧
          (code ∉ [0x800, 0x801, 0x802] → t.slot?.isSome = true → (∀ e ∈ t.inbox, e.1 = true → e.2.1 ≠ 3) → t.epc.toNat % 8 = 0 →
            u.reg 3 = allOnes ∧ u.pc = t.epc ∧ SameG t u [3]))) ∧
    (t.status ≠ .entry → exec .entryEnd (on s me) = .next (on s me)) ∧
    -- back into the rotation, with the lanes of a thread that has come back (R61, R191), and searches for a slot taken up again (R56, R128)
    (t.status = .waking → ¬ hypercall t ∨ t.pc ≠ (s.pkg t.pos.pkg).blob.firmware → ∃ s' u, exec .parkResume (on s me) = .next s' ∧
      s'.thread? tid = some u ∧ u.status = .ready ∧ u.savedVlen = 0 ∧ SameG t u [] ∧ SameControl t u ∧ u.pc = t.pc ∧ SameMem s s' ∧
      (t.savedVlen = 0 → Same t u) ∧
      (t.savedVlen ≠ 0 → u.vlen = if 8 ≤ r189 s tid t t.savedVlen then r189 s tid t t.savedVlen else 0)) ∧
    (∀ i w, (i = .extmigSlotRetry ∧ w = .extmigSlot) ∨ (i = .migSlotRetry ∧ w = .migSlot) →
      (t.wait = some w → t.status = .parked → t.slot?.isSome = true → t.sfuLeft = 0 →
        ∃ s' u, exec i (on s me) = .next s' ∧ s'.thread? tid = some u ∧ u.status = .waking ∧ u.wait = none ∧ Same t u ∧
          Posted s' .parkResume me) ∧
      (t.wait ≠ some w → exec i (on s me) = .next (on s me))) ∧
    -- arrival after a move (R355, R359)
    (∀ src dst, t.place = .flight src dst → routed s src.pkg t.part t.launch dst.pkg = false →
      exec .migrationArrival (on s me) = .next (on s me)) ∧
    (∀ src dst, t.place = .flight src dst → t.arriving = none → routed s src.pkg t.part t.launch dst.pkg = true →
      ∃ s' u, exec .migrationArrival (on s me) = .next s' ∧ s'.thread? tid = some u ∧ u.place = .slot dst ∧ u.status = .ready ∧
        SameG t u [] ∧ SameControl t u ∧ u.pc = t.pc ∧ dst.coreRef ∈ s'.focus ∧
        (s'.tile ⟨t.start.pkg, t.start.die, t.start.tile⟩).dir.get? t.epid = some (.slot dst)) ∧
    ((∃ a b, t.place = .flight a b) → exec .antiPingpongEnd (on s me) = .next (on s me)) ∧
    (t.appt ≤ now → (∀ a b, t.place ≠ .flight a b) → ∃ s' u, exec .antiPingpongEnd (on s me) = .next s' ∧ s'.thread? tid = some u ∧ u.appt = 0 ∧ Same t u) ∧
    -- the watchdog (R147)
    (let due := part.wdog ≠ 0 ∧ part.wdog * 1000 < now - t.parkedAt
     t.priv = 0 → t.status = .parked → t.slot?.isSome = true → (t.wait = some .word ∨ ∃ d v, t.wait = some (.late d v)) →
      (due → ∃ s' u, exec .watchdogExpiry (on s me) = .next s' ∧ s'.thread? tid = some u ∧ u.status = .entry ∧ u.wait = none ∧
        u.ecause = 0x12#64 ∧ u.eval = BitVec.ofNat 64 ((now - t.parkedAt) / 1000) ∧ u.epc = t.issuedPc ∧ u.priv = 1 ∧
        u.pc = (s.cfgOf t).handler ∧ (∀ r, u.reg r = t.reg r) ∧ (∀ x ∈ s'.feWaiters, x.tid = tid → x.job.isSome = true) ∧
        SameMem s s') ∧
      (¬ due → exec .watchdogExpiry (on s me) = .next (on s me))) ∧
    -- kills (R310, R311, R314)
    (let goes := fun (k : Kill) (ev : Instr) => ∃ s' u, exec .killDelivery (on s me) = .next s' ∧ s'.thread? tid = some u ∧ u.kill = k ∧ Same t u ∧
        Posted s' ev me
     let unit := match t.join with
       | some j => j.pkg
       | none => t.pos.pkg
     let home := homeOf t.epid.toNat
     (∀ a tl n, t.kill = .sent a tl n →
       (routed s a t.part t.launch tl.pkg = false → exec .killDelivery (on s me) = .next (on s me)) ∧
       (routed s a t.part t.launch tl.pkg = true → standsAt t.place = tl → goes .held .killTaken) ∧
       (routed s a t.part t.launch tl.pkg = true → standsAt t.place ≠ tl →
         (∀ x, liveStub s tl t.epid = some x → n < 4 → goes (.sent tl.pkg (standsAt (.slot x.dest)) (n + 1)) .killDelivery) ∧
         (liveStub s tl t.epid = none ∨ 4 ≤ n → goes (.back tl.pkg) .killDelivery))) ∧
     (∀ a p, t.kill = .back a → routed s a t.part t.launch unit = true → routed s unit t.part t.launch home.pkg = true →
       (s.tile home).dir.get? t.epid = some p → goes (.sent unit (standsAt p) 0) .killDelivery)) ∧
    (t.kill = .held → killable s tid t = true → t.relaxed = [] → ∃ s', exec .killTaken (on s me) = .next s' ∧ s'.thread? tid = none ∧
      ∀ j, t.join = some j → Posted s' .retractionEnd (.member j tid)) ∧
    (t.kill ≠ .held ∨ killable s tid t = false → exec .killTaken (on s me) = .next (on s me)) ∧
    (t.status = .ready →
      (t.khold = false ∨ t.holdCount < 512 → exec .kholdlong (on s me) = .next (on s me)) ∧
      (t.khold = true → 512 ≤ t.holdCount → t.kill ≠ .held → ∃ s' u, exec .kholdlong (on s me) = .next s' ∧ s'.thread? tid = some u ∧
        u.status = .entry ∧ u.holdCount = 0 ∧ u.ecause = 0x0B#64 ∧ u.epc = t.pc ∧ u.eval = 0 ∧ SameG t u []) ∧
      (t.khold = true → 512 ≤ t.holdCount → t.kill = .held → t.priv ≠ 2 → t.slot?.isSome = true → inMma s t = false →
        tripsDone s tid = true → ∃ s', exec .kholdlong (on s me) = .next s' ∧ s'.thread? tid = none))

namespace Sys2Proof.Slice0
open Sys2Proof Sys2Proof.Machine

/-- R158: the 160 KiB image of a context in area `a` of its partition's context memory (log 24), and the areas in use. -/
def imageBase (s : State) (pkg part a : Nat) : Nat := pkg * 2 ^ 52 + (s.part ⟨pkg, part⟩).ctxBase + a * 163840
def areaFree (s : State) (p : PartRef) (a : Nat) : Prop := (a + 1) * 163840 ≤ (s.part p).ctxSize ∧ a ∉ (s.part p).images

/-- R158: the words of an image that hold the general registers, FEB, PEND, the control registers and the pc are those of the thread,
and bytes 808 to 1,023 are 0. -/
def Saved (s' : State) (b : Nat) (t : Thread) : Prop :=
  (∀ r, r < 64 → s'.rdWord (b + 8 * r) = t.reg r) ∧ s'.rdWord (b + 512) = t.fe ∧ s'.rdWord (b + 520) = t.pend ∧
    (∀ i, i < 8 → s'.rdWord (b + 528 + 8 * i) = t.h.toArray.getD i 0) ∧ s'.rdWord (b + 600) = t.epc ∧ s'.rdWord (b + 608) = t.ecause ∧
    s'.rdWord (b + 616) = t.eval ∧ s'.rdWord (b + 624) = t.estat ∧ s'.rdWord (b + 632) = t.fctl ∧ s'.rdWord (b + 656) = t.tlog ∧
    s'.rdWord (b + 664) = t.htab ∧ s'.rdWord (b + 672) = t.pc ∧ ∀ k, k < 27 → s'.rdWord (b + 808 + 8 * k) = 0

/-- No thread stands in a slot, moves to it, or is being swapped in there. -/
def vacant (s : State) (tid : Nat) (p : Pos) : Prop :=
  ∀ e ∈ s.threads, e.2.place ≠ .slot p ∧ (∀ q, e.2.place ≠ .flight q p) ∧ (e.1 ≠ tid → e.2.swapTo = some p → e.2.status ≠ .swapIn)

end Sys2Proof.Slice0

/-- R148, R157 to R163, R191, R264, R315: the events of pre-emption and of a debugger: a swap-out stands until a boundary takes it, the image
holds the context, a swap-in restores it with reserved bits 0 (R7), negotiates its lanes when it is READY and never comes for a killed
thread, an owed result changes value, FEB and PEND of the image in one step, a time slice asks every thread of the partition for a swap, a
thread is halted at a bundle boundary at every privilege, written and resumed. The place of an image, that the FE bits of its TCM area
travel with it and how a status word with PRIV 3 reads (log 24), what a halt between two passes does (log 66), the numbers of the
debugger's registers (log 26) and that a halt waits for the end of an entry (log 36) are the model's choices and readings. -/
def Obligations.SwapAndDebugEvents : Prop :=
  ∀ (s : State) (tid : Nat) (t : Thread), memWf s.mem = true → s.thread? tid = some t →
    let me := Obj.thread tid
    let stands := t.slot?.isSome = true ∧ (t.status = .ready ∨ t.status = .parked ∨ t.status = .waking)
    let atRest := stands ∧ t.priv ≠ 2
    -- swap-out
    ((∀ h a, t.place ≠ .image h a) → ∃ s' u, exec .swapRequest (on s me) = .next s' ∧ s'.thread? tid = some u ∧ u.swapReq = true ∧
      Same t u ∧ Posted s' .swapStart me) ∧
    (atRest → t.tail = none → t.swapReq = true → t.khold = false → vectorSfu s tid = false → (∀ w, t.wait = some w → w.swapWithdraws = false) →
      ∃ s' u, exec .swapStart (on s me) = .next s' ∧ s'.thread? tid = some u ∧ u.status = .swapOut ∧ u.swapReq = false ∧
        u.wait = t.wait ∧ Same t u ∧ Posted s' .swapOutDone me) ∧
    (t.swapReq = false ∨ t.khold = true ∨ vectorSfu s tid = true ∨ ¬ atRest → exec .swapStart (on s me) = .next (on s me)) ∧
    (∀ p, t.place = .slot p → t.status = .swapOut →
      (∀ a, areaFree s ⟨p.pkg, t.part⟩ a → (∀ k, k < a → ¬ areaFree s ⟨p.pkg, t.part⟩ k) →
        ∃ s' u, exec .swapOutDone (on s me) = .next s' ∧ s'.thread? tid = some u ∧ u.place = .image p.tileRef a ∧
          u.status = (if t.wait.isSome then .parked else .ready) ∧ u.wait = t.wait ∧ u.savedVlen = (if t.vlen = 0 then t.savedVlen else t.vlen) ∧ SameG t u [] ∧
          SameControl t u ∧ u.pc = t.pc ∧ (s'.part ⟨p.pkg, t.part⟩).images = (s.part ⟨p.pkg, t.part⟩).images ++ [a] ∧
          Saved s' (imageBase s p.pkg t.part a) t) ∧
      ((∀ k, ¬ areaFree s ⟨p.pkg, t.part⟩ k) → exec .swapOutDone (on s me) = .next (on s me))) ∧
    -- swap-in
    (∀ home a p, t.place = .image home a →
      let b := imageBase s home.pkg t.part a
      let tcm := p.pkg * 2 ^ 52 + tcmBase p
      (t.status ≠ .swapIn → t.kill ≠ .held → p.tileRef = home → p.die < 4 → p.tile < 144 → p.core < 8 → p.slot < 14 → vacant s tid p → claimHeld s p = false →
        ∃ s' u, exec .swapInRequest (on s (.place tid p)) = .next s' ∧ s'.thread? tid = some u ∧ u.status = .swapIn ∧
          u.swapTo = some p ∧ Same t u ∧ Posted s' .accumulatorRestore me) ∧
      (t.status ≠ .swapIn → 14 ≤ p.slot ∨ t.kill = .held → exec .swapInRequest (on s (.place tid p)) = .next (on s (.place tid p))) ∧
      (t.status = .swapIn → t.swapTo = some p → (∀ k, k < 8 → (accOf s p.tileRef k).saving = false) → savedTiles s b = [] →
        ∃ s', exec .accumulatorRestore (on s me) = .next s' ∧ Posted s' .swapInDone me ∧ SameMem s s' ∧ s'.thread? tid = some t) ∧
      (t.status = .swapIn → t.kill = .held → exec .swapInDone (on s me) = .next (on s me)) ∧
      (t.status = .swapIn → t.swapTo = some p → t.kill ≠ .held → (∀ k, k < 8 → (accOf s home k).saving = false) → savedTiles s b = [] →
        t.wait = some .word → ∃ s' u, exec .swapInDone (on s me) = .next s' ∧ s'.thread? tid = some u ∧ u.place = .slot p ∧
          u.status = .parked ∧ u.wait = some .word ∧ u.savedVlen = t.savedVlen ∧ u.vlen = t.vlen) ∧
      (t.status = .swapIn → t.swapTo = some p → t.kill ≠ .held → (∀ k, k < 8 → (accOf s home k).saving = false) → savedTiles s b = [] →
        t.wait = none → t.sfuLeft = 0 → t.savedVlen = 0 → (∀ k, k < 8 → s.rdWord (b + 680 + 16 * k) = 0) → b + 163840 ≤ tcm ∨ tcm + 2048 ≤ b →
        ∃ s' u, exec .swapInDone (on s me) = .next s' ∧ s'.thread? tid = some u ∧ u.place = .slot p ∧ u.status = .ready ∧
          u.swapTo = none ∧ (∀ r, 0 < r → r < 64 → u.reg r = s.rdWord (b + 8 * r)) ∧ u.reg 0 = 0 ∧ u.fe = s.rdWord (b + 512) ||| 1#64 ∧
          u.pend = s.rdWord (b + 520) ∧ u.epc = s.rdWord (b + 600) ∧ u.ecause = s.rdWord (b + 608) &&& 0xFFFFF#64 ∧
          u.eval = s.rdWord (b + 616) ∧ u.estat = (let e := s.rdWord (b + 624) &&& 0x73D3#64
              if bits e.toNat 1 0 = 3 then e &&& ~~~3#64 else e) ∧ u.tlog = s.rdWord (b + 656) &&& 0x7FF07FF07FF#64 ∧
          u.htab = s.rdWord (b + 664) &&& 0xFFFFFFFFFFFC0#64 ∧
          u.pc = s.rdWord (b + 672) &&& ~~~7#64 ∧ u.inbox = [] ∧
          (s'.part ⟨home.pkg, t.part⟩).images = (s.part ⟨home.pkg, t.part⟩).images.erase a) ∧
      -- a result that comes while the context is swapped out
      (∀ r v, 0 < r → r < 64 → (∀ e ∈ t.inbox, e.1 = true → e.2.1 ≠ r) → ∃ s' u, exec .owedResultWrite (on s (.threadReg tid r v)) = .next s' ∧ s'.thread? tid = some u ∧
        u.reg r = v ∧ s'.rdWord (b + 8 * r) = v ∧ s'.rdWord (b + 512) = (s.rdWord (b + 512) ||| 1#64 <<< r) ∧
        s'.rdWord (b + 520) = (s.rdWord (b + 520) &&& ~~~(1#64 <<< r)) ∧
        (∀ x, ¬(b + 8 * r ≤ x ∧ x < b + 8 * r + 8) → ¬(b + 512 ≤ x ∧ x < b + 528) → memGet s'.mem x = memGet s.mem x))) ∧
    (∀ r v, plain r → t.slot?.isSome = true → (∀ e ∈ t.inbox, e.1 = true → e.2.1 ≠ r) →
      ∃ s' u, exec .owedResultWrite (on s (.threadReg tid r v)) = .next s' ∧ s'.thread? tid = some u ∧ u.reg r = v ∧ u.full r = true ∧
        SameG t u [r]) ∧
    -- the end of a time slice
    (∀ p, t.place = .slot p → p.slot < 14 → ∃ s' u, exec .timeSliceEnd (on s (.tileNum p.tileRef t.part)) = .next s' ∧
      s'.thread? tid = some u ∧ u.swapReq = true ∧ Same t u ∧ Posted s' .swapStart me) ∧
    -- a debugger
    (t.status ≠ .halted → t.tail = none → ∃ s' u, exec .debugHalt (on s me) = .next s' ∧ s'.thread? tid = some u ∧ u.wait = t.wait ∧ Same t u ∧
      (stands → u.status = .halted ∧ u.haltReq = false ∧ u.vmemPass = 0) ∧ (¬ stands → u.status = t.status ∧ u.haltReq = true)) ∧
    (∀ n, ∃ s' u, exec .debugHalt (on s (.threadNum tid n)) = .next s' ∧ s'.thread? tid = some u ∧ u.haltBrk = (n != 0) ∧ Same t u) ∧
    (∀ n v, (t.status ≠ .halted → exec .debugRegisterWrite (on s (.threadReg tid n v)) = .next (on s (.threadReg tid n v))) ∧
      (t.status = .halted → ∃ s' u, exec .debugRegisterWrite (on s (.threadReg tid n v)) = .next s' ∧ s'.thread? tid = some u ∧
        u.status = .halted ∧ (plain n → u.reg n = v ∧ SameG t u [n] ∧ SameControl t u ∧ u.pc = t.pc) ∧
        (64 ≤ n → n < 72 → u.h.toArray.getD (n - 64) 0 = v ∧ SameG t u []) ∧
        (n = 72 → u.pc = v &&& ~~~7#64 ∧ u.brkHalt = false ∧ SameG t u []))) ∧
    (t.status = .halted → t.sfuLeft = 0 → (∀ w, t.wait = some w → w.retry = true) → (t.priv = 0 → t.inbox = []) →
      (¬ hypercall t ∨ (if t.brkHalt then t.pc + 8 else t.pc) ≠ (s.pkg t.pos.pkg).blob.firmware) →
      ∃ s' u, exec .debugResume (on s me) = .next s' ∧ s'.thread? tid = some u ∧ u.status = .ready ∧ u.wait = none ∧
        u.pc = (if t.brkHalt then t.pc + 8 else t.pc) ∧ SameG t u [] ∧ SameControl t u)

namespace Sys2Proof.Slice0
open Sys2Proof Sys2Proof.Machine

/-- R237: the record of a row of `n` elements from format `sf` to format `df`. -/
def rowRecord (n sf df : Nat) : List Word := [BitVec.ofNat 64 (0x0001000100010000 + n), 0, 0, 0, BitVec.ofNat 64 (sf + 16 * df), 0, 0, 0]

/-- R238: the width of an integer format, and of a format whose elements stand alone. -/
def intBits : Nat → Option Nat
  | 0 => some 8
  | 1 => some 4
  | 11 => some 32
  | _ => none
def elemBits : Nat → Option Nat
  | 6 | 7 | 8 => some 16
  | 9 => some 8
  | 10 | 12 => some 32
  | f => intBits f

/-- R174, R238: an element moved between formats: an equal format keeps its code, an integer is saturated. -/
def moved (sf df c : Nat) : Option Nat :=
  if sf = df then some c
  else match intBits sf, intBits df with
    | some b, some d => some ((max (-2 ^ (d - 1)) (min (2 ^ (d - 1) - 1) (asInt b c)) % 2 ^ d).toNat)
    | _, _ => none

/-- R239: element `i`, of `b` bits, of a row at `a`. -/
def elemOf (s : State) (a b i : Nat) : Nat := memRead s.mem (a + i * b / 8) (max 1 (b / 8)) / 2 ^ (i * b % 8) % 2 ^ b

/-- R363: an operation on two halves, SUM 0, MIN 1, MAX 2, AND 3, OR 4, XOR 5, at width `n`. -/
def r363 (op n a b : Nat) : Nat :=
  match op with
  | 0 => (a + b) % 2 ^ n
  | 1 => if asInt n a ≤ asInt n b then a else b
  | 2 => if asInt n b ≤ asInt n a then a else b
  | 3 => a &&& b
  | 4 => a ||| b
  | _ => a ^^^ b

/-- R363: the integer types I64 0 and I32X2 2. -/
def r363int (op ty : Nat) (a b : Word) : Word :=
  if ty = 0 then BitVec.ofNat 64 (r363 op 64 a.toNat b.toNat)
  else BitVec.ofNat 64 (r363 op 32 (a.toNat % 2 ^ 32) (b.toNat % 2 ^ 32) + 2 ^ 32 * r363 op 32 (a.toNat / 2 ^ 32) (b.toNat / 2 ^ 32))

/-- A message has found its thread's tile, nothing waits there before it. -/
def Meets (s : State) (id : Nat) (m : Msg) (tid : Nat) (t : Thread) : Prop :=
  s.msgs.get? id = some m ∧ m.moved = false ∧ m.from_ = m.at_.pkg ∧ s.threads.find? (fun x => x.2.epid == m.epid) = some (tid, t) ∧
    s.thread? tid = some t ∧ (∃ p, t.place = .slot p ∧ p.tileRef = m.at_) ∧ waitingBefore s id m.epid = []

end Sys2Proof.Slice0

/-- R126, R150, R350, R359: a message at its thread's tile is written, held while the register awaits a result, deferred in the inbox of
eight, or waits for room; its sender goes on and learns the position; a message that misses its thread follows the newest stub whose time
has not run out at most four times, or returns MOVED to its sender's core, each way waiting for a route, from where it is sent again to the
position that the home's directory gives, and is discarded and counted when no such thread lives. (Which turn of slot 14 sends it is log 45.) -/
def Obligations.MessageEvents : Prop :=
  ∀ (s : State) (id : Nat) (m : Msg), memWf s.mem = true → s.msgs.get? id = some m →
    let o := Obj.num id
    (∀ tid t, Meets s id m tid t → m.posted = none → m.sender ≠ some tid →
      let taken := fun (s' : State) => s'.msgs.get? id = none ∧ s'.learned.get? (m.src, m.epid) = some m.at_ ∧
        (∀ k y, m.sender = some k → s.thread? k = some y → y.wait = some (.send id) → y.status = .parked → y.slot?.isSome = true →
          y.sfuLeft = 0 → ∃ z, s'.thread? k = some z ∧ z.status = .waking ∧ z.wait = none ∧ Same y z)
      (t.defers = false → t.pend.getLsbD m.reg = false → plain m.reg → (∀ e ∈ t.inbox, e.1 = true → e.2.1 ≠ m.reg) →
        ∃ s' u, exec .messageDelivery (on s o) = .next s' ∧ taken s' ∧ s'.thread? tid = some u ∧ u.reg m.reg = m.val ∧
          u.full m.reg = true ∧ SameG t u [m.reg] ∧ SameMem s s') ∧
      (t.defers = true ∨ t.pend.getLsbD m.reg = true → t.inbox.length < 8 →
        ∃ s' u, exec .messageDelivery (on s o) = .next s' ∧ taken s' ∧ s'.thread? tid = some u ∧
          u.inbox = t.inbox ++ [(!t.defers, m.reg, m.val)] ∧ Same t u ∧ SameMem s s') ∧
      (t.defers = true ∨ t.pend.getLsbD m.reg = true → 8 ≤ t.inbox.length →
        ∃ s', exec .messageDelivery (on s o) = .next s' ∧ s'.msgs.get? id = some { m with waiting := true, retry := false } ∧ s'.threads = s.threads)) ∧
    (m.moved = false → m.from_ = m.at_.pkg → (∀ e ∈ s.threads, e.2.epid ≠ m.epid) →
      let live := (liveStub s m.at_ m.epid).isSome = true ∧ m.hops < 4
      (live → ∃ s', exec .messageDelivery (on s o) = .next s' ∧ Posted s' .sendForward o ∧ s'.threads = s.threads) ∧
      (¬ live → ∃ s', exec .messageDelivery (on s o) = .next s' ∧ s'.threads = s.threads ∧ Posted s' .messageDelivery o ∧
        s'.msgs.get? id = some { m with moved := true, waiting := false, retry := false })) ∧
    -- no route; the way back; another try
    (m.moved = false → routed s m.from_ m.part m.launch m.at_.pkg = false → exec .messageDelivery (on s o) = .next (on s o)) ∧
    (m.moved = true → routed s m.from_ m.part m.launch m.src.pkg = false → exec .messageDelivery (on s o) = .next (on s o)) ∧
    (m.moved = true → routed s m.from_ m.part m.launch m.src.pkg = true → ∃ s', exec .messageDelivery (on s o) = .next s' ∧
      s'.msgs.get? id = some { m with from_ := m.src.pkg } ∧ m.src ∈ s'.focus ∧ s'.threads = s.threads) ∧
    (m.waiting = true → m.retry = false → ∃ s', exec .inboxRetry (on s o) = .next s' ∧ exec .messageDelivery (on s o) = .next s') ∧
    (m.waiting = false → exec .inboxRetry (on s o) = .next (on s o)) ∧
    (∀ x, m.moved = false → liveStub s m.at_ m.epid = some x →
      ∃ s', exec .sendForward (on s o) = .next s' ∧ Posted s' .messageDelivery o ∧
        s'.msgs.get? id = some { m with at_ := standsAt (.slot x.dest), hops := m.hops + 1, waiting := false }) ∧
    (let back := m.moved = true ∧ m.from_ = m.src.pkg ∧ routed s m.src.pkg m.part m.launch (homeOf m.epid.toNat).pkg = true
     (¬ back → exec .movedResend (on s o) = .next (on s o)) ∧
     (∀ p, back → (s.tile (homeOf m.epid.toNat)).dir.get? m.epid = some p →
      ∃ s', exec .movedResend (on s o) = .next s' ∧ Posted s' .messageDelivery o ∧
        s'.msgs.get? id = some { m with at_ := standsAt p, from_ := m.src.pkg, hops := 0, waiting := false, moved := false }) ∧
     (back → (s.tile (homeOf m.epid.toNat)).dir.get? m.epid = none → m.posted = none →
      ∃ s', exec .movedResend (on s o) = .next s' ∧ s'.msgs.get? id = none ∧ Posted s' .eventRingWrite (.part ⟨m.src.pkg, m.part⟩) ∧
        SameMem s s')) ∧
    (∀ tl, ∃ s', exec .stubExpiry (on s (.tile tl)) = .next s' ∧
      ∀ y, y ∈ (s'.tile tl).stubs ↔ y ∈ (s.tile tl).stubs ∧ s.now tl.pkg < y.until_)

/-- R151, R155, R156, R243, R246, R248, R249, R253, R350, R362: the answers of the walker and of the caches, a round of a collective group,
and a chunk of the copy unit: a missed translation comes with its leaf or its XLATE, dropped copies are gone and the writer goes on,
every member of a group to which there is a route gets the round's result (an integer operation over all contributions; the broadcast of the
first leaf; a float operation of two contributions in the order that the model leaves free, log 10), one that waits to read it goes on, a
chunk of a job converts its elements between the integer formats, or moves them in one format, writes and counts them, and its job is DONE:
a CPW that waits for it gets its status, and its entry is free. That a chunk's words are written in one turn is the model's choice (log 63). -/
def Obligations.TranslationGroupAndCopyEvents : Prop :=
  ∀ (s : State) (tid : Nat) (t : Thread), memWf s.mem = true → s.thread? tid = some t →
    (∀ va kind, t.wait = some (.walk va kind) → t.status = .parked → t.slot?.isSome = true → t.sfuLeft = 0 →
      let tree := walk s (s.cfgOf t).root t.pos.pkg t.part va
      (∀ e, tree = some e → ∃ s' u, exec .tlbWalkDone (on s (.threadNum tid va)) = .next s' ∧ s'.thread? tid = some u ∧
        u.status = .waking ∧ u.wait = none ∧ Same t u ∧ e ∈ (s'.tile t.pos.tileRef).tlb ∧ SameMem s s') ∧
      (tree = none → ∃ s' u, exec .tlbWalkDone (on s (.threadNum tid va)) = .next s' ∧ s'.thread? tid = some u ∧
        u.status = .entry ∧ u.wait = none ∧ u.ecause = BitVec.ofNat 64 (kind * 256 + 5) ∧ u.eval = BitVec.ofNat 64 va ∧ u.epc = t.pc ∧
        SameG t u [] ∧ SameMem s s')) ∧
    (∀ d v w, Waits s tid t d (.reply d v) → ∃ s', exec .translationDropDone (on s (.threadNum tid w)) = .next s' ∧
      Answered s' tid t d v ∧ ∀ e ∈ s'.tiles, ∀ x ∈ e.2.tlb, w ∉ x.words) ∧
    (∀ h, t.wait = some (.handle h) → t.status = .parked → t.slot?.isSome = true → t.sfuLeft = 0 →
      let a := handleAddr t.pos.pkg t.htab h
      ∃ s' u, exec .handleCacheFill (on s (.threadNum tid a)) = .next s' ∧ s'.thread? tid = some u ∧ u.status = .waking ∧
        u.wait = none ∧ Same t u ∧ a ∈ (s'.tile t.pos.tileRef).handles ∧ (s'.tile t.pos.tileRef).handles.length ≤
          max 32 ((s.tile t.pos.tileRef).handles.length)) ∧
    (∀ d a, Waits s tid t d .drop → ∃ s', exec .tfreeDropDone (on s (.threadReg tid d a)) = .next s' ∧ Answered s' tid t d 0 ∧
      ∀ e ∈ s'.tiles, a.toNat ∉ e.2.handles) ∧
    (∀ part g x r rest k b before after, s.group? part g = some x → x.rounds = r :: rest →
      (∀ p ∈ x.leaves, p ∈ x.left ∨ ∃ e ∈ r.given, e.1 = p) → x.bound = before ++ (t.start, tid, k) :: after →
      (∀ e ∈ before ++ after, e.2.1 ≠ tid) → k < 4 → t.groups.toArray.getD k none = some b → t.status ≠ .halted → t.slot?.isSome = true →
      (∀ e ∈ s.contribs, e.2.down = false) → routed s (s.rootPkg x.launch t.start.pkg) part x.launch t.start.pkg = true →
      t.wait = none ∨ (t.wait = some (.reg (52 + k)) ∧ t.status = .parked ∧ t.sfuLeft = 0) →
      ∀ sum, (x.op ≤ 5 ∧ (x.ty = 0 ∨ x.ty = 2) ∧ ∃ e es, r.given.map (·.2) = e :: es ∧ sum = es.foldl (r363int x.op x.ty) e) ∨
        (x.op = 6 ∧ ∃ p, x.leaves.head? = some p ∧ r.given.find? (fun e => e.1 == p) = some (p, sum)) →
      ∃ s' u, exec .collectiveRoundComplete (on s (.group part g)) = .next s' ∧ s'.thread? tid = some u ∧ Same t u ∧
        u.groups.toArray.getD k none = some { b with got := b.got + 1, results := b.results ++ [sum] } ∧ u.wait = none ∧
        (t.wait = none → u.status = t.status) ∧ (t.wait ≠ none → u.status = .waking) ∧
        (before ++ after = [] → ∃ y, s'.group? part g = some y ∧ y.rounds = rest ∧ y.first = x.first + 1)) ∧
    (∀ part g x p q v w rest k b, s.group? part g = some x → x.rounds = ⟨[(p, v), (q, w)], none⟩ :: rest →
      (∀ y ∈ x.leaves, y ∈ x.left ∨ y = p ∨ y = q) → x.bound = [(t.start, tid, k)] → k < 4 →
      (∀ e ∈ s.contribs, e.2.down = false) → routed s (s.rootPkg x.launch t.start.pkg) part x.launch t.start.pkg = true →
      t.groups.toArray.getD k none = some b → t.wait = none → t.status ≠ .halted → t.slot?.isSome = true → x.op ≤ 2 → x.ty = 1 ∨ x.ty = 3 →
      ∃ s' u y, exec .collectiveRoundComplete (on s (.group part g)) = .next s' ∧ s'.thread? tid = some u ∧ Same t u ∧
        u.groups.toArray.getD k none = some { b with got := b.got + 1, results := b.results ++ [y] } ∧
        (y = collStep x.op x.ty v w ∨ y = collStep x.op x.ty w v)) ∧
    (∀ part g x, s.group? part g = some x → x.rounds = [] →
      exec .collectiveRoundComplete (on s (.group part g)) = .next (on s (.group part g))) ∧
    (∀ tl e q j n sf df b d gs gd, (s.tile tl).copy = [(e, ⟨q, some j⟩)] →
      j.state = .queued → j.stream = false → j.fill = false → j.consume = false → j.count = 0 → j.taken = [] → j.olds = [] →
      j.pend = [] → n = 1 ∨ n = 2 → j.record = rowRecord n sf df → elemBits sf = some b → elemBits df = some d →
      (∀ c, (moved sf df c).isSome = true) →
      (∀ i, i < n → jobXlate s tl j ((j.src.toNat + i * b / 8) % 2 ^ 64) 0 false = .ok (gs + i * b / 8) ∧
        jobXlate s tl j ((j.dst.toNat + i * d / 8) % 2 ^ 64) 1 false = .ok (gd + i * d / 8) ∧ unitRouted s tl j [i] = true) →
      gs % 4 = 0 → gd % 4 = 0 → gs + 8 ≤ gd ∨ gd + 8 ≤ gs → s.lockWaiters = [] → s.feWaiters = [] →
      let waiters := s.threads.filterMap (fun x => match x.2.wait with
        | some (.job r id tl') => if id = q * 64 + e ∧ tl' = tl ∧ x.2.part = j.part then some (x.1, r) else none
        | _ => none)
      (∀ m y w r, waiters = [(m, r)] → Waits s m y r w → ∃ s' st, exec .copyChunk (on s (.tile tl)) = .next s' ∧
        ((s.tile tl).point ≠ none → Answered s' m y r st ∧ bits st.toNat 63 62 = 2 ∧ bits st.toNat 55 48 = 0 ∧ bits st.toNat 31 0 = n ∧
          jobAt s' tl e = none)) ∧
      ((s.tile tl).point = none → exec .copyChunk (on s (.tile tl)) = .next (on s (.tile tl))) ∧
      ((s.tile tl).point ≠ none → waiters = [] → ∃ s' j', exec .copyChunk (on s (.tile tl)) = .next s' ∧ jobAt s' tl e = some j' ∧ j'.state = .done ∧
        j'.err = 0 ∧ j'.count = n ∧ (∀ i, i < n → moved sf df (elemOf s gs b i) = some (elemOf s' gd d i)) ∧
        ∀ a, ¬(gd ≤ a ∧ a < gd + (n * d + 7) / 8) → memGet s'.mem a = memGet s.mem a))

namespace Sys2Proof.Slice0
open Sys2Proof Sys2Proof.Machine

/-- R353: two additions that may be merged at a port: combinable, one size, one word, one port, within 64 ns of each other, neither
performed. -/
def mayMerge (x y : SpanReq) : Prop :=
  (∃ n, x.acc.op = .amo 0 n true ∧ y.acc.op = .amo 0 n true) ∧ x.acc.pa = y.acc.pa ∧ x.src = y.src ∧ x.host = false ∧ x.held = false ∧
    y.held = false ∧ x.arrived = false ∧ y.arrived = false ∧ x.sent ≤ y.sent + 64 ∧ y.sent ≤ x.sent + 64

/-- A request is at its destination: over CXL, or over a port of its partition's route that is up (R350). -/
def AtDestination (s : State) (r : SpanReq) : Prop :=
  r.held = false ∧ (r.host = true ∨ ∃ t p, s.thread? r.acc.tid = some t ∧ routePort s r.src.pkg t.part t.launch r.dest = some p)

/-- R351: 20 µs have passed without a reply. -/
def Late (s : State) (r : SpanReq) : Prop := r.host = false ∧ r.held = false ∧ r.sent + 20000 ≤ s.now r.src.pkg

/-- R66: the kind of an access. -/
def kindOf : AccOp → Nat
  | .load _ _ => 0
  | .store _ => 1
  | _ => 3

end Sys2Proof.Slice0

/-- R62, R115, R350 to R353, R413: replies complete what waits for them; the first copy of a request is performed, a later one is
answered without a second effect; merged additions are one addition, whose parts get the old value with the operands before them
added; a request is reissued after 20 µs, and after the fourth reissue it is lost: a parked thread takes RLOST at its bundle; a request
without a route, behind an earlier host store, or without a reply-cache entry waits (R136, R350, R352); ports, reply caches and sequence
numbers. A request lost while its thread is halted is reported at the thread's next issue. Which port keeps an entry (log 10), and that a
relaxed access is performed with its reply (log 14), are the model's choices. -/
def Obligations.SpanEvents : Prop :=
  ∀ (s : State), memWf s.mem = true →
    -- relaxed accesses and replies
    (∀ tid t a rest, s.thread? tid = some t → t.relaxed = a :: rest → (∀ x ∈ rest, x.id ≠ a.id) → t.slot?.isSome = true → plain a.d →
      (∀ e ∈ t.inbox, e.1 = true → e.2.1 ≠ a.d) →
      let o := Obj.threadNum tid a.id
      let gets := fun (v : Word) (s' : State) => exec .relaxedReply (on s o) = .next s' ∧ ∃ u, s'.thread? tid = some u ∧ u.reg a.d = v ∧
        u.full a.d = true ∧ u.relaxed = rest ∧ SameG t u [a.d] ∧ u.pc = t.pc
      (∀ n, s.reqs.get? a.id = none → a.tent = false → a.op = .load n false →
        ∃ s', gets (BitVec.ofNat 64 (memRead s.mem a.pa n)) s' ∧ SameMem s s') ∧
      (∀ r v, s.reqs.get? a.id = some r → r.result = some v → ∃ s', gets v s' ∧ s'.reqs.get? a.id = none) ∧
      (∀ r, s.reqs.get? a.id = some r → r.result = none → exec .relaxedReply (on s o) = .next (on s o))) ∧
    (∀ tid t d v, Waits s tid t d (.reply d v) → ∃ s', exec .memoryReply (on s (.thread tid)) = .next s' ∧ Answered s' tid t d v ∧
      SameMem s s') ∧
    (∀ tid t v, s.thread? tid = some t → t.slot?.isSome = true → t.status = .parked → t.wait = some (.reply 0 v) → t.sfuLeft = 0 →
      ∃ s' u, exec .memoryReply (on s (.thread tid)) = .next s' ∧ s'.thread? tid = some u ∧ u.status = .waking ∧ u.wait = none ∧ Same t u) ∧
    (∀ q r, s.reqs.get? q = some r →
      let o := Obj.num q
      (∀ t v, r.result = some v → r.relaxed = false → r.posted = false → Waits s r.acc.tid t r.acc.d (.remote q) →
        ∃ s', exec .memoryReply (on s o) = .next s' ∧ Answered s' r.acc.tid t r.acc.d v ∧ s'.reqs.get? q = none ∧ SameMem s s') ∧
      (∀ t v, r.result = some v → r.relaxed = false → r.posted = true → s.thread? r.acc.tid = some t →
        ∃ s' u, exec .memoryReply (on s o) = .next s' ∧ s'.thread? r.acc.tid = some u ∧ u.posted = t.posted - 1 ∧ Same t u ∧
          s'.reqs.get? q = none) ∧
      (∀ t v, r.result = some v → r.relaxed = true → s.thread? r.acc.tid = some t → ∃ s', exec .memoryReply (on s o) = .next s' ∧
        Posted s' .relaxedReply (.threadNum r.acc.tid q)) ∧
      -- at the destination
      (AtDestination s r → r.arrived = false → r.relaxed = false → (∀ e ∈ s.merges, q ∉ e.2.parts) → r.acc.op = .store 8 →
        r.acc.tent = false → s.lockWaiters = [] → s.feWaiters = [] → behindStore s q r = false → ∃ s' y, exec .remoteRequest (on s o) = .next s' ∧ s'.reqs.get? q = some y ∧
          y.arrived = true ∧ y.result = some 0#64 ∧ Posted s' .memoryReply o ∧ memRead s'.mem r.acc.pa 8 = r.acc.a.toNat ∧
          ∀ a, ¬(r.acc.pa ≤ a ∧ a < r.acc.pa + 8) → memGet s'.mem a = memGet s.mem a) ∧
      (∀ v, AtDestination s r → r.arrived = true → r.waiting = false → kindOf r.acc.op ≠ 0 → r.result = some v →
        ∃ s', exec .remoteRequest (on s o) = .next s' ∧ Posted s' .memoryReply o ∧ SameMem s s' ∧ s'.reqs.get? q = some r) ∧
      (AtDestination s r → r.arrived = true → r.waiting = true → ∃ s', exec .remoteRequest (on s o) = .next s' ∧
        Posted s' .waitReply o ∧ SameMem s s' ∧ s'.reqs.get? q = some r) ∧
      (∀ t, r.held = false → r.host = false → r.src.pkg ≠ r.dest → s.thread? r.acc.tid = some t → routePort s r.src.pkg t.part t.launch r.dest = none →
        ∃ s', exec .remoteRequest (on s o) = .next s' ∧ s'.reqs.get? q = some { r with held := true } ∧ SameMem s s') ∧
      -- a host store behind an earlier one of its thread, and an indivisible access while every entry of the reply cache is in use, wait
      (AtDestination s r → r.arrived = false → behindStore s q r = true ∨ waitsEntry s r = true →
        exec .remoteRequest (on s o) = .next (on s o)) ∧
      (waitsEntry s r = true → exec .requestReissue (on s o) = .next (on s o) ∧ exec .requestLost (on s o) = .next (on s o)) ∧
      (r.waiting = true → ∃ s', exec .waitReply (on s o) = .next s' ∧
        s'.reqs.get? q = some { r with reissues := 0, sent := s.now r.src.pkg }) ∧
      (r.waiting = false → exec .waitReply (on s o) = .next (on s o)) ∧
      -- reissue and loss
      (Late s r → waitsEntry s r = false → r.reissues < 4 → ∃ s', exec .requestReissue (on s o) = .next s' ∧ Posted s' .remoteRequest o ∧
        s'.reqs.get? q = some { r with reissues := r.reissues + 1, sent := s.now r.src.pkg }) ∧
      (¬ Late s r → exec .requestReissue (on s o) = .next (on s o) ∧ exec .requestLost (on s o) = .next (on s o)) ∧
      (∀ t, Late s r → waitsEntry s r = false → 4 ≤ r.reissues → s.thread? r.acc.tid = some t →
        (r.relaxed = false → t.status = .parked → t.slot?.isSome = true → t.wait = some (.remote q) →
          ∃ s' u, exec .requestLost (on s o) = .next s' ∧ s'.reqs.get? q = none ∧ s'.thread? r.acc.tid = some u ∧ u.status = .entry ∧
            u.ecause = BitVec.ofNat 64 (kindOf r.acc.op * 256 + 0x13) ∧ u.eval = BitVec.ofNat 64 r.acc.va ∧ u.epc = t.issuedPc ∧
            (∀ k, u.reg k = t.reg k) ∧ SameMem s s') ∧
        (r.relaxed = false → t.status = .halted → t.slot?.isSome = true → t.wait = some (.remote q) →
          ∃ s' u, exec .requestLost (on s o) = .next s' ∧ s'.reqs.get? q = none ∧ s'.thread? r.acc.tid = some u ∧ u.status = .halted ∧
            u.wait = none ∧ u.pc = t.issuedPc ∧ u.lost = ⟨64, r.acc.va, kindOf r.acc.op⟩ :: t.lost ∧ SameMem s s') ∧
        (r.relaxed = true → ∃ s' u, exec .requestLost (on s o) = .next s' ∧ s'.reqs.get? q = none ∧ s'.thread? r.acc.tid = some u ∧
          u.lost = t.lost ++ [⟨r.acc.d, r.acc.va, kindOf r.acc.op⟩] ∧ (∀ x ∈ u.relaxed, x.id ≠ q) ∧ SameG t u [] ∧ SameMem s s'))) ∧
    (∀ c cs tid cyc t l, s.agenda = [] → dueEvent s = none → s.focus = c :: cs →
      pick { s with focus := cs ++ [c] } c = some (.thread tid, cyc) → s.thread? tid = some t → t.tail = none →
      t.lost.find? (fun x => x.d == 64) = some l → ∃ s' u, step s = .next s' ∧ s'.thread? tid = some u ∧ u.status = .entry ∧
        u.ecause = BitVec.ofNat 64 (l.kind * 256 + 0x13) ∧ u.eval = BitVec.ofNat 64 l.va ∧ u.epc = t.pc ∧ u.lost = t.lost.erase l ∧
        SameG t u []) ∧
    -- combining
    (∀ a b x y, s.reqs.get? a = some x → s.reqs.get? b = some y → a ≠ b → (∀ e ∈ s.merges, a ∉ e.2.parts ∧ b ∉ e.2.parts) →
      (mayMerge x y → ∃ s' m, exec .combineMerge (on s (.nums a b)) = .next s' ∧ s'.merges.get? m = some ⟨x.src, [a, b], none⟩ ∧
        SameMem s s') ∧
      (¬ mayMerge x y → exec .combineMerge (on s (.nums a b)) = .next (on s (.nums a b)))) ∧
    (∀ m p a b x y, a ≠ b → s.reqs.get? a = some x → s.reqs.get? b = some y → x.acc.op = .amo 0 8 true → y.acc.op = .amo 0 8 true →
      (s.merges = [(m, ⟨p, [a, b], none⟩)] → AtDestination s x → x.arrived = false → x.relaxed = false → x.acc.tent = false →
        s.lockWaiters = [] → s.feWaiters = [] → (s.port ⟨x.dest, x.src.port⟩).replies.length < 65536 →
        let old := memRead s.mem x.acc.pa 8
        ∃ s', exec .remoteRequest (on s (.num a)) = .next s' ∧ Posted s' .combineSplit (.num m) ∧
          s'.merges.get? m = some ⟨p, [a, b], some old⟩ ∧
          memRead s'.mem x.acc.pa 8 = (old + x.acc.a.toNat + y.acc.a.toNat) % 2 ^ 64 ∧
          ∀ z, ¬(x.acc.pa ≤ z ∧ z < x.acc.pa + 8) → memGet s'.mem z = memGet s.mem z) ∧
      (∀ old, s.merges.get? m = some ⟨p, [a, b], some old⟩ →
        ∃ s' x' y', exec .combineSplit (on s (.num m)) = .next s' ∧ s'.merges.get? m = none ∧ s'.reqs.get? a = some x' ∧
          s'.reqs.get? b = some y' ∧ x'.result = some (BitVec.ofNat 64 old) ∧ y'.result = some (BitVec.ofNat 64 (old + x.acc.a.toNat)) ∧
          Posted s' .memoryReply (.num a) ∧ Posted s' .memoryReply (.num b))) ∧
    -- ports and links
    (∀ p, let now := s.now p.pkg
      (∃ s', exec .replyCacheExpiry (on s (.port p)) = .next s' ∧ ∀ e, e ∈ (s'.port p).replies ↔
        e ∈ (s.port p).replies ∧ (e.until_ = 0 ∨ now < e.until_)) ∧
      ((∀ e ∈ s.reqs, ¬(e.2.held = true ∧ e.2.src = p)) → ∃ s', exec .sequenceNumberRelease (on s (.port p)) = .next s' ∧
        ∀ e, e ∈ (s'.port p).used ↔ e ∈ (s.port p).used ∧ now < e.2 + 100000) ∧
      (∃ s', exec .linkDown (on s (.port p)) = .next s' ∧ (s'.port p).up = false ∧ SameMem s s') ∧
      (∃ s', exec .linkUp (on s (.port p)) = .next s' ∧ (s'.port p).up = true ∧ SameMem s s' ∧
        ∀ e ∈ s.msgs, e.2.waiting = false → Posted s' .messageDelivery (.num e.1))) ∧
    (∀ p k, k < 17 → (s.pkg p).mgmt.links.length = 17 → ∃ s', exec .linkEvent (on s (.pkgNum p k)) = .next s' ∧
      ∀ j, (s'.pkg p).mgmt.links.getD j 0 = (s.pkg p).mgmt.links.getD j 0 + (if j = k then 1 else 0))

namespace Sys2Proof.Slice0
open Sys2Proof Sys2Proof.Machine

/-- A total saturated to 32 bits, as a code (R271, R299). -/
def sat32 (z : Int) : Nat := ((max (-2 ^ 31) (min (2 ^ 31 - 1) z)) % 2 ^ 32).toNat

/-- R281: the status word of an MLDA or MSTA: STATE 2 (done), ERR, COUNT. -/
def r281 (err count : Nat) : Word := BitVec.ofNat 64 (2 ^ 63 + err * 2 ^ 48 + count)

/-- R301: the status word of a join. -/
def r301 (x : Join) : Word :=
  let bit := fun (b : Bool) (n : Nat) => if b then 2 ^ n else 0
  let st := match x.state with | .free => 0 | .opened => 1 | .released => 2 | .settled => 3
  BitVec.ofNat 64 (bit x.close 62 + st * 2 ^ 60 + bit x.noarr 59 + bit x.nv 58 + bit x.of 57 + bit x.nx 56 + x.arrived * 2 ^ 32 +
    x.bound.length * 2 ^ 16 + x.killed.length)

/-- R292: a handle is live at a join for a partition. -/
def Live (x : Join) (j : JoinRef) (part : Nat) : Prop := x.state ≠ .free ∧ j.gen ≠ 0 ∧ x.gen = j.gen ∧ x.part = part

/-- R258, R269: elements of a slot row in a format of `b` bits, and the parts of a complex element of `2 b` bits. -/
def rowLength (f : Nat) : Nat := match elemBits f with | some b => 1024 / b | none => 0
def rePart (b c : Nat) : Int := asInt b (c % 2 ^ b)
def imPart (b c : Nat) : Int := asInt b (c / 2 ^ b % 2 ^ b)

end Sys2Proof.Slice0

/-- R260, R262, R264 to R267, R269, R271, R280 to R285: the service of a tile's matrix queue: MZERO zeroes its tile, an MMA enters the cell
array and then adds its products to every element of the tile, saturated for integer and complex formats (or sets SKIP), MLDA loads a row
of its slot and MSTA stores from its tile, each with its conversion and its status; a narrow write to a word with an uncorrectable soft
error fails with ERR 5, which is the model's reading (log 64); a lazy save writes the elements and the word of the
tile into its owner's image; a gated tile's engine stands still (R326). (Where an image lies is log 24.) -/
def Obligations.MatrixEvents : Prop :=
  ∀ (s : State) (tl : TileRef), memWf s.mem = true →
    let o := Obj.tile tl
    ((s.tile tl).point = none → ∀ i ∈ [Instr.mzeroService, .mmaStart, .mmaComplete, .mldaService, .mstaService],
      exec i (on s o) = .next (on s o)) ∧
    (∀ e es, (s.tile tl).matQ = e :: es → (s.tile tl).point ≠ none → (∀ n, (slotOf s tl n).releasing = false) → (∀ n, (accOf s tl n).releasing = false) →
      (∀ k, e.op = .mzero k → ∃ s', exec .mzeroService (on s o) = .next s' ∧ (s'.tile tl).matQ = es ∧ SameMem s s' ∧
        accOf s' tl k = { accOf s tl k with data := List.replicate ((accOf s tl k).rows * (accOf s tl k).cols) 0 } ∧
        ∀ j, j ≠ k → accOf s' tl j = accOf s tl j) ∧
      (∀ a b k cj, e.op = .mma a b k cj →
        (e.started = false → ∃ s', exec .mmaStart (on s o) = .next s' ∧ (s'.tile tl).matQ = { e with started := true } :: es ∧
          Posted s' .mmaComplete o ∧ ∀ j, accOf s' tl j = accOf s tl j) ∧
        (e.started = false → exec .mmaComplete (on s o) = .next (on s o)) ∧
        (∀ t, e.started = true → s.thread? e.tid = some t → t.status = .parked → t.wait = some (.matrix e.id) → t.sfuLeft = 0 →
          t.slot?.isSome = true →
          let x := accOf s tl k
          let sa := slotOf s tl a
          let sb := slotOf s tl b
          let code := fun (x : OpSlot) i n => (x.rows.getD i []).getD n 0
          let elem := fun (s' : State) i j => (accOf s' tl k).data.getD (i * x.cols + j) 0
          (sa.state = .loaded → sb.state = .loaded → x.data.length = x.rows * x.cols →
            let n := min (rowLength sa.fmt) (rowLength sb.fmt)
            (mmaFits sa.fmt sb.fmt x.ty cj = true → ∃ s' u, exec .mmaComplete (on s o) = .next s' ∧ (s'.tile tl).matQ = es ∧
              s'.thread? e.tid = some u ∧ u.status = .waking ∧ SameG t u [] ∧ SameMem s s' ∧
              (accOf s' tl k).data = (mmaElems x sa sb cj).map (·.1) ∧
              u.mstat = t.mstat ||| BitVec.ofNat 64 ((mmaElems x sa sb cj).foldl (fun f y => f ||| y.2) 0)) ∧
            (∀ p q, sa.fmt ≤ 1 → sb.fmt ≤ 1 → intBits sa.fmt = some p → intBits sb.fmt = some q → cj = false → x.ty = 1 →
              ∃ s', exec .mmaComplete (on s o) = .next s' ∧ ∀ i j, i < x.rows → j < x.cols → elem s' i j =
                sat32 (asInt 32 (x.data.getD (i * x.cols + j) 0) +
                  ((List.range n).map (fun l => asInt p (code sa i l) * asInt q (code sb j l))).sum)) ∧
            (∀ p q, (sa.fmt = 8 ∧ p = 8 ∨ sa.fmt = 9 ∧ p = 4) → (sb.fmt = 8 ∧ q = 8 ∨ sb.fmt = 9 ∧ q = 4) → x.ty = 2 →
              let im := fun c => if cj then -imPart q c else imPart q c
              ∃ s', exec .mmaComplete (on s o) = .next s' ∧ ∀ i j, i < x.rows → j < x.cols →
                let c := x.data.getD (i * x.cols + j) 0
                elem s' i j = sat32 (asInt 32 (c % 2 ^ 32) + ((List.range n).map (fun l =>
                    rePart p (code sa i l) * rePart q (code sb j l) - imPart p (code sa i l) * im (code sb j l))).sum) +
                  2 ^ 32 * sat32 (asInt 32 (c / 2 ^ 32) + ((List.range n).map (fun l =>
                    rePart p (code sa i l) * im (code sb j l) + imPart p (code sa i l) * rePart q (code sb j l))).sum))) ∧
          (sa.state ≠ .loaded ∨ sb.state ≠ .loaded →
            ∃ s' u, exec .mmaComplete (on s o) = .next s' ∧ (s'.tile tl).matQ = es ∧ s'.thread? e.tid = some u ∧ u.status = .waking ∧
              u.mstat = t.mstat ||| 16#64 ∧ SameG t u [] ∧ SameMem s s' ∧ accOf s' tl k = x))) ∧
      (∀ k src r d t, e.op = .mlda k src r d → Waits s e.tid t d (.matrix e.id) →
        (bits (r.getD 0 0).toNat 47 32 ≠ 1 ∨ bits (r.getD 0 0).toNat 63 48 ≠ 1 → ∃ s', exec .mldaService (on s o) = .next s' ∧
          Answered s' e.tid t d (r281 9 0) ∧ (slotOf s' tl k).state = .claimed ∧ SameMem s s') ∧
        (∀ n sf df b w ga, r = rowRecord n sf df → elemBits sf = some b → elemBits df = some w → df ≤ 10 →
          (∀ c, (moved sf df c).isSome = true) → 1 ≤ n → n ≤ rowLength df →
          (∀ i, i < n → matXlate s tl e ((src.toNat + i * b / 8) % 2 ^ 64) 0 = .ok (ga + i * b / 8)) →
          ∃ s', exec .mldaService (on s o) = .next s' ∧ Answered s' e.tid t d (r281 0 n) ∧ (slotOf s' tl k).state = .loaded ∧
            (slotOf s' tl k).fmt = df ∧ (s'.tile tl).matQ = es ∧ SameMem s s' ∧ ∃ row, (slotOf s' tl k).rows = [row] ∧ row.length = n ∧
              ∀ i, i < n → moved sf df (elemOf s ga b i) = some (row.getD i 0)) ∧
        (∀ c, r = rowRecord 1 0 0 → matXlate s tl e src.toNat 0 = .error c → ∃ s', exec .mldaService (on s o) = .next s' ∧
          Answered s' e.tid t d (r281 c 0) ∧ (slotOf s' tl k).state = .claimed ∧ SameMem s s')) ∧
      (∀ k dst n sf df d t, e.op = .msta k dst (rowRecord n sf df) d → n = 1 ∨ n = 2 → s.thread? e.tid = some t → t.slot?.isSome = true →
        plain d → (∀ x ∈ t.inbox, x.1 = true → x.2.1 ≠ d) →
        let x := accOf s tl k
        let gets := fun (v : Word) (s' : State) => exec .mstaService (on s o) = .next s' ∧ ∃ u, s'.thread? e.tid = some u ∧ u.reg d = v ∧
          u.full d = true ∧ SameG t u [d]
        let w := if x.ty = 2 then 64 else (elemBits df).getD 0
        let fits := sf = 10 + x.ty ∧ sf ≤ 12 ∧ 1 ≤ x.rows ∧ n ≤ x.cols ∧ (elemBits df).isSome = true ∧ ∀ c, (moved sf df c).isSome = true
        let root := (s.cfg tl.pkg e.part e.launch).root
        (sf < 16 → sf ≠ 10 + x.ty ∨ x.cols < n → ∃ s', gets (r281 9 0) s' ∧ SameMem s s') ∧
        (∀ c, fits → matXlate s tl e dst.toNat 1 = .error c → ∃ s', gets (r281 c 0) s' ∧ SameMem s s') ∧
        (∀ ga, fits → w < 64 → matXlate s tl e dst.toNat 1 = .ok ga → s.bad ga = true → ∃ s', gets (r281 5 0) s' ∧ SameMem s s') ∧
        (∀ ga, fits → ga % 8 = 0 → s.lockWaiters = [] → s.feWaiters = [] → (∀ i, i < n → w < 64 → s.bad (ga + i * w / 8) = false) →
          (∀ i, i < n → matXlate s tl e ((dst.toNat + i * w / 8) % 2 ^ 64) 1 = .ok (ga + i * w / 8) ∧
            (tlbFind s tl root e.part ((dst.toNat + i * w / 8) % 2 ^ 64)).isSome = true ∧ tableCached s ((ga + i * w / 8) / 8) = false) →
          ∃ s', gets (r281 0 n) s' ∧
            (∀ i, i < n → (if x.ty = 2 then some (x.data.getD i 0 % 2 ^ 64) else moved sf df (x.data.getD i 0 % 2 ^ 32)) =
              some (elemOf s' ga w i)) ∧
            ∀ p, ¬(ga ≤ p ∧ p < ga + (n * w + 7) / 8) → memGet s'.mem p = memGet s.mem p))) ∧
    (∀ k, (accOf s tl k).saving = false ∨ (s.tile tl).point = none → exec .lazySave (on s (.tileNum tl k)) = .next (on s (.tileNum tl k))) ∧
    (∀ k t home a, (accOf s tl k).saving = true → (s.tile tl).point ≠ none → k < 8 → s.thread? (accOf s tl k).owner = some t → t.place = .image home a →
      s.lockWaiters = [] → (∀ x ∈ s.threads, ∀ j d c, x.2.wait ≠ some (.lazySave j d c)) →
      let x := accOf s tl k
      let b := imageBase s home.pkg t.part a
      let n := if x.ty = 2 then 8 else 4
      n * x.data.length ≤ 16384 → ∃ s', exec .lazySave (on s (.tileNum tl k)) = .next s' ∧ (accOf s' tl k).state = .free ∧
        (∀ i, i < x.data.length → memRead s'.mem (b + 20544 + 16384 * k + n * i) n = x.data.getD i 0 % 2 ^ (8 * n)) ∧
        ∀ p q, p < 3 → q < 3 → x.rows = 16 * 2 ^ p → x.cols = 16 * 2 ^ q →
          s'.rdWord (b + 20480 + 8 * k) = BitVec.ofNat 64 (2 ^ 63 + x.ty * 16 + p * 4 + q))

/-- R292, R295 to R302, R305 to R312: what a join's home does with the requests that reach it: the refusals in order, membership, counted
arrivals, the release that writes the result and sends a kill to every member still bound, waits, close, departures, the late arrival or
EXIT of a killed member, and the end of the last pending kill, which settles the join. -/
def Obligations.JoinEvents : Prop :=
  ∀ (s : State), memWf s.mem = true →
    let killSent := fun (s' : State) (home : DieRef) (m : Nat) (y : Thread) => ∃ z, s'.thread? m = some z ∧
      z.kill = .sent home.pkg ⟨bits y.epid.toNat 26 17, bits y.epid.toNat 16 15, bits y.epid.toNat 14 7⟩ 0 ∧ Posted s' .killDelivery (.thread m)
    let retracted := fun (i : Instr) (q : Nat) (r : KeyReq) (x : Join) (s' : State) => exec i (on s (.num q)) = .next s' ∧
      s'.thread? r.tid = none ∧ s'.join ⟨r.join.pkg, r.join.die⟩ r.join.slot = x ∧ Posted s' .retractionEnd (.member r.join r.tid)
    let atHome := fun (r : KeyReq) (t : Thread) => t.status = .parked ∧ t.slot?.isSome = true ∧ t.join = some r.join ∧
      (∀ i, t.wait ≠ some (.matrix i)) ∧ ∀ e ∈ s.reqs, e.2.acc.tid ≠ r.tid
    (∀ q r t, s.keyReqs.get? q = some r → s.thread? r.tid = some t → t.pos.pkg = r.join.pkg →
      let o := Obj.num q
      let home : DieRef := ⟨r.join.pkg, r.join.die⟩
      let x := s.join home r.join.slot
      let live := Live x r.join r.part
      let after := fun (s' : State) => s'.join home r.join.slot
      (Waits s r.tid t r.d .answer →
        let gives := fun (i : Instr) (v : Word) (s' : State) => exec i (on s o) = .next s' ∧ Answered s' r.tid t r.d v ∧
          s'.keyReqs.get? q = none
        -- JQRY
        (r.op = .query → (live → ∃ s', gives .joinQuery (r301 x) s' ∧ after s' = x) ∧ (¬ live → ∃ s', gives .joinQuery (refusal 1) s')) ∧
        -- JBIND
        (∀ tent, r.op = .bind tent →
          (¬ live → ∃ s', gives .joinBindRequest (refusal 1) s') ∧
          (live → x.state ≠ .opened → ∃ s', gives .joinBindRequest (refusal 2) s') ∧
          (live → x.state = .opened → x.n ≤ x.binds → ∃ s', gives .joinBindRequest (refusal 3) s') ∧
          (live → x.state = .opened → x.binds < x.n → t.join ≠ none → ∃ s', gives .joinBindRequest (refusal 4) s') ∧
          (live → x.state = .opened → x.binds < x.n → t.join = none → 16384 ≤ dirUsed s home → ∃ s', gives .joinBindRequest (refusal 5) s') ∧
          (live → x.state = .opened → x.binds < x.n → t.join = none → dirUsed s home < 16384 →
            let y := { x with binds := x.binds + 1, bound := x.bound ++ [r.tid] }
            ∃ s' u, gives .joinBindRequest (r301 y) s' ∧ after s' = y ∧ s'.thread? r.tid = some u ∧ u.join = some r.join ∧
              (tent = true → u.tent = true) ∧ bits u.tlog.toNat 42 32 = t.tlog.toNat % 2 ^ 11)) ∧
        -- JWAIT
        (∀ set, r.op = .wait set →
          (¬ live → ∃ s', gives .joinWaitRequest (refusal 1) s') ∧
          (live → x.state = .settled ∨ (x.state = .released ∧ set = false) → ∃ s', gives .joinWaitRequest (r301 x) s') ∧
          (live → x.state = .opened ∨ (x.state = .released ∧ set = true) → ∃ s' u, exec .joinWaitRequest (on s o) = .next s' ∧
            s'.thread? r.tid = some u ∧ u.wait = some (.joinWait r.d r.join set) ∧ u.status = .parked ∧ Same t u ∧
            after s' = { x with waiters := x.waiters ++ [(r.tid, r.d, set)] })) ∧
        -- JCLOSE
        (r.op = .close →
          (¬ live → ∃ s', gives .joinCloseRequest (refusal 1) s') ∧
          (live → x.state = .released → ∃ s', gives .joinCloseRequest (r301 { x with close := true }) s' ∧
            after s' = { x with close := true }) ∧
          (live → x.state = .settled → ∃ s', gives .joinCloseRequest (r301 { x with close := true, state := .free }) s' ∧
            after s' = { Join.init with gen := x.gen }) ∧
          -- on an OPEN join of one I32 element
          (∀ a c, live → a < 2 ^ 32 → x.state = .opened → x.ty = 1 → x.fill = 0 → x.len = 1 → x.acc = [a] → x.res = [8 * c] → x.waiters = [] →
            s.lockWaiters = [] → s.feWaiters = [] →
            (x.bound = [] → ∃ s', gives .joinCloseRequest (r301 { x with close := true, state := .free, killed := [], noarr := false }) s' ∧
              after s' = { Join.init with gen := x.gen } ∧ memRead s'.mem (8 * c) 8 = a ∧ feGet s'.fe c = true) ∧
            (∀ m y, x.bound = [m] → m ≠ r.tid → s.thread? m = some y →
              let z := { x with close := true, state := .released, bound := [], killed := [m], noarr := false }
              ∃ s', gives .joinCloseRequest (r301 z) s' ∧ after s' = z ∧ killSent s' home m y ∧ memRead s'.mem (8 * c) 8 = a ∧
                feGet s'.fe c = true))) ∧
        -- JARR, counted
        (∀ xs w, r.op = .arrive xs w → x.state = .opened → r.tid ∈ x.bound → x.arrived + 1 ≠ x.k → x.ty = 1 → x.fill ≠ 3 →
          xs.length = x.acc.length →
          ∃ s' u, gives .joinArrival (r301 (after s')) s' ∧ s'.thread? r.tid = some u ∧ u.join = none ∧ u.tent = false ∧
            (after s').arrived = x.arrived + 1 ∧ (after s').warr = x.warr + w ∧ (after s').bound = x.bound.erase r.tid ∧
            (after s').state = .opened ∧ (after s').acc.length = x.acc.length ∧
            ∀ e, e < x.acc.length → (after s').acc.getD e 0 = sat32 (asInt 32 (x.acc.getD e 0) + asInt 32 (xs.getD e 0))) ∧
        -- JARR, the one that completes the quorum of a join of one I32 element
        (∀ v w a c, r.op = .arrive [v] w → x.state = .opened → x.bound = [r.tid] → x.arrived + 1 = x.k → x.ty = 1 → x.fill = 0 →
          x.len = 1 → x.acc = [a] → x.res = [8 * c] → x.waiters = [] → s.lockWaiters = [] → s.feWaiters = [] →
          ∃ s', gives .joinArrival (r301 (after s')) s' ∧ (after s').state = .settled ∧
            memRead s'.mem (8 * c) 8 = sat32 (asInt 32 a + asInt 32 v) ∧ feGet s'.fe c = true ∧
            ∀ p, ¬(8 * c ≤ p ∧ p < 8 * c + 8) → memGet s'.mem p = memGet s.mem p) ∧
        -- the same with one member left, which is killed
        (∀ v w a c m y, r.op = .arrive [v] w → x.state = .opened → x.bound = [r.tid, m] → m ≠ r.tid → s.thread? m = some y →
          x.arrived + 1 = x.k → x.ty = 1 → x.fill = 0 → x.len = 1 → x.acc = [a] → x.res = [8 * c] → x.waiters = [] → s.lockWaiters = [] →
          s.feWaiters = [] → ∃ s', gives .joinArrival (r301 (after s')) s' ∧ (after s').state = .released ∧ (after s').bound = [] ∧
            (after s').killed = [m] ∧ killSent s' home m y ∧ memRead s'.mem (8 * c) 8 = sat32 (asInt 32 a + asInt 32 v)) ∧
        -- JARR of a member that the release has killed
        (∀ xs w, r.op = .arrive xs w → x.state ≠ .opened →
          (t.khold = true ∨ t.priv = 2 → ∃ s', gives .joinArrival (refusal 7) s' ∧ after s' = x ∧ SameMem s s') ∧
          (t.khold = false → t.priv ≠ 2 → atHome r t → ∃ s', retracted .joinArrival q r x s'))) ∧
      -- an EXIT of such a member
      (r.op = .depart → x.state ≠ .opened →
        (atHome r t → ∃ s', retracted .joinDeparture q r x s') ∧
        (t.status = .halted → t.slot?.isSome = true → ∃ s' u, exec .joinDeparture (on s o) = .next s' ∧ s'.thread? r.tid = some u ∧
          u.kill = .held ∧ Same t u)) ∧
      -- a member's EXIT
      (r.op = .depart → x.state = .opened → r.tid ∈ x.bound → x.k ≤ x.n - (x.departed + 1) →
        ∃ s', exec .joinDeparture (on s o) = .next s' ∧ s'.thread? r.tid = none ∧
          after s' = { x with bound := x.bound.erase r.tid, departed := x.departed + 1 })) ∧
    (∀ q r t, s.keyReqs.get? q = some r → s.thread? r.tid = some t → t.pos.pkg ≠ r.join.pkg →
      routePort s t.pos.pkg r.part t.launch r.join.pkg = none → ∀ i ∈ [Instr.joinBindRequest, .joinArrival, .joinWaitRequest,
        .joinCloseRequest, .joinQuery, .joinDeparture], exec i (on s (.num q)) = .next (on s (.num q))) ∧
    (∀ j k, let home : DieRef := ⟨j.pkg, j.die⟩
      let x := s.join home j.slot
      let o := Obj.member j k
      (x.gen ≠ j.gen ∨ k ∉ x.killed → exec .retractionEnd (on s o) = .next (on s o)) ∧
      (x.gen = j.gen → k ∈ x.killed → x.state = .released →
        (x.killed.erase k ≠ [] → ∃ s', exec .retractionEnd (on s o) = .next s' ∧
          s'.join home j.slot = { x with killed := x.killed.erase k }) ∧
        (x.killed.erase k = [] → x.waiters = [] → x.close = false → ∃ s', exec .retractionEnd (on s o) = .next s' ∧
          s'.join home j.slot = { x with killed := [], state := .settled }) ∧
        (x.killed.erase k = [] → x.waiters = [] → x.close = true → ∃ s', exec .retractionEnd (on s o) = .next s' ∧
          s'.join home j.slot = { Join.init with gen := x.gen })))

namespace Sys2Proof.Slice0
open Sys2Proof Sys2Proof.Machine

/-- R326, R339, R408, R410: a tile may run at a point that its cap, the clock plan and its margins allow and its shares pay for. -/
def mayRun (s : State) (tl : TileRef) (shares q : Nat) : Prop :=
  q < 16 ∧ q ≤ ((tileCap s tl).map (·.2)).getD 15 ∧ clockClear (s.pkg tl.pkg).clkplan (pointMHz q) = true ∧
    q ∉ (s.tile tl).disabled ∧ (s.tile tl).costs.getD q 0 ≤ shares

/-- The highest such point. -/
def Highest (s : State) (tl : TileRef) (shares q : Nat) : Prop := mayRun s tl shares q ∧ ∀ r, q < r → ¬ mayRun s tl shares r

/-- Shares on their way to an account (R323, R333). -/
def coming (s : State) (d : ShareDest) : Nat := ((s.transits.filter (fun e => e.2.dest == d)).map (·.2.amount)).sum

/-- Slack of a pool on its way to the tiles that it is lent to (R337). -/
def slackSent (s : State) (p : PartRef) : Nat :=
  ((s.transits.filter (fun e => match e.2.dest with | .slack q _ => q == p | _ => false)).map (·.2.amount)).sum

/-- The shares are in flight to an account, which they will be credited to (R333). -/
def Sent (s : State) (n : Nat) (d : ShareDest) : Prop :=
  ∃ id, s.transits.get? id = some ⟨n, d, none⟩ ∧ Posted s .shareCredit (.num id)

end Sys2Proof.Slice0

/-- R326 to R337, R409, R421: the Truss events: what a crew lends follows whether it is blocked, what its pool holds for it is paid out again,
shares are in flight between a debit and its credit and none is lost, a tile runs at the highest point that it may once no droop holds it,
a gated tile draws its floor from the reserve and restarts, a cycle raises one event, slack is lent out of a pool and comes back to it.
(When such an event is due is the model's choice, log 25; what the rules leave open of accounts, cycles and cuts, and that a debit waits
while a droop holds the point, is log 51, and that a pool in debt is paid out of parked surplus log 35.) -/
def Obligations.TrussEvents : Prop :=
  ∀ (s : State), memWf s.mem = true → (∀ id, s.fresh ≤ id → s.transits.get? id = none) →
    (∀ c x, s.crew? c = some x → let o := Obj.crew c
      (x.retired = false →
        ∃ s' y, exec .crewBlockedChange (on s o) = .next s' ∧ s'.crew? c = some y ∧ y.blocked = blockedNow s c ∧
          y.targets = (if blockedNow s c then targetsNow s c else []) ∧ SameMem s s' ∧
          (x.waiting = false ∨ x.heldBack = true ∨ x.away = 0 → y.own = x.own ∧ y.away = x.away) ∧
          (x.waiting = true → x.heldBack = false → x.away ≠ 0 → x.away ≤ (s.part ⟨c.pkg, x.part⟩).pool →
            y.own = x.own - x.away ∧ y.away = 0 ∧ Sent s' x.away (.own c)) ∧
          (blockedNow s c = false → (∀ l ∈ s.loans, l.at_ ≠ .pool) →
            (∀ l ∈ s'.loans, l.owner = c → l.inFlight = true ∨ l.target = .crew c) ∧
            ∀ l ∈ s.loans, l.owner = c → l.at_ = .held → l.target ≠ .crew c →
              ∃ k ∈ s'.loans, k.owner = c ∧ k.amount = l.amount ∧ k.target = .crew c ∧ k.at_ = .flight)) ∧
      (∀ d y, blockedNow s c = true → targetsNow s c = [.crew d] → s.loans = [] → x.retired = false → x.waiting = false →
        x.heldBack = false → x.away = 0 → x.own ≠ 0 → d ≠ c → s.crew? d = some y → y.blocked = false → pointHeld s c.tileRef = false →
        ∃ s', exec .crewBlockedChange (on s o) = .next s' ∧
          s'.loans = [⟨s.fresh, c, [c, d], .crew d, x.own, .flight, 0, none⟩] ∧ Posted s' .shareCredit (.num s.fresh)) ∧
      (x.retired = true → (∀ l ∈ s.loans, l.at_ ≠ .pool) → ∃ s', exec .crewBlockedChange (on s o) = .next s' ∧ SameMem s s' ∧
        ∀ l ∈ s.loans, l.owner = c → l.inFlight = false →
          ∃ k ∈ s'.loans, k.owner = c ∧ k.amount = l.amount ∧ k.target = .crew c ∧ k.at_ = .flight)) ∧
    (∀ id, let o := Obj.num id
      ((∀ l ∈ s.loans, l.id = id → l.inFlight = false) → s.transits.get? id = none → exec .shareCredit (on s o) = .next (on s o)) ∧
      -- a loan's shares
      (∀ l x, s.loans = [l] → l.id = id → l.inFlight = true → l.amount ≠ 0 → s.crew? l.owner = some x →
        let p : PartRef := ⟨l.owner.pkg, x.part⟩
        let gone := { s with loans := [] }
        let landed := { l with at_ := .held, credited := s.fresh }
        (∀ tl, l.leaves = some tl → pointHeld s tl = true → exec .shareCredit (on s o) = .next (on s o)) ∧
        (l.leaves = none → x.retired = false → (∀ q, (s.part q).debt = 0) → (∀ d ∈ l.trail, crewGone s d = false) →
          (l.at_ = .flight → l.target = .crew l.owner → x.heldBack = false → ∃ s', exec .shareCredit (on s o) = .next s' ∧
            s'.loans = [] ∧ s'.crew? l.owner = some x ∧ SameMem s s') ∧
          (∀ d, l.at_ = .flight → l.target = .crew d → d ≠ l.owner → l.trail.getLast? = some d → receives s l.owner d = true →
            (s.tile d.tileRef).slackIn = [] → excess { gone with loans := [landed] } d.tileRef = 0 →
            ∃ s', exec .shareCredit (on s o) = .next s' ∧ s'.loans = [landed] ∧ SameMem s s') ∧
          ((l.at_ = .toPool ∨ ∃ d, l.target = .span d) → (s.parts.get? p).isSome = true → ∃ s', exec .shareCredit (on s o) = .next s' ∧
            s'.loans = [{ landed with at_ := .pool, leaves := none }] ∧ (s'.part p).pool = (s.part p).pool + l.amount ∧
            s'.crew? l.owner = some x ∧ SameMem s s')) ∧
        (l.leaves = none → x.retired = true → (s.parts.get? p).isSome = true → ∃ s' y, exec .shareCredit (on s o) = .next s' ∧
          s'.loans = [] ∧ s'.crew? l.owner = some y ∧ y.own = x.own - l.amount ∧
          (s'.part p).pool + (s.part p).debt = (s.part p).pool + (s'.part p).debt + l.amount)) ∧
      ((∀ q, (s.part q).debt = 0) → (∀ e ∈ s.crews, e.2.retired = false ∧ e.2.heldBack = false) →
        (∀ l ∈ s.loans, ∀ c ∈ l.owner :: l.trail, (s.crew? c).isSome = true) → ((s.loans.filter (·.inFlight)).map (·.id)).Nodup →
        ∃ s', exec .shareCredit (on s o) = .next s' ∧ SameMem s s' ∧ (s'.loans.map (·.amount)).sum = ((s.loans.filter (fun l =>
          !(l.id == id && l.at_ == .flight && l.leaves == none && l.target == .crew l.owner))).map (·.amount)).sum) ∧
      -- shares that are no loan
      (∀ x, (∀ l ∈ s.loans, l.id = id → l.inFlight = false) → s.transits.get? id = some x →
        (∀ tl, x.leaves = some tl → pointHeld s tl = true → exec .shareCredit (on s o) = .next (on s o)) ∧
        (x.leaves = none →
          (∀ p, x.dest = .pool p → (s.parts.get? p).isSome = true → ∃ s', exec .shareCredit (on s o) = .next s' ∧
            s'.transits.get? id = none ∧ (s'.part p).debt = (s.part p).debt - x.amount ∧
            (s'.part p).pool = (s.part p).pool + (x.amount - (s.part p).debt)) ∧
          (∀ c y, x.dest = .own c → s.crew? c = some y → y.retired = false → y.heldBack = false → ∃ s' z,
            exec .shareCredit (on s o) = .next s' ∧ s'.transits.get? id = none ∧ s'.crew? c = some z ∧ z.own = y.own + x.amount) ∧
          (∀ tl, x.dest = .floor tl → ∃ s', exec .shareCredit (on s o) = .next s' ∧ s'.transits.get? id = none ∧
            (s'.tile tl).floor = (s.tile tl).floor + x.amount) ∧
          (∀ k, x.dest = .reserve k → ∃ s', exec .shareCredit (on s o) = .next s' ∧ s'.transits.get? id = none ∧
            (s'.pkg k).reserve = (s.pkg k).reserve + x.amount)))) ∧
    (∀ tl, goneTile s tl = false → (s.tile tl).newCosts = none → let o := Obj.tile tl
      ((s.tile tl).point ≠ none → (s.tile tl).floor = 0 → excess s tl = 0 → pointHeld s tl = true →
        exec .pointStepDone (on s o) = .next (on s o)) ∧
      ((s.tile tl).point ≠ none → (s.tile tl).floor = 0 → excess s tl = 0 → pointHeld s tl = false → ∃ s', exec .pointStepDone (on s o) = .next s' ∧
        (∀ q, (s'.tile tl).point = some q ↔ Highest s tl (held s tl) q)) ∧
      ((s.tile tl).point = none → 8 ≤ held s tl → ∀ q, Highest s tl (held s tl) q → ∃ s', exec .tileRestart (on s o) = .next s' ∧
        (s'.tile tl).point = some q ∧ Posted s' .copyChunk o) ∧
      ((s.tile tl).point = none → held s tl = 0 → floorCalled s tl = true → coming s (.floor tl) = 0 → 8 ≤ (s.pkg tl.pkg).reserve →
        ∃ s', exec .tileRestart (on s o) = .next s' ∧ Sent s' 8 (.floor tl) ∧ (s'.pkg tl.pkg).reserve = (s.pkg tl.pkg).reserve - 8) ∧
      ((s.tile tl).point ≠ none → exec .tileRestart (on s o) = .next (on s o))) ∧
    ((∃ s', exec .cycleDetect (on s .none) = .next s' ∧ s'.cycles = cyclesNow s ∧ SameMem s s') ∧
      (∀ c cs, cyclesNow s = [c :: cs] → s.cycles = [] → ∃ s' e, exec .cycleDetect (on s .none) = .next s' ∧
        s'.sysEvents = s.sysEvents ++ [e] ∧ e.kind = 1 ∧ e.record.getD 0 0 = BitVec.ofNat 64 (s.now c.pkg) ∧
        bits (e.record.getD 1 0).toNat 7 0 = min (cs.length + 1) 255 ∧ bits (e.record.getD 2 0).toNat 31 0 = c.id26 % 2 ^ 32) ∧
      (cyclesNow s = s.cycles → ∃ s', exec .cycleDetect (on s .none) = .next s' ∧ s'.sysEvents = s.sysEvents)) ∧
    (∀ p, let out := fun (z : State) => ((z.part p).slackOut.map (·.2)).sum
      ((s.part p).slack = true → (s.part p).debt = 0 → ∃ s', exec .slackLend (on s (.part p)) = .next s' ∧
        (s'.part p).pool + slackSent s' p = (s.part p).pool + slackSent s p ∧ out s' = out s ∧ SameMem s s') ∧
      ((s.part p).slack = false ∨ (s.part p).debt ≠ 0 → exec .slackLend (on s (.part p)) = .next (on s (.part p))) ∧
      (∃ s', exec .slackReclaim (on s (.part p)) = .next s' ∧ (s'.part p).slackOut = [] ∧ (s'.part p).pool = (s.part p).pool ∧
        coming s' (.pool p) = coming s (.pool p) + out s ∧ (∀ e ∈ (s.part p).slackOut, ∀ x ∈ (s'.tile e.1).slackIn, x.1 ≠ p.part)))

namespace Sys2Proof.Slice0
open Sys2Proof Sys2Proof.Machine

/-- R146: the firmware has been entered for a hypercall of a resident thread. -/
def Hypercall (s : State) (tid : Nat) (t : Thread) (code : Nat) : Prop :=
  s.thread? tid = some t ∧ t.status = .ready ∧ t.priv = 2 ∧ bits t.ecause.toNat 7 0 = 0x20 ∧ bits t.estat.toNat 1 0 = 1 ∧
    bits t.ecause.toNat 19 8 = code ∧ t.slot?.isSome = true ∧ (∀ e ∈ t.inbox, e.1 = true → e.2.1 ≠ 3) ∧ t.epc.toNat % 8 = 0

/-- R146: the firmware's answer: g3, and the thread after its TRAP. -/
def Returns (s' : State) (tid : Nat) (t : Thread) (v : Word) : Prop :=
  ∃ u, s'.thread? tid = some u ∧ u.reg 3 = v ∧ u.pc = t.epc ∧ SameG t u [3]

end Sys2Proof.Slice0

/-- R118, R119, R124, R381 to R384, R388 to R392: the dispatcher: the first failing check answers a submission with its reason, an
accepted one with its launch ID; a claim takes the pool's shares and starts every thread of the launch at its entry; a launch with
nothing outstanding completes, in the table or to the LWAIT that waits for it; a partition's reset leaves none of its threads, crews and
open joins, and its launches complete together once nothing that they began is left (R391, R397). (In which turn a claim is made is
log 2.) -/
def Obligations.DispatcherEvents : Prop :=
  ∀ (s : State), memWf s.mem = true →
    (∀ q tid d pkg part ws tr t, s.subs.get? q = some ⟨.thread tid d, pkg, part, ws, tr, true⟩ → Waits s tid t d .answer →
      ∃ s', exec .launchCheck (on s (.num q)) = .next s' ∧ Answered s' tid t d (refusal 12) ∧ s'.launches = s.launches ∧ SameMem s s') ∧
    (∀ q tid d pkg part ws tr t, s.subs.get? q = some ⟨.thread tid d, pkg, part, ws, tr, false⟩ → Waits s tid t d .answer →
      let o := Obj.num q
      let x := s.part ⟨pkg, part⟩
      let verdict := checkRecord s pkg part t.priv ws
      let id := part * 2 ^ 28 + pkg * 2 ^ 18 + (if x.seq < 262143 then x.seq + 1 else 1)
      (∀ k, verdict = .error k → ∃ s', exec .launchCheck (on s o) = .next s' ∧ Answered s' tid t d (refusal k) ∧
        s'.launches = s.launches ∧ SameMem s s') ∧
      (∀ ts, verdict = .ok ts → s.launches.get? id = none → ∃ s' l, exec .launchCheck (on s o) = .next s' ∧ Answered s' tid t d (BitVec.ofNat 64 id) ∧
        s'.launches.get? id = some l ∧ l.words = ws ∧ l.trees = ts ∧ l.started = false ∧
        (∀ k y, s.parts.get? ⟨k, part⟩ = some y → l.cfgs.get? k = some y.cfg) ∧
        (s'.part ⟨pkg, part⟩).completions.get? id = some none ∧ Posted s' .launchClaim .none ∧ SameMem s s') ∧
      (recResv ws = true → verdict = .error 1) ∧
      (recResv ws = false → (ws.getD 0 0).toNat = 0 ∨ (ws.getD 0 0).toNat % 8 ≠ 0 → verdict = .error 2) ∧
      (recResv ws = false → (ws.getD 0 0).toNat ≠ 0 → (ws.getD 0 0).toNat % 8 = 0 → bits (ws.getD 2 0).toNat 52 48 < x.pfloor →
        verdict = .error 3)) ∧
    (∀ id x pkg y, s.launches = [(id, x)] → s.pkgs = [(pkg, y)] → x.pkgs = [pkg] → x.claimed = [] → x.started = false →
      x.threads = 0 → claimReady s x pkg 0 = true →
      let p : PartRef := ⟨pkg, x.part⟩
      let shares := bits (x.words.getD 2 0).toNat 63 56
      claimCost x + poolReserved s p ≤ (s.part p).pool →
      ∃ s' x', exec .launchClaim (on s .none) = .next s' ∧ s'.launches.get? id = some x' ∧ x'.started = true ∧
        x'.threads = (claimSlots x pkg).length ∧ (s'.part p).pool = (s.part p).pool - claimCost x ∧ SameMem s s' ∧
        ∀ a ∈ claimSlots x pkg, (∃ e ∈ s'.threads, e.2.place = .slot a ∧ e.2.status = .ready ∧ e.2.pc = x.words.getD 0 0 ∧
            e.2.reg 1 = x.words.getD 1 0 ∧ e.2.priv = 0 ∧ e.2.launch = id) ∧
          ∃ c, s'.crew? (a.crewRef id) = some c ∧ c.own = shares) ∧
    (s.launches = [] → exec .launchClaim (on s .none) = .next (on s .none)) ∧
    (∀ id x, s.launches.get? id = some x →
      let o := Obj.num id
      let p : PartRef := ⟨x.pkg, x.part⟩
      let w : Word := BitVec.ofNat 64 (min x.nkill 65535 * 2 ^ 32 + id)
      let done := x.started = true ∧ x.threads = 0 ∧ x.packets = 0
      (¬ done → exec .launchComplete (on s o) = .next (on s o)) ∧
      (done → x.reset = true → (∃ e ∈ s.launches, e.2.part = x.part ∧ e.2.threads ≠ 0) →
        exec .launchComplete (on s o) = .next (on s o)) ∧
      (done → x.reset = true → (∀ e ∈ s.launches, e.2.part = x.part → e.2.threads = 0) →
        ∃ s', exec .launchComplete (on s o) = .next s' ∧ (∀ e ∈ s'.launches, e.2.part ≠ x.part) ∧ Posted s' .launchClaim .none) ∧
      (done → x.reset = false → (s.parts.get? p).isSome = true → (x.words.getD 3 0).getLsbD 42 = false →
        ((∀ e ∈ s.threads, ∀ d k, e.2.wait ≠ some (.lwait d k)) → ∃ s', exec .launchComplete (on s o) = .next s' ∧
          s'.launches.get? id = none ∧ (s'.part p).completions.get? id = some (some w) ∧ SameMem s s') ∧
        (∀ tid t d, s.threads = [(tid, t)] → Waits s tid t d (.lwait d id) → t.part = x.part →
          ∃ s', exec .launchComplete (on s o) = .next s' ∧ s'.launches.get? id = none ∧ Answered s' tid t d w ∧
            (s'.part p).completions.get? id = none))) ∧
    (∀ p, (s.parts.get? p).isSome = true → ∃ s', exec .partitionReset (on s (.part p)) = .next s' ∧
      (∀ e ∈ s'.threads, e.2.part ≠ p.part) ∧ (∀ e ∈ s'.joins, e.2.part = p.part → e.2.state = .free) ∧
      (∀ c x, s'.crew? c = some x → c.pkg = p.pkg → x.part ≠ p.part) ∧ (s'.part p).slackOut = [] ∧
      ((∃ e ∈ s'.launches, e.2.part = p.part ∧ e.2.reset = true ∧ e.2.threads ≠ 0) ∨
        ((∀ e ∈ s'.launches, e.2.part ≠ p.part) ∧ (s'.part p).resetting = false ∧ Posted s' .launchClaim .none)))

/-- R129, R146, R385, R387, R395 to R398, R401, R402, R414: the registers of a partition function and of function 0, the event ring, and
the hypercalls: staged records and packets are submitted, queues close, an entry is written to the host's ring with its number, then
the notify word, then the vector; HVER, PTEGET and PTEBITS answer in g3. (The layout of a function's registers' names as objects of a
turn is log 2, the firmware's turn in a hypercall log 16, host memory log 18; the slot of the entry numbered SEQ, (SEQ − 1) mod 2^k, and that
an ERCONS above SEQ counts as an empty ring, are the model's reading, log 40.) -/
def Obligations.HostRegistersAndHypercalls : Prop :=
  ∀ (s : State) (p : PartRef) (x : Part), memWf s.mem = true → s.parts.get? p = some x →
    let reg := fun (off : Nat) (w : Word) => Obj.reg p.pkg (p.part + 1) off w
    let unread := x.erCons < x.erSeq
    let takes := fun (i : Instr) (o : Obj) (y : Part) => ∃ s', exec i (on s o) = .next s' ∧ s'.part p = y ∧ SameMem s s'
    let drops : Part := { x with lmDrop := min 65535 (x.lmDrop + 1) }
    -- the event ring (R395)
    (∀ e rest, x.held = e :: rest → 4 ≤ x.erSize → x.erSize ≤ 16 → x.erSeq - x.erCons < 2 ^ x.erSize →
      let at_ := x.erBase.toNat + x.erSeq % 2 ^ x.erSize * 64
      let host := 2 ^ 63 + p.pkg * 2 ^ 52
      x.erNote.toNat + 8 ≤ at_ ∨ at_ + 64 ≤ x.erNote.toNat →
      ∃ s', exec .eventRingWrite (on s (.part p)) = .next s' ∧ (s'.part p).erSeq = x.erSeq + 1 ∧ (s'.part p).held = rest ∧
        s'.rdWord (host + at_) = BitVec.ofNat 64 (e.ty + (x.erSeq + 1) * 2 ^ 16) ∧
        s'.rdWord (host + at_ + 8) = BitVec.ofNat 64 e.time ∧ s'.rdWord (host + at_ + 16) = e.w0 ∧ s'.rdWord (host + at_ + 24) = e.w1 ∧
        s'.rdWord (host + x.erNote.toNat) = BitVec.ofNat 64 (x.erSeq + 1) ∧
        (s'.pkg p.pkg).vectors = (s.pkg p.pkg).vectors ++ (if x.erIntc then [p.part + 1] else [])) ∧
    (x.held = [] ∨ x.erSize < 4 ∨ 2 ^ x.erSize ≤ x.erSeq - x.erCons →
      exec .eventRingWrite (on s (.part p)) = .next (on s (.part p))) ∧
    -- registers (R401, R402)
    (∀ w, (x.lmBusy = false → ∃ s' q, exec .lmdoor (on s (reg 0x80 w)) = .next s' ∧ Posted s' .launchCheck (.num q) ∧
        s'.subs.get? q = some ⟨.host p (w.toNat % 2 ^ 32), p.pkg, p.part, x.lmrec, none, false⟩ ∧ (s'.part p).lmBusy = true ∧
        (s'.part p).lmDone = false) ∧
      (x.lmBusy = true → takes .lmdoor (reg 0x80 w) drops) ∧
      (x.hpBusy = false → takes .hpdoor (reg 0x100 w) { x with hpBusy := true, hpDoor := w.toNat }) ∧
      (x.hpBusy = true → takes .hpdoor (reg 0x100 w) drops) ∧
      takes .ercons (reg 0x158 w) { x with erCons := w.toNat } ∧
      (¬ unread → 4 ≤ w.toNat → w.toNat ≤ 16 → takes .ersize (reg 0x148 w) { x with erSize := w.toNat }) ∧
      (unread ∨ w.toNat < 4 ∨ 16 < w.toNat → exec .ersize (on s (reg 0x148 w)) = .next (on s (reg 0x148 w))) ∧
      (w = 0x525354#64 → ∃ s', exec .preset (on s (reg 0x1C0 w)) = .next s' ∧ (s'.part p).resetting = true ∧
        (∀ q y, s.subs.get? q = some y → y.part = p.part → ∃ z, s'.subs.get? q = some z ∧ z.reset = true) ∧
        Posted s' .partitionReset (.part p)) ∧
      (w ≠ 0x525354#64 → exec .preset (on s (reg 0x1C0 w)) = .next (on s (reg 0x1C0 w))) ∧
      (∀ k, k < 16 → x.lmBusy = false → takes .registerWrite (reg (8 * k) w) { x with lmrec := x.lmrec.set k w }) ∧
      (∀ k, k < 16 → x.lmBusy = true → takes .registerWrite (reg (8 * k) w) drops) ∧
      (∀ k, k < 8 → x.hpBusy = false → takes .registerWrite (reg (0xC0 + 8 * k) w) { x with hpkt := x.hpkt.set k w }) ∧
      (¬ unread → w.toNat % 4096 = 0 → takes .registerWrite (reg 0x140 w) { x with erBase := w }) ∧
      (¬ unread → w.toNat % 8 = 0 → takes .registerWrite (reg 0x150 w) { x with erNote := w }) ∧
      takes .registerWrite (reg 0x160 w) { x with erIntc := w.getLsbD 0 } ∧
      ((s.pkg p.pkg).ready = true → ∃ s', exec .registerWrite (on s (.reg p.pkg 0 0x18 w)) = .next s' ∧ (s'.pkg p.pkg).mgmt.intc = w.toNat % 4)) ∧
    -- the packet doorbell and the close of a queue (R385, R387)
    (x.hpBusy = true →
      let q : TaskQueueRef := ⟨p.pkg, bits (BitVec.ofNat 64 x.hpDoor).toNat 7 6, bits (BitVec.ofNat 64 x.hpDoor).toNat 5 0⟩
      let k := s.taskQueue q
      let ends := fun (r : Nat) (s' : State) => exec .hpdoor (on s (.part p)) = .next s' ∧ (s'.part p).hpResult = r ∧
        (s'.part p).hpBusy = false
      (k.part ≠ some p.part ∨ k.isOpen = false → ∃ s', ends 2 s' ∧ s'.taskQueue q = k) ∧
      (k.part = some p.part → k.isOpen = true → badPacket x.hpkt → ∃ s', ends 3 s' ∧ s'.taskQueue q = k) ∧
      (k.part = some p.part → k.isOpen = true → ¬ badPacket x.hpkt →
        (256 ≤ k.packets.length → ∃ s', ends 1 s' ∧ s'.taskQueue q = k) ∧
        (k.packets.length < 256 → k.waiters = [] → k.posters = [] →
          ∃ s', ends 0 s' ∧ (s'.taskQueue q).packets = k.packets ++ [⟨x.hpkt, none⟩]))) ∧
    (∀ w, let q : TaskQueueRef := ⟨p.pkg, bits w.toNat 7 6, bits w.toNat 5 0⟩
      let k := s.taskQueue q
      let o := reg 0x180 w
      (k.part ≠ some p.part ∨ k.isOpen = false → exec .tqclose (on s o) = .next (on s o)) ∧
      (∀ tid t d, k.part = some p.part → k.isOpen = true → k.waiters = [tid] → k.posters = [] → Waits s tid t d (.tnext d q) →
        ∃ s' u, exec .tqclose (on s o) = .next s' ∧ (s'.taskQueue q).isOpen = false ∧ (s'.taskQueue q).waiters = [] ∧
          s'.thread? tid = some u ∧ u.reg d = 0 ∧ u.full d = true ∧ u.status = .waking)) ∧
    -- hypercalls (R146)
    (∀ tid t, let me := Obj.thread tid
      let leaf := leafOf s t (t.reg 3)
      let set := t.reg 4
      let clr := t.reg 5
      (Hypercall s tid t 0x800 → ∃ s', exec .hver (on s me) = .next s' ∧ Returns s' tid t 1 ∧ SameMem s s') ∧
      (Hypercall s tid t 0x802 → (leaf = none → ∃ s', exec .pteget (on s me) = .next s' ∧ Returns s' tid t 0 ∧ SameMem s s') ∧
        (∀ w e, leaf = some (w, e) → ∃ s', exec .pteget (on s me) = .next s' ∧ Returns s' tid t e ∧ SameMem s s')) ∧
      (Hypercall s tid t 0x801 →
        let named := (set ||| clr) &&& 0xFFFFFFFFFFFFFF3F#64 ≠ 0 ∨ set &&& clr ≠ 0
        (named → ∃ s', exec .ptebits (on s me) = .next s' ∧ Returns s' tid t 3 ∧ SameMem s s') ∧
        (¬ named → leaf = none → ∃ s', exec .ptebits (on s me) = .next s' ∧ Returns s' tid t 1 ∧ SameMem s s') ∧
        (∀ w e, ¬ named → leaf = some (w, e) →
          let e' := (e ||| set) &&& ~~~clr
          let ok := fun (b up down : Nat) => e'.getLsbD b = e.getLsbD b ∨
            (if e'.getLsbD b then bitAt (s.cfgOf t).ptepol up = true else bitAt (s.cfgOf t).ptepol down = true)
          (ok 7 0 1 → ok 6 2 3 → s.lockWaiters = [] → s.feWaiters = [] → ∃ s', exec .ptebits (on s me) = .next s' ∧ Returns s' tid t 0 ∧
            s'.rdWord (8 * w) = e' ∧ ∀ a, ¬(8 * w ≤ a ∧ a < 8 * w + 8) → memGet s'.mem a = memGet s.mem a) ∧
          (¬ (ok 7 0 1 ∧ ok 6 2 3) → ∃ s', exec .ptebits (on s me) = .next s' ∧ Returns s' tid t 2 ∧ SameMem s s')))) ∧
    -- the hypervisor's assignment of a hardware queue (R129)
    (∀ tl q n, (q < 16 → ∃ s', exec .tileQueueAssign (on s (.tileNums tl q n)) = .next s' ∧
        s'.hwQueue tl q = ⟨if n < 14 then some n else none, []⟩) ∧
      (16 ≤ q → exec .tileQueueAssign (on s (.tileNums tl q n)) = .next (on s (.tileNums tl q n))))

namespace Sys2Proof.Slice0
open Sys2Proof Sys2Proof.Machine

/-- R403: bytes of one 64-byte line, each in decoder `d` of a partition's function and backed by device memory. -/
def OneLine (addr : Nat) (bytes : List (Nat × Byte)) : Prop :=
  addr % 64 = 0 ∧ (∀ b ∈ bytes, b.1 < 64) ∧ (bytes.map (·.1)).Nodup
def Decodes (s : State) (p : PartRef) (d addr : Nat) (bytes : List (Nat × Byte)) : Prop :=
  let r := (s.part p).hdm.getD d (0, 0)
  ∀ b ∈ bytes, r.1 ≤ addr + b.1 ∧ addr + b.1 < r.1 + r.2 ∧ regionOf (addr + b.1) ≠ .none

/-- The bytes stand in memory from `ga` on, and every other byte is as before. -/
def Stored (s s' : State) (ga : Nat) (bytes : List (Nat × Byte)) : Prop :=
  (∀ b ∈ bytes, memGet s'.mem (ga + b.1) = b.2) ∧ ∀ a, (∀ b ∈ bytes, a ≠ ga + b.1) → memGet s'.mem a = memGet s.mem a

/-- R413, R415: an event of the CXL link is counted. -/
def LinkCounted (s s' : State) (pkg : Nat) : Prop :=
  (s'.pkg pkg).mgmt.links.getD 0 0 = (s.pkg pkg).mgmt.links.getD 0 0 + 1

end Sys2Proof.Slice0

/-- R142, R403 to R411, R413, R418: the host's accesses to device memory, an Ethernet port from the arrival of a frame to its record and
the flow control of a stopped stream, droops, soft errors and their diagnosis, margins, power samples, and the reset of the device
(which leaves the bytes of memory: log 5). The objects of these turns are log 2, what a soft error is log 29, which partitions hear of
a droop log 31, the costs of a re-plan log 20, the layout and the lengths of a frame log 52. The model's readings are: the counters and the
buffer of a port in bytes of payload, log 38; the throttle of 0 to 20 steps, log 39; which decoder a read goes through, log 40. -/
def Obligations.DeviceEvents : Prop :=
  ∀ (s : State), memWf s.mem = true →
    -- the host's accesses (R137, R403)
    (∀ p addr bytes, OneLine addr bytes → (s.pkg p.pkg).mgmt.links.length = 17 →
      let o := Obj.host p addr bytes
      let ga := p.pkg * 2 ^ 52 + addr
      (Decodes s p 0 addr bytes ∨ Decodes s p 1 addr bytes → ∃ s', exec .hostRead (on s o) = .next s' ∧ SameMem s s' ∧
        (s'.pkg p.pkg).hostData = bytes.map (fun b => memGet s.mem (ga + b.1))) ∧
      (¬ Decodes s p 0 addr bytes → ¬ Decodes s p 1 addr bytes → ∃ s', exec .hostRead (on s o) = .next s' ∧ SameMem s s' ∧
        (s'.pkg p.pkg).hostData = bytes.map (fun _ => 0xFF#8) ∧ LinkCounted s s' p.pkg) ∧
      (Decodes s p 0 addr bytes → s.lockWaiters = [] → s.feWaiters = [] → ∃ s', exec .hostWrite (on s o) = .next s' ∧ Stored s s' ga bytes ∧
        ∀ w, feGet s'.fe w = feGet s.fe w) ∧
      (¬ Decodes s p 0 addr bytes → ∃ s', exec .hostWrite (on s o) = .next s' ∧ SameMem s s' ∧ LinkCounted s s' p.pkg) ∧
      (Decodes s p 1 addr bytes → s.lockWaiters = [] → s.feWaiters = [] → ∃ s', exec .hostFillWrite (on s o) = .next s' ∧
        Stored s s' ga bytes ∧ ∀ w, feGet s'.fe w = (feGet s.fe w || bytes.any (fun b => (ga + b.1) / 8 == w))) ∧
      (¬ Decodes s p 1 addr bytes → ∃ s', exec .hostFillWrite (on s o) = .next s' ∧ SameMem s s' ∧ LinkCounted s s' p.pkg)) ∧
    -- frames (R404 to R407)
    (∀ p bytes, (s.ethPort p).counts.length = 8 →
      let o := Obj.frame p bytes
      let counted := fun (s' : State) (ks : List Nat) => ∀ j, (s'.ethPort p).counts.getD j 0 =
        (s.ethPort p).counts.getD j 0 + (if j ∈ ks then 1 else 0)
      (bytes.length < 64 ∨ 2000 < bytes.length → parseFrame bytes = none) ∧
      (parseFrame bytes = none → ∃ s', exec .frameReceive (on s o) = .next s' ∧ counted s' [0, 2] ∧ SameMem s s') ∧
      (∀ f, parseFrame bytes = some f →
        let wants := fun k => (s.stream p k).wants f
        ((∀ k, k < 64 → wants k = false) → ∃ s', exec .frameReceive (on s o) = .next s' ∧ counted s' [0, 1, 3]) ∧
        (∀ k, k < 64 → wants k = true → (∀ j, j < k → wants j = false) →
          let x := s.stream p k
          (x.stopped = false → (s.ethPort p).buffered + f.payload.length ≤ 2 ^ 24 → ∃ s', exec .frameReceive (on s o) = .next s' ∧
            counted s' [0, 1] ∧ (s'.stream p k).waiting = x.waiting ++ [f.payload] ∧ Posted s' .ingestRecordWrite (.portNum p k)) ∧
          (x.stopped = false → 2 ^ 24 < (s.ethPort p).buffered + f.payload.length → ∃ s', exec .frameReceive (on s o) = .next s' ∧
            counted s' [0, 1, 4] ∧ (s'.stream p k).waiting = x.waiting ∧ (s'.stream p k).dropped = x.dropped + 1) ∧
          (x.stopped = true → x.act = 2 → ∃ s', exec .frameReceive (on s o) = .next s' ∧ counted s' [0, 1] ∧
            (s'.stream p k).waiting = x.waiting ∧ (s'.stream p k).dropped = x.dropped + 1)))) ∧
    (∀ p k, let x := s.stream p k
      let o := Obj.portNum p k
      let empty := ∀ i, i < x.recw → feGet s.fe (x.recordWord p.pkg + i) = false
      (∀ f rest, x.waiting = f :: rest → x.next = none → x.enabled = true → x.stopped = false →
        (empty → ∃ s', exec .ingestRecordWrite (on s o) = .next s' ∧ SameMem s s' ∧ Posted s' .ingestRecordWrite o ∧
          (s'.stream p k).next = some (if 1 < x.recw then 1 else 0)) ∧
        (¬ empty → x.act = 0 → ∃ s', exec .ingestRecordWrite (on s o) = .next s' ∧ SameMem s s' ∧ (s'.stream p k).stopped = true ∧
          (s'.ethPort p).sent = (s.ethPort p).sent ++ [(8, (s.ethPort p).quanta)])) ∧
      (∀ f rest n, x.waiting = f :: rest → x.next = some n → s.lockWaiters = [] → s.feWaiters = [] →
        ∃ s', exec .ingestRecordWrite (on s o) = .next s' ∧
          memRead s'.mem (8 * (x.recordWord p.pkg + n)) 8 = x.word f n % 2 ^ 64 ∧ feGet s'.fe (x.recordWord p.pkg + n) = true ∧
          (∀ a, ¬(8 * (x.recordWord p.pkg + n) ≤ a ∧ a < 8 * (x.recordWord p.pkg + n) + 8) → memGet s'.mem a = memGet s.mem a) ∧
          (n = 0 → (s'.stream p k).written = x.written + 1 ∧ (s'.stream p k).frame = x.frame + 1 ∧
            (x.act < 2 → (s'.stream p k).waiting = rest)) ∧
          (n ≠ 0 → (s'.stream p k).next = some (if n + 1 < x.recw then n + 1 else 0))) ∧
      (x.hdr = true → ∀ f, x.word f 0 = f.length % 65536 * 2 ^ 32 + x.frame % 2 ^ 32) ∧
      (x.stopped = true → empty → ∃ s', exec .streamResume (on s o) = .next s' ∧ (s'.stream p k).stopped = false ∧
        (x.waiting ≠ [] → Posted s' .ingestRecordWrite o) ∧ SameMem s s') ∧
      (x.stopped = false ∨ ¬ empty → exec .streamResume (on s o) = .next (on s o))) ∧
    (∀ p n, (heldBack s p n = true → ∃ s', exec .pauseRefresh (on s (.portNum p n)) = .next s' ∧
        (s'.ethPort p).sent = (s.ethPort p).sent ++ [(n, (s.ethPort p).quanta)]) ∧
      (heldBack s p n = false → exec .pauseRefresh (on s (.portNum p n)) = .next (on s (.portNum p n)))) ∧
    -- droops (R409)
    (∀ tl, let x := s.tile tl
      (∃ s', exec .droopTrip (on s (.tile tl)) = .next s' ∧ (s'.tile tl).drpStr = x.drpStr + 6 ∧
        (s'.tile tl).drpTrips = x.drpTrips + 1 ∧ (s'.tile tl).drpFrom ≠ none ∧ SameMem s s') ∧
      (∀ f, x.drpFrom = some f → (∀ e ∈ s.cores, e.1.tileRef = tl → f + 70 ≤ e.2.cycle) →
        ∃ s', exec .droopSequenceEnd (on s (.tile tl)) = .next s' ∧ (s'.tile tl).drpFrom = none) ∧
      (∀ f, x.drpFrom = some f → (∃ e ∈ s.cores, e.1.tileRef = tl ∧ e.2.cycle < f + 70) →
        exec .droopSequenceEnd (on s (.tile tl)) = .next (on s (.tile tl)))) ∧
    -- soft errors, diagnosis, margins (R142, R410)
    ((∀ a, ∃ s', exec .softError (on s (.num a)) = .next s' ∧ s'.bad (8 * a) = true ∧ SameMem s s') ∧
      (∀ tid t r, s.thread? tid = some t → 0 < r → r < 64 → ∃ s' u, exec .softError (on s (.threadNum tid r)) = .next s' ∧
        s'.thread? tid = some u ∧ u.badRegs.getLsbD r = true ∧ Same t u) ∧
      (∀ tl part, let recent := (s.tile tl).errors.filter (fun t => s.now tl.pkg < t + 3600000000000)
        (16 ≤ recent.length → ∃ s', exec .softError (on s (.tileNum tl part)) = .next s' ∧ (s'.tile tl).fenced = true) ∧
        (recent.length < 16 → ∃ s', exec .softError (on s (.tileNum tl part)) = .next s' ∧
          (s'.tile tl).errors = s.now tl.pkg :: recent ∧ (s'.tile tl).fenced = (s.tile tl).fenced)) ∧
      (∀ c part e, e < 5 → part < 16 →
        16 ≤ ((s.core c).errors.filter (fun x => x.1 == e && s.now c.pkg < x.2 + 3600000000000)).length →
        ∃ s', exec .softError (on s (.coreNum c (16 * e + part))) = .next s' ∧ (s'.core c).extid.getLsbD e = false ∧
          (e = 0 → (s.core c).extid.getLsbD 0 = true → (s'.core c).available = false)) ∧
      (∀ pkg tl, tl ∈ allTiles pkg → ∃ s', exec .marginReplan (on s (.pkg pkg)) = .next s' ∧ (s'.pkg pkg).replanned = s.now pkg ∧
        ∃ l, ((s'.tile tl).newCosts = some l ∨ ((s'.tile tl).newCosts = none ∧ (s'.tile tl).costs = l)) ∧ l.length = 16 ∧
          8 ≤ l.getD 0 0)) ∧
    -- power and reset (R411, R415, R418)
    (∀ p ws, let m := (s.pkg p).mgmt
      let total := (ws.getD 8 0).toNat
      (ws.length = 9 → ∃ s', exec .powerSample (on s (.pkgWords p ws)) = .next s' ∧
        (s'.pkg p).mgmt.telemetry = ws.map (·.toNat) ∧ (s'.pkg p).mgmt.throttle =
          if 2400000 < total then min 20 (m.throttle + 1) else if total < 2280000 then m.throttle - 1 else m.throttle) ∧
      (ws.length ≠ 9 → exec .powerSample (on s (.pkgWords p ws)) = .next (on s (.pkgWords p ws)))) ∧
    (∀ p, let o := Obj.pkg p
      (∃ s', exec .deviceReset (on s o) = .next s' ∧ (∀ e ∈ s'.threads, e.2.pos.pkg ≠ p) ∧ (∀ e ∈ s'.parts, e.1.pkg ≠ p) ∧
        (∀ w, w / 2 ^ 49 = p → feGet s'.fe w = false) ∧ (∀ w, w / 2 ^ 49 ≠ p → feGet s'.fe w = feGet s.fe w) ∧
        (∀ a, memGet s'.mem a = memGet s.mem a) ∧ (s'.pkg p).ready = false ∧ (s'.pkg p).freeShares = 65088 ∧
        (s'.pkg p).time = 0 ∧ Posted s' .deviceReady o) ∧
      ((s.pkg p).blob.signed = true → (s.pkg p).blob.deviceGood = true → (s.pkg p).highestVersion ≤ (s.pkg p).blob.version → ∃ s', exec .deviceReady (on s o) = .next s' ∧ (s'.pkg p).ready = true ∧
        (s'.pkg p).highestVersion = (s.pkg p).blob.version ∧ SameMem s s') ∧
      ((s.pkg p).blob.signed = false ∨ (s.pkg p).blob.version < (s.pkg p).highestVersion → exec .deviceReady (on s o) = .next (on s o)))

namespace Sys2Proof.Slice0
open Sys2Proof Sys2Proof.Machine

/-- R414, R416: the firmware is at a command, with its request of so many whole dwords. -/
structure Command (s : State) (p code : Nat) (req : List Word) : Prop where
  busy : (s.pkg p).mgmt.busy = true
  ran : (s.pkg p).mgmt.ran = false
  cmd : (s.pkg p).mgmt.cmd = code
  len : (s.pkg p).mgmt.len = 8 * req.length
  short : req.length ≤ 512
  words : (s.pkg p).mgmt.req.take req.length = req

/-- R416: the command is done with RESULT `r` and the response `ws`; it completes next; memory is as before. -/
def Replies (s s' : State) (p r : Nat) (ws : List Word) : Prop :=
  let m := (s'.pkg p).mgmt
  m.result = r ∧ m.rlen = 8 * ws.length ∧ m.rsp.take ws.length = ws ∧ m.ran = true ∧ m.busy = true ∧
    Posted s' .mgmtCommandDone (.pkg p) ∧ SameMem s s'

/-- R415: a result other than 0: no effect. -/
def Refused (s s' : State) (p r : Nat) : Prop :=
  Replies s s' p r [] ∧ s'.parts = s.parts ∧ s'.taskQueues = s.taskQueues ∧ s'.tiles = s.tiles ∧ s'.eth = s.eth ∧
    (s'.pkg p).clkplan = (s.pkg p).clkplan ∧ (s'.pkg p).freeShares = (s.pkg p).freeShares ∧
    (s'.pkg p).mgmt.retire = (s.pkg p).mgmt.retire

/-- R415: the commands: code, event, and the bits that the layout of the request names (of PSET, in dword 0). -/
def r415 : List (Nat × Instr × List Nat) :=
  [(0x01, .pcreate, [0xF]), (0x02, .pdestroy, [0xF]), (0x03, .pset, [0xFF000F]), (0x04, .pget, [0xFF000F]), (0x10, .qassign, [0x8FFF]),
   (0x11, .hdmset, [0x10F, 2 ^ 64 - 2 ^ 28, 2 ^ 64 - 2 ^ 28]),
   (0x20, .streamset, [0x33F, 2 ^ 52 - 8, 2 ^ 64 - 2 ^ 53 + 0xFFFF00FFFFFF, 5 * 2 ^ 61 + 0xFFFFFFFFFFFFFFF, 2 ^ 63 + 0xFFFF]),
   (0x21, .streamget, [0x33F]), (0x22, .portset, [0x300, 0xFFFF]), (0x23, .portcnt, [0x300]),
   (0x30, .clkset, List.replicate 32 (2 ^ 63 + 0x7FFF * 2 ^ 32 + 0x7FFF)), (0x31, .clkget, []), (0x32, .drpset, [0xFF0000FF03]),
   (0x33, .replan, []), (0x34, .retread, []), (0x35, .telem, []), (0x36, .linkcnt, []), (0x40, .dreset, [])]

/-- R417: an item of one plain value, its value in dword 1, and in dword 2 where it has two; or the result that refuses it. -/
def r417 (x : Part) (item : Nat) (v w : Word) : Except Nat Part :=
  let n := v.toNat
  match item with
  | 0x02 => .ok { x with slots := n }
  | 0x04 => if n ≤ 31 then .ok { x with pfloor := n } else .error 4
  | 0x05 => .ok { x with slack := n == 1 }
  | 0x06 => if n % 32768 = 0 then .ok { x with root := n } else .error 4
  | 0x07 => if n % 8 = 0 then .ok { x with handler := v } else .error 4
  | 0x08 => if n < 2 ^ 32 then .ok { x with wdog := n } else .error 4
  | 0x0C => .ok { x with ptepol := n }
  | 0x0D => if bits n 10 3 < 144 ∧ bits n 26 19 < 144 ∧ bits n 42 35 < 144 ∧ bits n 58 51 < 144 then .ok { x with syscore := v } else .error 4
  | 0x0E => .ok { x with injShared := v, injSpan := w }
  | _ => if n % 65536 ≠ 0 then .error 4 else if x.images ≠ [] then .error 3 else .ok { x with ctxBase := n, ctxSize := w.toNat }

/-- R417: the items of `r417`, with the bits that their dwords name. -/
def plainItems : List (Nat × List Nat) :=
  let all := 2 ^ 64 - 1
  [(0x02, [0x3FFF]), (0x04, [all]), (0x05, [1]), (0x06, [all]), (0x07, [all]), (0x08, [all]), (0x0C, [0xF]),
   (0x0D, [0x07FF07FF07FF07FF]), (0x0E, [all, all]), (0x0F, [all, all])]

/-- R417: what PGET of an item of `r417` brings. -/
def plainValue (x : Part) (item : Nat) : List Word :=
  match item with
  | 0x02 => [BitVec.ofNat 64 x.slots]
  | 0x04 => [BitVec.ofNat 64 x.pfloor]
  | 0x05 => [if x.slack then 1 else 0]
  | 0x06 => [BitVec.ofNat 64 x.root]
  | 0x07 => [x.handler]
  | 0x08 => [BitVec.ofNat 64 x.wdog]
  | 0x0C => [BitVec.ofNat 64 x.ptepol]
  | 0x0D => [x.syscore]
  | 0x0E => [x.injShared, x.injSpan]
  | _ => [BitVec.ofNat 64 x.ctxBase, BitVec.ofNat 64 x.ctxSize]

/-- R394, R415: no launch, record, thread or swapped-out context of the partition is on the package. -/
structure Idle (s : State) (q : PartRef) : Prop where
  launches : ∀ e ∈ s.launches, e.2.part = q.part → e.2.pkg ≠ q.pkg ∧ q.pkg ∉ e.2.pkgs
  records : ∀ e ∈ s.subs, e.2.part = q.part → e.2.pkg ≠ q.pkg
  threads : ∀ e ∈ s.threads, e.2.part = q.part → e.2.pos.pkg ≠ q.pkg
  images : (s.part q).images = []

/-- R405: a descriptor that may be enabled: its ring lies in a range of its partition and in device memory. -/
structure Acceptable (s : State) (pkg : Nat) (x : Ingest) : Prop where
  act : x.act ≠ 3
  part : x.part < 14
  words : 1 ≤ x.recw ∧ x.recw ≤ 512
  header : x.hdr = true → 2 ≤ x.recw
  records : 1 ≤ x.nrec
  range : ∃ r ∈ (s.part ⟨pkg, x.part⟩).hdm, r.1 ≤ x.dword 0 ∧ x.dword 0 + x.nrec * x.recw * 8 ≤ r.1 + r.2
  backed : regionOf (x.dword 0) ≠ .none ∧ regionOf (x.dword 0 + x.nrec * x.recw * 8 - 1) ≠ .none

/-- R408: whether a band of a plan is hit by a harmonic 1 to 7 of a frequency. -/
def disables (plan : List Word) (mhz : Nat) : Prop :=
  ∃ b ∈ plan, b.getLsbD 63 = true ∧ ∃ k, 1 ≤ k ∧ k ≤ 7 ∧ bits b.toNat 14 0 ≤ k * mhz ∧ k * mhz ≤ bits b.toNat 46 32

/-- The dword 0 that names a port and a stream. -/
def portWord (port k : Nat) : Word := BitVec.ofNat 64 (port * 256 + k)

end Sys2Proof.Slice0

/-- R385, R387, R392, R394, R403, R414 to R417, R421: the management mailbox, and the commands over partitions, task queues and decoders
(logs 28, 30; what a lowered ALLOT takes at once, the lesser of the cut and what the pool holds beyond what it holds back, is the model's
reading, log 35). -/
def Obligations.ManagementCommands : Prop :=
  ∀ (s : State) (p : Nat),
    let o := Obj.pkg p
    let m := (s.pkg p).mgmt
    let gives := fun (i : Instr) (P : State → Prop) => ∃ s', exec i (on s o) = .next s' ∧ P s'
    let no := fun (i : Instr) (r : Nat) => gives i (fun s' => Refused s s' p r)
    -- the mailbox
    (∀ w off, let c := bits w.toNat 15 0
      ((s.pkg p).ready = false → exec .mgdoor (on s (.reg p 0 off w)) = .next (on s (.reg p 0 off w))) ∧
      ((s.pkg p).ready = true → m.busy = true → ∃ s', exec .mgdoor (on s (.reg p 0 off w)) = .next s' ∧ (s'.pkg p).mgmt.drop = min 65535 (m.drop + 1) ∧
        (s'.pkg p).mgmt.cmd = m.cmd ∧ (s'.pkg p).mgmt.busy = true ∧ s'.agenda = s.agenda) ∧
      ((s.pkg p).ready = true → m.busy = false → ∃ s', exec .mgdoor (on s (.reg p 0 off w)) = .next s' ∧ (s'.pkg p).mgmt.busy = true ∧
        (s'.pkg p).mgmt.done = false ∧ (s'.pkg p).mgmt.cmd = c ∧ (s'.pkg p).mgmt.len = bits w.toNat 31 16 ∧
        (∀ e ∈ r415, e.1 = c → Posted s' e.2.1 o ∧ (s'.pkg p).mgmt.ran = false) ∧
        ((∀ e ∈ r415, e.1 ≠ c) → Replies s s' p 1 []))) ∧
    (m.busy = true → m.ran = true → gives .mgmtCommandDone (fun s' => (s'.pkg p).mgmt.busy = false ∧ (s'.pkg p).mgmt.done = true ∧
      (s'.pkg p).mgmt.result = m.result ∧ (s'.pkg p).mgmt.rlen = m.rlen ∧ (s'.pkg p).mgmt.rsp = m.rsp ∧
      (s'.pkg p).vectors = (s.pkg p).vectors ++ (if m.intc % 2 = 1 then [0] else []))) ∧
    (m.busy = false ∨ m.ran = false → exec .mgmtCommandDone (on s o) = .next (on s o)) ∧
    (∀ e ∈ r415, ¬(m.busy = true ∧ m.ran = false ∧ m.cmd = e.1) → exec e.2.1 (on s o) = .next (on s o)) ∧
    (∀ e ∈ r415, ∀ req, Command s p e.1 req → (req.length < e.2.2.length ∨
      ∃ k, k < req.length ∧ (k = 0 ∨ e.1 ≠ 3) ∧ (req.getD k 0).toNat &&& (2 ^ 64 - 1 - e.2.2.getD k 0) ≠ 0) → no e.2.1 2) ∧
    -- partitions
    (∀ k, k < 16 → Command s p 1 [BitVec.ofNat 64 k] → let q : PartRef := ⟨p, k⟩
      (14 ≤ k → no .pcreate 4) ∧
      (k < 14 → s.parts.get? q ≠ none → no .pcreate 3) ∧
      (k < 14 → s.parts.get? q = none → gives .pcreate (fun s' => Replies s s' p 0 [] ∧ (∀ j, j ≠ q → s'.parts.get? j = s.parts.get? j) ∧
        ∃ x, s'.parts.get? q = some x ∧ x.tiles = [] ∧ x.slots = 0 ∧ x.allot = 0 ∧ x.pfloor = 0 ∧ x.slack = false ∧ x.root = 0 ∧
          x.handler = 0 ∧ x.wdog = 0 ∧ x.htabs = List.replicate 8 0 ∧ x.routes = [] ∧ x.vstates = List.range 16 ∧ x.ptepol = 0 ∧
          x.syscore = 0 ∧ x.injShared = 0 ∧ x.injSpan = 0 ∧ x.ctxBase = 0 ∧ x.ctxSize = 0 ∧ x.pool = 0 ∧ x.debt = 0))) ∧
    (∀ k, k < 14 → Command s p 2 [BitVec.ofNat 64 k] → let q : PartRef := ⟨p, k⟩
      (s.parts.get? q = none ∨ ¬ Idle s q → no .pdestroy 3) ∧
      (s.parts.get? q ≠ none → Idle s q → gives .pdestroy (fun s' => Replies s s' p 0 [] ∧ s'.parts.get? q = none ∧
        (∀ j, j ≠ q → s'.parts.get? j = s.parts.get? j) ∧ (∀ e ∈ s'.taskQueues, ¬(e.1.pkg = p ∧ e.2.part = some k)) ∧
        (s'.pkg p).freeShares = (s.pkg p).freeShares + (s.part q).pool ∧
        ((∀ id, s.fresh ≤ id → s.transits.get? id = none) → coming s' (.free p) =
          coming s (.free p) + (coming s (.pool q) + ((s.part q).slackOut.map (·.2)).sum))))) ∧
    (∀ k item, k < 14 → item < 256 → let q : PartRef := ⟨p, k⟩
      let d0 : Word := BitVec.ofNat 64 (item * 2 ^ 16 + k)
      let x := s.part q
      (∀ vs, Command s p 3 (d0 :: vs) →
        (item = 0 ∨ 16 ≤ item → vs = [] → no .pset 2) ∧
        (s.parts.get? q = none → (∀ f ∈ plainItems, f.1 = item → f.2.length = vs.length ∧
          ∀ j, j < vs.length → (vs.getD j 0).toNat &&& (2 ^ 64 - 1 - f.2.getD j 0) = 0) → (∃ f ∈ plainItems, f.1 = item) → no .pset 3) ∧
        (s.parts.get? q ≠ none → ∀ f ∈ plainItems, f.1 = item → f.2.length = vs.length →
          (∀ j, j < vs.length → (vs.getD j 0).toNat &&& (2 ^ 64 - 1 - f.2.getD j 0) = 0) →
          (∀ y, r417 x item (vs.getD 0 0) (vs.getD 1 0) = .ok y → gives .pset (fun s' => Replies s s' p 0 [] ∧ s'.part q = y)) ∧
          (∀ r, r417 x item (vs.getD 0 0) (vs.getD 1 0) = .error r → no .pset r)) ∧
        (s.parts.get? q ≠ none → item = 1 → vs.length = 9 → gives .pset (fun s' => Replies s s' p 0 [] ∧
          ∀ j, j < 576 → (gridIndex j ∈ (s'.part q).tiles ↔ (vs.getD (j / 64) 0).getLsbD (j % 64) = true))) ∧
        (s.parts.get? q ≠ none → item = 9 → vs.length = 8 →
          ((∀ v ∈ vs, v.toNat % 64 = 0) → gives .pset (fun s' => Replies s s' p 0 [] ∧ (s'.part q).htabs = vs.map (·.toNat))) ∧
          ((∃ v ∈ vs, v.toNat % 64 ≠ 0) → no .pset 4)) ∧
        (∀ rs : List (Nat × Nat), s.parts.get? q ≠ none → item = 10 → rs.length ≤ 510 → (∀ r ∈ rs, r.1 < 1024 ∧ r.2 < 4096) →
          vs = BitVec.ofNat 64 rs.length :: rs.map (fun r => BitVec.ofNat 64 (r.1 + r.2 * 2 ^ 16)) →
          gives .pset (fun s' => Replies s s' p 0 [] ∧ (s'.part q).routes = rs)) ∧
        (∀ bs : List Nat, s.parts.get? q ≠ none → item = 11 → bs.length = 16 → (∀ b ∈ bs, b < 256) → vs.length = 2 →
          (∀ j, j < 16 → bits (vs.getD (j / 8) 0).toNat (8 * (j % 8) + 7) (8 * (j % 8)) = bs.getD j 0) →
          ((∀ b ∈ bs, b ≤ 15) → (∀ j, j < 15 → bs.getD j 0 ≤ bs.getD (j + 1) 0) →
            gives .pset (fun s' => Replies s s' p 0 [] ∧ (s'.part q).vstates = bs)) ∧
          ((∃ b ∈ bs, 15 < b) ∨ (∃ j, j < 15 ∧ bs.getD (j + 1) 0 < bs.getD j 0) → no .pset 4)) ∧
        (∀ n, s.parts.get? q ≠ none → item = 3 → n < 2 ^ 64 → vs = [BitVec.ofNat 64 n] →
          let others := ((s.parts.filter (fun e => e.1.pkg == p && e.1.part != k)).map (·.2.allot)).sum
          let free := (s.pkg p).freeShares
          (65088 < others + n → no .pset 3) ∧
          (others + n ≤ 65088 → x.allot ≤ n → n - x.allot ≤ free + x.debt → gives .pset (fun s' =>
            let pay := min x.debt (n - x.allot)
            Replies s s' p 0 [] ∧ s'.crews = s.crews ∧ (s'.part q).allot = n ∧ (s'.part q).debt = x.debt - pay ∧
              (s'.part q).pool = x.pool + (n - x.allot - pay) ∧ (s'.pkg p).freeShares = free - (n - x.allot - pay))) ∧
          (others + n ≤ 65088 → n < x.allot → x.slackOut = [] → gives .pset (fun s' =>
            let take := min (x.allot - n) (x.pool - poolReserved s q)
            Replies s s' p 0 [] ∧ s'.crews = s.crews ∧ (s'.part q).allot = n ∧ (s'.part q).debt = x.debt + (x.allot - n - take) ∧
              (s'.part q).pool = x.pool - take ∧ (s'.pkg p).freeShares = free + take)))) ∧
      (Command s p 4 [d0] →
        (item = 0 ∨ 16 ≤ item → no .pget 2) ∧
        (s.parts.get? q = none → 1 ≤ item → item ≤ 15 → no .pget 3) ∧
        (s.parts.get? q ≠ none →
          (∀ f ∈ plainItems, f.1 = item → gives .pget (fun s' => Replies s s' p 0 (plainValue x item))) ∧
          (item = 3 → gives .pget (fun s' => Replies s s' p 0 [BitVec.ofNat 64 x.allot])) ∧
          (item = 9 → gives .pget (fun s' => Replies s s' p 0 (x.htabs.map (BitVec.ofNat 64 ·)))) ∧
          (item = 10 → gives .pget (fun s' => Replies s s' p 0 (BitVec.ofNat 64 x.routes.length ::
            x.routes.map (fun r => BitVec.ofNat 64 (r.1 + r.2 * 2 ^ 16))))) ∧
          (item = 1 → gives .pget (fun s' => ∃ ws, ws.length = 9 ∧ Replies s s' p 0 ws ∧
            ∀ j, j < 576 → ((ws.getD (j / 64) 0).getLsbD (j % 64) = true ↔ gridIndex j ∈ x.tiles))) ∧
          (item = 11 → (∀ v ∈ x.vstates, v < 256) → gives .pget (fun s' => ∃ ws, ws.length = 2 ∧ Replies s s' p 0 ws ∧
            ∀ j, j < 16 → bits (ws.getD (j / 8) 0).toNat (8 * (j % 8) + 7) (8 * (j % 8)) = x.vstates.getD j 0))))) ∧
    -- task queues and decoders
    (∀ w : Word, Command s p 0x10 [w] → w.toNat &&& (2 ^ 64 - 1 - 0x8FFF) = 0 →
      let q : TaskQueueRef := ⟨p, bits w.toNat 7 6, bits w.toNat 5 0⟩
      let a := bits w.toNat 11 8
      let x := s.taskQueue q
      let empty := x.packets = [] ∧ x.waiters = [] ∧ x.posters = []
      (w.getLsbD 15 = true → ¬ empty → no .qassign 3) ∧
      (w.getLsbD 15 = true → empty → gives .qassign (fun s' => Replies s s' p 0 [] ∧ (s'.taskQueue q).part = none ∧
        (s'.taskQueue q).isOpen = false)) ∧
      (w.getLsbD 15 = false → 14 ≤ a → no .qassign 4) ∧
      (w.getLsbD 15 = false → a < 14 → s.parts.get? ⟨p, a⟩ = none ∨ (x.part ≠ some a ∧ ¬ empty) → no .qassign 3) ∧
      (w.getLsbD 15 = false → a < 14 → s.parts.get? ⟨p, a⟩ ≠ none → x.part = some a ∨ empty → gives .qassign (fun s' =>
        Replies s s' p 0 [] ∧ (s'.taskQueue q).part = some a ∧ (s'.taskQueue q).isOpen = true ∧
        (s'.taskQueue q).packets = x.packets))) ∧
    (∀ k dec base size, k < 16 → dec < 2 → base < 2 ^ 64 → size < 2 ^ 64 → base % 2 ^ 28 = 0 → size % 2 ^ 28 = 0 →
      Command s p 0x11 [BitVec.ofNat 64 (k + dec * 256), BitVec.ofNat 64 base, BitVec.ofNat 64 size] → let q : PartRef := ⟨p, k⟩
      (14 ≤ k → no .hdmset 4) ∧
      (k < 14 → s.parts.get? q = none → no .hdmset 3) ∧
      (k < 14 → s.parts.get? q ≠ none → size ≠ 0 → inDevice base size = false → no .hdmset 4) ∧
      (k < 14 → s.parts.get? q ≠ none → size = 0 ∨ inDevice base size = true → (s.part q).hdm.length = 2 →
        gives .hdmset (fun s' => Replies s s' p 0 [] ∧ (s'.part q).hdm.getD dec (0, 0) = (base, size) ∧
          (s'.part q).hdm.getD (1 - dec) (0, 0) = (s.part q).hdm.getD (1 - dec) (0, 0))))

/-- R405, R407 to R410, R412, R413, R415: the commands over streams, ports, clock plan, droop, margins, records and telemetry; the
board management controller's requests; attestation, whose header bytes are SPDM's and whose chain, hash and signatures are the model's
free values, fixed for a package but for nonces and signatures (PRESUMED, log 19); nothing answers before the device is ready (R411).
Costs and margins of a re-plan are log 20; what STREAMSET refuses (an enabled descriptor whose ring does not lie in one HDM range) and that
DRPSET refuses tiles 144 to 254 with result 4 are the model's choice (log 30). -/
def Obligations.ManagementReports : Prop :=
  ∀ (s : State) (p : Nat),
    let o := Obj.pkg p
    let m := (s.pkg p).mgmt
    let gives := fun (i : Instr) (P : State → Prop) => ∃ s', exec i (on s o) = .next s' ∧ P s'
    let no := fun (i : Instr) (r : Nat) => gives i (fun s' => Refused s s' p r)
    -- streams and ports
    (∀ port k ds, port < 4 → k < 64 → ds.length = 4 → Command s p 0x20 (portWord port k :: ds) →
      (∀ j, j < 4 → (ds.getD j 0).toNat &&& (2 ^ 64 - 1 - ([2 ^ 52 - 8, 2 ^ 64 - 2 ^ 53 + 0xFFFF00FFFFFF, 5 * 2 ^ 61 + 0xFFFFFFFFFFFFFFF,
        2 ^ 63 + 0xFFFF] : List Nat).getD j 0) = 0) →
      let q : PortRef := ⟨p, port⟩
      let x : Ingest := { s.stream q k with desc := ds }
      ((ds.getD 1 0).getLsbD 63 = false → gives .streamset (fun s' => Replies s s' p 0 [] ∧ (s'.stream q k).desc = ds ∧
        (s'.stream q k).enabled = false)) ∧
      ((ds.getD 1 0).getLsbD 63 = true → Acceptable s p x → gives .streamset (fun s' => Replies s s' p 0 [] ∧
        (s'.stream q k).desc = ds ∧ (s'.stream q k).enabled = true ∧ (s'.stream q k).stopped = false)) ∧
      ((ds.getD 1 0).getLsbD 63 = true → ¬ Acceptable s p x → gives .streamset (fun s' => Replies s s' p 4 [] ∧
        (s'.stream q k).enabled = false ∧ ((s'.stream q k).desc.getD 1 0).getLsbD 63 = false))) ∧
    (∀ port k, port < 4 → k < 64 → Command s p 0x21 [portWord port k] → let x := s.stream ⟨p, port⟩ k
      gives .streamget (fun s' => Replies s s' p 0
        (x.desc ++ [BitVec.ofNat 64 x.written, BitVec.ofNat 64 x.dropped, BitVec.ofNat 64 x.truncated]))) ∧
    (∀ port n, port < 4 → n < 65536 → Command s p 0x22 [portWord port 0, BitVec.ofNat 64 n] →
      gives .portset (fun s' => Replies s s' p 0 [] ∧ (s'.ethPort ⟨p, port⟩).quanta = n ∧
        (s'.ethPort ⟨p, port⟩).streams = (s.ethPort ⟨p, port⟩).streams)) ∧
    (∀ port, port < 4 → Command s p 0x23 [portWord port 0] →
      gives .portcnt (fun s' => Replies s s' p 0 ((s.ethPort ⟨p, port⟩).counts.map (BitVec.ofNat 64 ·)))) ∧
    -- clock plan, droop, margins
    (∀ plan, plan.length = 32 → (∀ b ∈ plan, b.toNat &&& (2 ^ 64 - 1 - (2 ^ 63 + 0x7FFF * 2 ^ 32 + 0x7FFF)) = 0) → Command s p 0x30 plan →
      (disables plan 400 → no .clkset 3) ∧
      (¬ disables plan 400 → gives .clkset (fun s' => Replies s s' p 0 [] ∧ (s'.pkg p).clkplan = plan))) ∧
    (Command s p 0x31 [] → gives .clkget (fun s' => Replies s s' p 0 ((List.range 32).map (fun k => (s.pkg p).clkplan.getD k 0)))) ∧
    (∀ die t mv, die < 4 → t < 256 → mv < 256 → Command s p 0x32 [BitVec.ofNat 64 (die + t * 2 ^ 8 + mv * 2 ^ 32)] →
      (mv < 20 ∨ 120 < mv → no .drpset 2) ∧
      (20 ≤ mv → mv ≤ 120 → t = 255 → gives .drpset (fun s' => Replies s s' p 0 [] ∧ ∀ k, k < 144 → (s'.tile ⟨p, die, k⟩).drpTh = mv)) ∧
      (20 ≤ mv → mv ≤ 120 → 144 ≤ t → t ≠ 255 → no .drpset 4) ∧
      (20 ≤ mv → mv ≤ 120 → t < 144 → gives .drpset (fun s' => Replies s s' p 0 [] ∧ (s'.tile ⟨p, die, t⟩).drpTh = mv ∧
        ∀ k, k ≠ t → (s'.tile ⟨p, die, k⟩).drpTh = (s.tile ⟨p, die, k⟩).drpTh))) ∧
    (Command s p 0x33 [] → gives .replan (fun s' => Replies s s' p 0 [] ∧
      (s'.pkg p).replanned = s.now p ∧ ∀ tl ∈ allTiles p, ∃ l, ((s'.tile tl).newCosts = some l ∨ ((s'.tile tl).newCosts = none ∧
        (s'.tile tl).costs = l)) ∧ l.length = 16 ∧ 8 ≤ l.getD 0 0)) ∧
    -- records and telemetry
    (Command s p 0x34 [] → (m.retire = [] → gives .retread (fun s' => Replies s s' p 0 [])) ∧
      (∀ r rs, m.retire = r :: rs → gives .retread (fun s' => Replies s s' p 0 r ∧ (s'.pkg p).mgmt.retire = rs))) ∧
    (Command s p 0x35 [] → gives .telem (fun s' => Replies s s' p 0 (m.telemetry.map (BitVec.ofNat 64 ·)))) ∧
    (Command s p 0x36 [] → gives .linkcnt (fun s' => Replies s s' p 0 (m.links.map (BitVec.ofNat 64 ·)))) ∧
    (Command s p 0x40 [] → gives .dreset (fun s' => Posted s' .deviceReset o ∧ (s'.pkg p).mgmt.busy = true ∧
      (Posted s' .mgmtCommandDone o → Posted s .mgmtCommandDone o))) ∧
    gives .bmcTelemetryRead (fun s' => SameMem s s' ∧ (s'.pkg p).mgmt.bmc = (m.telemetry ++ (m.links ++
      ((s.ethPort ⟨p, 0⟩).counts ++ ((s.ethPort ⟨p, 1⟩).counts ++ ((s.ethPort ⟨p, 2⟩).counts ++ (s.ethPort ⟨p, 3⟩).counts))))).map
        (BitVec.ofNat 64 ·)) ∧
    gives .bmcRetireRead (fun s' => (s'.pkg p).mgmt.bmc = m.retire.flatten ∧ (s'.pkg p).mgmt.retire = m.retire) ∧
    gives .bmcReplanRequest (fun s' => Posted s' .marginReplan o) ∧
    gives .bmcResetRequest (fun s' => Posted s' .deviceReset o) ∧
    -- attestation
    ((s.pkg p).ready = false → ∀ i ∈ [Instr.getVersion, .getCapabilities, .getDigests], exec i (on s o) = .next (on s o)) ∧
    ((s.pkg p).ready = true →
     let answers := fun (i : Instr) (ob : Obj) (head : List Byte) (len : Nat) => ∃ s', exec i (on s ob) = .next s' ∧ SameMem s s' ∧
       (s'.pkg p).spdm.take head.length = head ∧ (s'.pkg p).spdm.length = len
     answers .getVersion o [0x10, 0x04, 0, 0, 0, 1, 0, 0x13] 8 ∧
     answers .getCapabilities o [0x13, 0x61, 0, 0] 12 ∧
     (∀ ws : List Word, let a : Byte := if (ws.getD 0 0).getLsbD 8 then 1 else 0
       let h : Byte := if (ws.getD 1 0).getLsbD 2 then 4 else 0
       answers .negotiateAlgorithms (.pkgWords p ws) [0x13, 0x63, 0, 0, 0, a, 0, 0, h, 0, 0, 0] 12) ∧
     answers .getDigests o ([0x13, 0x01, 0, 1] ++ digest (chainPart p 0 (chainLength p))) 68 ∧
     (∀ ws : List Word, let k := (ws.getD 1 0).toNat
       let n := min ((ws.getD 2 0).toNat % 65536) (chainLength p - k)
       let le := fun (v : Nat) => [BitVec.ofNat 8 v, BitVec.ofNat 8 (v / 256)]
       (ws.getD 0 0 = 0 → k ≤ chainLength p → answers .getCertificate (.pkgWords p ws)
         ([0x13, 0x02, 0, 0] ++ (le n ++ (le (chainLength p - k - n) ++ chainPart p k n))) (8 + n)) ∧
       (ws.getD 0 0 ≠ 0 ∨ chainLength p < k → answers .getCertificate (.pkgWords p ws) [0x13, 0x7F, 1, 0] 4)) ∧
     (∀ slot, (slot = 0 → answers .challenge (.pkgNum p slot) [0x13, 0x03, 0, 1] 232) ∧
       (slot ≠ 0 → answers .challenge (.pkgNum p slot) [0x13, 0x7F, 1, 0] 4)) ∧
     (∀ k, (k = 0 → answers .getMeasurements (.pkgNum p k) [0x13, 0x60, 5, 0] 4) ∧
       (1 ≤ k → k ≤ 5 → answers .getMeasurements (.pkgNum p k) [0x13, 0x60, 0, 0, BitVec.ofNat 8 k] 69) ∧
       (k = 255 → answers .getMeasurements (.pkgNum p k) [0x13, 0x60, 0, 0, 1] 329) ∧
       (5 < k → k ≠ 255 → answers .getMeasurements (.pkgNum p k) [0x13, 0x7F, 1, 0] 4)))

open Sys2Proof Sys2Proof.Machine Sys2Proof.Slice0

/-- R12, R13, R54, R63, R67, R68, R118, R291, R323, R394, R400, R405, R416: what a device reset leaves: every FE bit of memory empty, memory
in its canonical form, no thread, crew or partition, the shares in Reserve and Free, every join slot free, every task queue unassigned, the
counters at 0, the registers of the functions reading 0; and what a thread finds at its start: the argument in g1, its coordinates in g2,
every other register 0 and full, and every control register but HTAB 0. (That the registers of function 0, its mailbox buffers and MGINTC
among them, read 0 is the model's choice, log 5: no rule gives their reset values.) -/
def Obligations.ResetState : Prop :=
  (memWf State.reset.mem = true ∧ feWf State.reset.fe = true ∧ (∀ w, feGet State.reset.fe w = false) ∧
    (∀ k, State.reset.thread? k = none) ∧ (∀ p, State.reset.threadAt p = none) ∧ (∀ c, State.reset.crew? c = none) ∧
    State.reset.loans = [] ∧ (∀ q, State.reset.parts.get? q = none) ∧
    (∀ d k, (State.reset.join d k).state = .free ∧ (State.reset.join d k).gen = 0) ∧
    (∀ q, (State.reset.taskQueue q).part = none ∧ (State.reset.taskQueue q).packets = []) ∧
    (∀ c : CoreRef, (State.reset.core c).cycle = 0) ∧
    (∀ tl : TileRef, (State.reset.tile tl).drpStr = 0 ∧ (State.reset.tile tl).drpTrips = 0 ∧ (State.reset.tile tl).drpFrom = none) ∧
    (∀ p k, (State.reset.stream p k).enabled = false) ∧
    (∀ p, (State.reset.pkg p).time = 0 ∧ (State.reset.pkg p).reserve + (State.reset.pkg p).freeShares = 65536 ∧
      (State.reset.pkg p).reserve = 448) ∧
    (∀ p fn off, fn ≠ 0 → hostRegister State.reset p fn off = 0) ∧
    (∀ p off, off ≠ 0 → hostRegister State.reset p 0 off = 0)) ∧
  (∀ (p : Pos) (part launch : Nat) (epid : BitVec 32) (entry g1 g2 htab : Word),
    let t := Thread.init p part launch epid entry g1 g2 htab
    (∀ r, r < 64 → t.full r = true ∧ t.reg r = if r = 1 then g1 else if r = 2 then g2 else 0) ∧ (∀ k, k < 8 → t.h.toArray.getD k 1 = 0) ∧
    (∀ x ∈ t.streams.toList, x = none) ∧ (∀ x ∈ t.groups.toList, x = none) ∧ (∀ x ∈ t.queues.toList, x = none) ∧
    t.pc = entry ∧ t.tstat = 0 ∧ t.epc = 0 ∧ t.ecause = 0 ∧ t.eval = 0 ∧ t.estat = 0 ∧ t.fctl = 0 ∧ t.fmt = 0 ∧ t.mstat = 0 ∧ t.tlog = 0 ∧
    t.vlen = 0 ∧ t.priv = 0 ∧ t.htab = htab ∧ t.epid = epid ∧ t.part = part)

/-- R12, R13, R422: the invariant of the memory: whatever turn a step takes, the list of bytes stays strictly rising, with no byte that
an unlisted address reads as, and the list of full words strictly rising, so that equal memories are equal data. -/
def Obligations.EveryStepKeepsMemoryCanonical : Prop :=
  (∀ (s s' : State), memWf s.mem = true → feWf s.fe = true → step s = .next s' → memWf s'.mem = true ∧ feWf s'.fe = true) ∧
  ∀ (i : Instr) (s s' : State), memWf s.mem = true → feWf s.fe = true → exec i s = .next s' → memWf s'.mem = true ∧ feWf s'.fe = true
end

