-- ==== Sys2Proof/Laws/State.lean ====
section
/-!
SUPPORT. Laws/State.lean: what each update of the state, and of a thread, leaves in each field.
-/
set_option Elab.async false

namespace Sys2Proof.Machine

variable (s : State) (t : Thread)

/-! ### Updates of the state -/

@[simp] theorem State.updPkg_mem {p f} : (s.updPkg p f).mem = s.mem := rfl
@[simp] theorem State.updPkg_fe {p f} : (s.updPkg p f).fe = s.fe := rfl
@[simp] theorem State.updPkg_poison {p f} : (s.updPkg p f).poison = s.poison := rfl
@[simp] theorem State.updPkg_threads {p f} : (s.updPkg p f).threads = s.threads := rfl
@[simp] theorem State.updPkg_nextTid {p f} : (s.updPkg p f).nextTid = s.nextTid := rfl
@[simp] theorem State.updPkg_feWaiters {p f} : (s.updPkg p f).feWaiters = s.feWaiters := rfl
@[simp] theorem State.updPkg_lockWaiters {p f} : (s.updPkg p f).lockWaiters = s.lockWaiters := rfl
@[simp] theorem State.updPkg_cores {p f} : (s.updPkg p f).cores = s.cores := rfl
@[simp] theorem State.updPkg_quads {p f} : (s.updPkg p f).quads = s.quads := rfl
@[simp] theorem State.updPkg_tiles {p f} : (s.updPkg p f).tiles = s.tiles := rfl
@[simp] theorem State.updPkg_joins {p f} : (s.updPkg p f).joins = s.joins := rfl
@[simp] theorem State.updPkg_keyReqs {p f} : (s.updPkg p f).keyReqs = s.keyReqs := rfl
@[simp] theorem State.updPkg_taskQueues {p f} : (s.updPkg p f).taskQueues = s.taskQueues := rfl
@[simp] theorem State.updPkg_gens {p f} : (s.updPkg p f).gens = s.gens := rfl
@[simp] theorem State.updPkg_learned {p f} : (s.updPkg p f).learned = s.learned := rfl
@[simp] theorem State.updPkg_reqs {p f} : (s.updPkg p f).reqs = s.reqs := rfl
@[simp] theorem State.updPkg_ports {p f} : (s.updPkg p f).ports = s.ports := rfl
@[simp] theorem State.updPkg_merges {p f} : (s.updPkg p f).merges = s.merges := rfl
@[simp] theorem State.updPkg_msgs {p f} : (s.updPkg p f).msgs = s.msgs := rfl
@[simp] theorem State.updPkg_groups {p f} : (s.updPkg p f).groups = s.groups := rfl
@[simp] theorem State.updPkg_contribs {p f} : (s.updPkg p f).contribs = s.contribs := rfl
@[simp] theorem State.updPkg_crews {p f} : (s.updPkg p f).crews = s.crews := rfl
@[simp] theorem State.updPkg_loans {p f} : (s.updPkg p f).loans = s.loans := rfl
@[simp] theorem State.updPkg_transits {p f} : (s.updPkg p f).transits = s.transits := rfl
@[simp] theorem State.updPkg_cycles {p f} : (s.updPkg p f).cycles = s.cycles := rfl
@[simp] theorem State.updPkg_subs {p f} : (s.updPkg p f).subs = s.subs := rfl
@[simp] theorem State.updPkg_launches {p f} : (s.updPkg p f).launches = s.launches := rfl
@[simp] theorem State.updPkg_parts {p f} : (s.updPkg p f).parts = s.parts := rfl
theorem State.updPkg_pkgs {p f} : (s.updPkg p f).pkgs = s.pkgs.updD p Pkg.init f := rfl
@[simp] theorem State.updPkg_eth {p f} : (s.updPkg p f).eth = s.eth := rfl
@[simp] theorem State.updPkg_sysEvents {p f} : (s.updPkg p f).sysEvents = s.sysEvents := rfl
@[simp] theorem State.updPkg_agenda {p f} : (s.updPkg p f).agenda = s.agenda := rfl
@[simp] theorem State.updPkg_focus {p f} : (s.updPkg p f).focus = s.focus := rfl
@[simp] theorem State.updPkg_cur {p f} : (s.updPkg p f).cur = s.cur := rfl
@[simp] theorem State.updPkg_cut {p f} : (s.updPkg p f).cut = s.cut := rfl
@[simp] theorem State.updPkg_bundle {p f} : (s.updPkg p f).bundle = s.bundle := rfl
@[simp] theorem State.updPkg_obj {p f} : (s.updPkg p f).obj = s.obj := rfl
@[simp] theorem State.updPkg_fresh {p f} : (s.updPkg p f).fresh = s.fresh := rfl

@[simp] theorem State.updPart_mem {p f} : (s.updPart p f).mem = s.mem := rfl
@[simp] theorem State.updPart_fe {p f} : (s.updPart p f).fe = s.fe := rfl
@[simp] theorem State.updPart_poison {p f} : (s.updPart p f).poison = s.poison := rfl
@[simp] theorem State.updPart_threads {p f} : (s.updPart p f).threads = s.threads := rfl
@[simp] theorem State.updPart_nextTid {p f} : (s.updPart p f).nextTid = s.nextTid := rfl
@[simp] theorem State.updPart_feWaiters {p f} : (s.updPart p f).feWaiters = s.feWaiters := rfl
@[simp] theorem State.updPart_lockWaiters {p f} : (s.updPart p f).lockWaiters = s.lockWaiters := rfl
@[simp] theorem State.updPart_cores {p f} : (s.updPart p f).cores = s.cores := rfl
@[simp] theorem State.updPart_quads {p f} : (s.updPart p f).quads = s.quads := rfl
@[simp] theorem State.updPart_tiles {p f} : (s.updPart p f).tiles = s.tiles := rfl
@[simp] theorem State.updPart_joins {p f} : (s.updPart p f).joins = s.joins := rfl
@[simp] theorem State.updPart_keyReqs {p f} : (s.updPart p f).keyReqs = s.keyReqs := rfl
@[simp] theorem State.updPart_taskQueues {p f} : (s.updPart p f).taskQueues = s.taskQueues := rfl
@[simp] theorem State.updPart_gens {p f} : (s.updPart p f).gens = s.gens := rfl
@[simp] theorem State.updPart_learned {p f} : (s.updPart p f).learned = s.learned := rfl
@[simp] theorem State.updPart_reqs {p f} : (s.updPart p f).reqs = s.reqs := rfl
@[simp] theorem State.updPart_ports {p f} : (s.updPart p f).ports = s.ports := rfl
@[simp] theorem State.updPart_merges {p f} : (s.updPart p f).merges = s.merges := rfl
@[simp] theorem State.updPart_msgs {p f} : (s.updPart p f).msgs = s.msgs := rfl
@[simp] theorem State.updPart_groups {p f} : (s.updPart p f).groups = s.groups := rfl
@[simp] theorem State.updPart_contribs {p f} : (s.updPart p f).contribs = s.contribs := rfl
@[simp] theorem State.updPart_crews {p f} : (s.updPart p f).crews = s.crews := rfl
@[simp] theorem State.updPart_loans {p f} : (s.updPart p f).loans = s.loans := rfl
@[simp] theorem State.updPart_transits {p f} : (s.updPart p f).transits = s.transits := rfl
@[simp] theorem State.updPart_cycles {p f} : (s.updPart p f).cycles = s.cycles := rfl
@[simp] theorem State.updPart_subs {p f} : (s.updPart p f).subs = s.subs := rfl
@[simp] theorem State.updPart_launches {p f} : (s.updPart p f).launches = s.launches := rfl
theorem State.updPart_parts {p f} : (s.updPart p f).parts = s.parts.updD p Part.init f := rfl
@[simp] theorem State.updPart_pkgs {p f} : (s.updPart p f).pkgs = s.pkgs := rfl
@[simp] theorem State.updPart_eth {p f} : (s.updPart p f).eth = s.eth := rfl
@[simp] theorem State.updPart_sysEvents {p f} : (s.updPart p f).sysEvents = s.sysEvents := rfl
@[simp] theorem State.updPart_agenda {p f} : (s.updPart p f).agenda = s.agenda := rfl
@[simp] theorem State.updPart_focus {p f} : (s.updPart p f).focus = s.focus := rfl
@[simp] theorem State.updPart_cur {p f} : (s.updPart p f).cur = s.cur := rfl
@[simp] theorem State.updPart_cut {p f} : (s.updPart p f).cut = s.cut := rfl
@[simp] theorem State.updPart_bundle {p f} : (s.updPart p f).bundle = s.bundle := rfl
@[simp] theorem State.updPart_obj {p f} : (s.updPart p f).obj = s.obj := rfl
@[simp] theorem State.updPart_fresh {p f} : (s.updPart p f).fresh = s.fresh := rfl

@[simp] theorem State.updTile_mem {k f} : (s.updTile k f).mem = s.mem := rfl
@[simp] theorem State.updTile_fe {k f} : (s.updTile k f).fe = s.fe := rfl
@[simp] theorem State.updTile_poison {k f} : (s.updTile k f).poison = s.poison := rfl
@[simp] theorem State.updTile_threads {k f} : (s.updTile k f).threads = s.threads := rfl
@[simp] theorem State.updTile_nextTid {k f} : (s.updTile k f).nextTid = s.nextTid := rfl
@[simp] theorem State.updTile_feWaiters {k f} : (s.updTile k f).feWaiters = s.feWaiters := rfl
@[simp] theorem State.updTile_lockWaiters {k f} : (s.updTile k f).lockWaiters = s.lockWaiters := rfl
@[simp] theorem State.updTile_cores {k f} : (s.updTile k f).cores = s.cores := rfl
@[simp] theorem State.updTile_quads {k f} : (s.updTile k f).quads = s.quads := rfl
theorem State.updTile_tiles {k f} : (s.updTile k f).tiles = s.tiles.updD k (s.tileReset k) f := rfl
@[simp] theorem State.updTile_joins {k f} : (s.updTile k f).joins = s.joins := rfl
@[simp] theorem State.updTile_keyReqs {k f} : (s.updTile k f).keyReqs = s.keyReqs := rfl
@[simp] theorem State.updTile_taskQueues {k f} : (s.updTile k f).taskQueues = s.taskQueues := rfl
@[simp] theorem State.updTile_gens {k f} : (s.updTile k f).gens = s.gens := rfl
@[simp] theorem State.updTile_learned {k f} : (s.updTile k f).learned = s.learned := rfl
@[simp] theorem State.updTile_reqs {k f} : (s.updTile k f).reqs = s.reqs := rfl
@[simp] theorem State.updTile_ports {k f} : (s.updTile k f).ports = s.ports := rfl
@[simp] theorem State.updTile_merges {k f} : (s.updTile k f).merges = s.merges := rfl
@[simp] theorem State.updTile_msgs {k f} : (s.updTile k f).msgs = s.msgs := rfl
@[simp] theorem State.updTile_groups {k f} : (s.updTile k f).groups = s.groups := rfl
@[simp] theorem State.updTile_contribs {k f} : (s.updTile k f).contribs = s.contribs := rfl
@[simp] theorem State.updTile_crews {k f} : (s.updTile k f).crews = s.crews := rfl
@[simp] theorem State.updTile_loans {k f} : (s.updTile k f).loans = s.loans := rfl
@[simp] theorem State.updTile_transits {k f} : (s.updTile k f).transits = s.transits := rfl
@[simp] theorem State.updTile_cycles {k f} : (s.updTile k f).cycles = s.cycles := rfl
@[simp] theorem State.updTile_subs {k f} : (s.updTile k f).subs = s.subs := rfl
@[simp] theorem State.updTile_launches {k f} : (s.updTile k f).launches = s.launches := rfl
@[simp] theorem State.updTile_parts {k f} : (s.updTile k f).parts = s.parts := rfl
@[simp] theorem State.updTile_pkgs {k f} : (s.updTile k f).pkgs = s.pkgs := rfl
@[simp] theorem State.updTile_eth {k f} : (s.updTile k f).eth = s.eth := rfl
@[simp] theorem State.updTile_sysEvents {k f} : (s.updTile k f).sysEvents = s.sysEvents := rfl
@[simp] theorem State.updTile_agenda {k f} : (s.updTile k f).agenda = s.agenda := rfl
@[simp] theorem State.updTile_focus {k f} : (s.updTile k f).focus = s.focus := rfl
@[simp] theorem State.updTile_cur {k f} : (s.updTile k f).cur = s.cur := rfl
@[simp] theorem State.updTile_cut {k f} : (s.updTile k f).cut = s.cut := rfl
@[simp] theorem State.updTile_bundle {k f} : (s.updTile k f).bundle = s.bundle := rfl
@[simp] theorem State.updTile_obj {k f} : (s.updTile k f).obj = s.obj := rfl
@[simp] theorem State.updTile_fresh {k f} : (s.updTile k f).fresh = s.fresh := rfl

@[simp] theorem State.updCore_mem {c f} : (s.updCore c f).mem = s.mem := rfl
@[simp] theorem State.updCore_fe {c f} : (s.updCore c f).fe = s.fe := rfl
@[simp] theorem State.updCore_poison {c f} : (s.updCore c f).poison = s.poison := rfl
@[simp] theorem State.updCore_threads {c f} : (s.updCore c f).threads = s.threads := rfl
@[simp] theorem State.updCore_nextTid {c f} : (s.updCore c f).nextTid = s.nextTid := rfl
@[simp] theorem State.updCore_feWaiters {c f} : (s.updCore c f).feWaiters = s.feWaiters := rfl
@[simp] theorem State.updCore_lockWaiters {c f} : (s.updCore c f).lockWaiters = s.lockWaiters := rfl
theorem State.updCore_cores {c f} : (s.updCore c f).cores = s.cores.updD c (s.coreReset c) f := rfl
@[simp] theorem State.updCore_quads {c f} : (s.updCore c f).quads = s.quads := rfl
@[simp] theorem State.updCore_tiles {c f} : (s.updCore c f).tiles = s.tiles := rfl
@[simp] theorem State.updCore_joins {c f} : (s.updCore c f).joins = s.joins := rfl
@[simp] theorem State.updCore_keyReqs {c f} : (s.updCore c f).keyReqs = s.keyReqs := rfl
@[simp] theorem State.updCore_taskQueues {c f} : (s.updCore c f).taskQueues = s.taskQueues := rfl
@[simp] theorem State.updCore_gens {c f} : (s.updCore c f).gens = s.gens := rfl
@[simp] theorem State.updCore_learned {c f} : (s.updCore c f).learned = s.learned := rfl
@[simp] theorem State.updCore_reqs {c f} : (s.updCore c f).reqs = s.reqs := rfl
@[simp] theorem State.updCore_ports {c f} : (s.updCore c f).ports = s.ports := rfl
@[simp] theorem State.updCore_merges {c f} : (s.updCore c f).merges = s.merges := rfl
@[simp] theorem State.updCore_msgs {c f} : (s.updCore c f).msgs = s.msgs := rfl
@[simp] theorem State.updCore_groups {c f} : (s.updCore c f).groups = s.groups := rfl
@[simp] theorem State.updCore_contribs {c f} : (s.updCore c f).contribs = s.contribs := rfl
@[simp] theorem State.updCore_crews {c f} : (s.updCore c f).crews = s.crews := rfl
@[simp] theorem State.updCore_loans {c f} : (s.updCore c f).loans = s.loans := rfl
@[simp] theorem State.updCore_transits {c f} : (s.updCore c f).transits = s.transits := rfl
@[simp] theorem State.updCore_cycles {c f} : (s.updCore c f).cycles = s.cycles := rfl
@[simp] theorem State.updCore_subs {c f} : (s.updCore c f).subs = s.subs := rfl
@[simp] theorem State.updCore_launches {c f} : (s.updCore c f).launches = s.launches := rfl
@[simp] theorem State.updCore_parts {c f} : (s.updCore c f).parts = s.parts := rfl
@[simp] theorem State.updCore_pkgs {c f} : (s.updCore c f).pkgs = s.pkgs := rfl
@[simp] theorem State.updCore_eth {c f} : (s.updCore c f).eth = s.eth := rfl
@[simp] theorem State.updCore_sysEvents {c f} : (s.updCore c f).sysEvents = s.sysEvents := rfl
@[simp] theorem State.updCore_agenda {c f} : (s.updCore c f).agenda = s.agenda := rfl
@[simp] theorem State.updCore_focus {c f} : (s.updCore c f).focus = s.focus := rfl
@[simp] theorem State.updCore_cur {c f} : (s.updCore c f).cur = s.cur := rfl
@[simp] theorem State.updCore_cut {c f} : (s.updCore c f).cut = s.cut := rfl
@[simp] theorem State.updCore_bundle {c f} : (s.updCore c f).bundle = s.bundle := rfl
@[simp] theorem State.updCore_obj {c f} : (s.updCore c f).obj = s.obj := rfl
@[simp] theorem State.updCore_fresh {c f} : (s.updCore c f).fresh = s.fresh := rfl

@[simp] theorem State.updQuad_mem {q f} : (s.updQuad q f).mem = s.mem := rfl
@[simp] theorem State.updQuad_fe {q f} : (s.updQuad q f).fe = s.fe := rfl
@[simp] theorem State.updQuad_poison {q f} : (s.updQuad q f).poison = s.poison := rfl
@[simp] theorem State.updQuad_threads {q f} : (s.updQuad q f).threads = s.threads := rfl
@[simp] theorem State.updQuad_nextTid {q f} : (s.updQuad q f).nextTid = s.nextTid := rfl
@[simp] theorem State.updQuad_feWaiters {q f} : (s.updQuad q f).feWaiters = s.feWaiters := rfl
@[simp] theorem State.updQuad_lockWaiters {q f} : (s.updQuad q f).lockWaiters = s.lockWaiters := rfl
@[simp] theorem State.updQuad_cores {q f} : (s.updQuad q f).cores = s.cores := rfl
theorem State.updQuad_quads {q f} : (s.updQuad q f).quads = s.quads.updD q Quad.init f := rfl
@[simp] theorem State.updQuad_tiles {q f} : (s.updQuad q f).tiles = s.tiles := rfl
@[simp] theorem State.updQuad_joins {q f} : (s.updQuad q f).joins = s.joins := rfl
@[simp] theorem State.updQuad_keyReqs {q f} : (s.updQuad q f).keyReqs = s.keyReqs := rfl
@[simp] theorem State.updQuad_taskQueues {q f} : (s.updQuad q f).taskQueues = s.taskQueues := rfl
@[simp] theorem State.updQuad_gens {q f} : (s.updQuad q f).gens = s.gens := rfl
@[simp] theorem State.updQuad_learned {q f} : (s.updQuad q f).learned = s.learned := rfl
@[simp] theorem State.updQuad_reqs {q f} : (s.updQuad q f).reqs = s.reqs := rfl
@[simp] theorem State.updQuad_ports {q f} : (s.updQuad q f).ports = s.ports := rfl
@[simp] theorem State.updQuad_merges {q f} : (s.updQuad q f).merges = s.merges := rfl
@[simp] theorem State.updQuad_msgs {q f} : (s.updQuad q f).msgs = s.msgs := rfl
@[simp] theorem State.updQuad_groups {q f} : (s.updQuad q f).groups = s.groups := rfl
@[simp] theorem State.updQuad_contribs {q f} : (s.updQuad q f).contribs = s.contribs := rfl
@[simp] theorem State.updQuad_crews {q f} : (s.updQuad q f).crews = s.crews := rfl
@[simp] theorem State.updQuad_loans {q f} : (s.updQuad q f).loans = s.loans := rfl
@[simp] theorem State.updQuad_transits {q f} : (s.updQuad q f).transits = s.transits := rfl
@[simp] theorem State.updQuad_cycles {q f} : (s.updQuad q f).cycles = s.cycles := rfl
@[simp] theorem State.updQuad_subs {q f} : (s.updQuad q f).subs = s.subs := rfl
@[simp] theorem State.updQuad_launches {q f} : (s.updQuad q f).launches = s.launches := rfl
@[simp] theorem State.updQuad_parts {q f} : (s.updQuad q f).parts = s.parts := rfl
@[simp] theorem State.updQuad_pkgs {q f} : (s.updQuad q f).pkgs = s.pkgs := rfl
@[simp] theorem State.updQuad_eth {q f} : (s.updQuad q f).eth = s.eth := rfl
@[simp] theorem State.updQuad_sysEvents {q f} : (s.updQuad q f).sysEvents = s.sysEvents := rfl
@[simp] theorem State.updQuad_agenda {q f} : (s.updQuad q f).agenda = s.agenda := rfl
@[simp] theorem State.updQuad_focus {q f} : (s.updQuad q f).focus = s.focus := rfl
@[simp] theorem State.updQuad_cur {q f} : (s.updQuad q f).cur = s.cur := rfl
@[simp] theorem State.updQuad_cut {q f} : (s.updQuad q f).cut = s.cut := rfl
@[simp] theorem State.updQuad_bundle {q f} : (s.updQuad q f).bundle = s.bundle := rfl
@[simp] theorem State.updQuad_obj {q f} : (s.updQuad q f).obj = s.obj := rfl
@[simp] theorem State.updQuad_fresh {q f} : (s.updQuad q f).fresh = s.fresh := rfl

@[simp] theorem State.updThread_mem {k f} : (s.updThread k f).mem = s.mem := rfl
@[simp] theorem State.updThread_fe {k f} : (s.updThread k f).fe = s.fe := rfl
@[simp] theorem State.updThread_poison {k f} : (s.updThread k f).poison = s.poison := rfl
theorem State.updThread_threads {k f} : (s.updThread k f).threads = s.threads.upd k f := rfl
@[simp] theorem State.updThread_nextTid {k f} : (s.updThread k f).nextTid = s.nextTid := rfl
@[simp] theorem State.updThread_feWaiters {k f} : (s.updThread k f).feWaiters = s.feWaiters := rfl
@[simp] theorem State.updThread_lockWaiters {k f} : (s.updThread k f).lockWaiters = s.lockWaiters := rfl
@[simp] theorem State.updThread_cores {k f} : (s.updThread k f).cores = s.cores := rfl
@[simp] theorem State.updThread_quads {k f} : (s.updThread k f).quads = s.quads := rfl
@[simp] theorem State.updThread_tiles {k f} : (s.updThread k f).tiles = s.tiles := rfl
@[simp] theorem State.updThread_joins {k f} : (s.updThread k f).joins = s.joins := rfl
@[simp] theorem State.updThread_keyReqs {k f} : (s.updThread k f).keyReqs = s.keyReqs := rfl
@[simp] theorem State.updThread_taskQueues {k f} : (s.updThread k f).taskQueues = s.taskQueues := rfl
@[simp] theorem State.updThread_gens {k f} : (s.updThread k f).gens = s.gens := rfl
@[simp] theorem State.updThread_learned {k f} : (s.updThread k f).learned = s.learned := rfl
@[simp] theorem State.updThread_reqs {k f} : (s.updThread k f).reqs = s.reqs := rfl
@[simp] theorem State.updThread_ports {k f} : (s.updThread k f).ports = s.ports := rfl
@[simp] theorem State.updThread_merges {k f} : (s.updThread k f).merges = s.merges := rfl
@[simp] theorem State.updThread_msgs {k f} : (s.updThread k f).msgs = s.msgs := rfl
@[simp] theorem State.updThread_groups {k f} : (s.updThread k f).groups = s.groups := rfl
@[simp] theorem State.updThread_contribs {k f} : (s.updThread k f).contribs = s.contribs := rfl
@[simp] theorem State.updThread_crews {k f} : (s.updThread k f).crews = s.crews := rfl
@[simp] theorem State.updThread_loans {k f} : (s.updThread k f).loans = s.loans := rfl
@[simp] theorem State.updThread_transits {k f} : (s.updThread k f).transits = s.transits := rfl
@[simp] theorem State.updThread_cycles {k f} : (s.updThread k f).cycles = s.cycles := rfl
@[simp] theorem State.updThread_subs {k f} : (s.updThread k f).subs = s.subs := rfl
@[simp] theorem State.updThread_launches {k f} : (s.updThread k f).launches = s.launches := rfl
@[simp] theorem State.updThread_parts {k f} : (s.updThread k f).parts = s.parts := rfl
@[simp] theorem State.updThread_pkgs {k f} : (s.updThread k f).pkgs = s.pkgs := rfl
@[simp] theorem State.updThread_eth {k f} : (s.updThread k f).eth = s.eth := rfl
@[simp] theorem State.updThread_sysEvents {k f} : (s.updThread k f).sysEvents = s.sysEvents := rfl
@[simp] theorem State.updThread_agenda {k f} : (s.updThread k f).agenda = s.agenda := rfl
@[simp] theorem State.updThread_focus {k f} : (s.updThread k f).focus = s.focus := rfl
@[simp] theorem State.updThread_cur {k f} : (s.updThread k f).cur = s.cur := rfl
@[simp] theorem State.updThread_cut {k f} : (s.updThread k f).cut = s.cut := rfl
@[simp] theorem State.updThread_bundle {k f} : (s.updThread k f).bundle = s.bundle := rfl
@[simp] theorem State.updThread_obj {k f} : (s.updThread k f).obj = s.obj := rfl
@[simp] theorem State.updThread_fresh {k f} : (s.updThread k f).fresh = s.fresh := rfl

@[simp] theorem State.updJoin_mem {d k f} : (s.updJoin d k f).mem = s.mem := rfl
@[simp] theorem State.updJoin_fe {d k f} : (s.updJoin d k f).fe = s.fe := rfl
@[simp] theorem State.updJoin_poison {d k f} : (s.updJoin d k f).poison = s.poison := rfl
@[simp] theorem State.updJoin_threads {d k f} : (s.updJoin d k f).threads = s.threads := rfl
@[simp] theorem State.updJoin_nextTid {d k f} : (s.updJoin d k f).nextTid = s.nextTid := rfl
@[simp] theorem State.updJoin_feWaiters {d k f} : (s.updJoin d k f).feWaiters = s.feWaiters := rfl
@[simp] theorem State.updJoin_lockWaiters {d k f} : (s.updJoin d k f).lockWaiters = s.lockWaiters := rfl
@[simp] theorem State.updJoin_cores {d k f} : (s.updJoin d k f).cores = s.cores := rfl
@[simp] theorem State.updJoin_quads {d k f} : (s.updJoin d k f).quads = s.quads := rfl
@[simp] theorem State.updJoin_tiles {d k f} : (s.updJoin d k f).tiles = s.tiles := rfl
theorem State.updJoin_joins {d k f} : (s.updJoin d k f).joins = s.joins.updD (d, k) Join.init f := rfl
@[simp] theorem State.updJoin_keyReqs {d k f} : (s.updJoin d k f).keyReqs = s.keyReqs := rfl
@[simp] theorem State.updJoin_taskQueues {d k f} : (s.updJoin d k f).taskQueues = s.taskQueues := rfl
@[simp] theorem State.updJoin_gens {d k f} : (s.updJoin d k f).gens = s.gens := rfl
@[simp] theorem State.updJoin_learned {d k f} : (s.updJoin d k f).learned = s.learned := rfl
@[simp] theorem State.updJoin_reqs {d k f} : (s.updJoin d k f).reqs = s.reqs := rfl
@[simp] theorem State.updJoin_ports {d k f} : (s.updJoin d k f).ports = s.ports := rfl
@[simp] theorem State.updJoin_merges {d k f} : (s.updJoin d k f).merges = s.merges := rfl
@[simp] theorem State.updJoin_msgs {d k f} : (s.updJoin d k f).msgs = s.msgs := rfl
@[simp] theorem State.updJoin_groups {d k f} : (s.updJoin d k f).groups = s.groups := rfl
@[simp] theorem State.updJoin_contribs {d k f} : (s.updJoin d k f).contribs = s.contribs := rfl
@[simp] theorem State.updJoin_crews {d k f} : (s.updJoin d k f).crews = s.crews := rfl
@[simp] theorem State.updJoin_loans {d k f} : (s.updJoin d k f).loans = s.loans := rfl
@[simp] theorem State.updJoin_transits {d k f} : (s.updJoin d k f).transits = s.transits := rfl
@[simp] theorem State.updJoin_cycles {d k f} : (s.updJoin d k f).cycles = s.cycles := rfl
@[simp] theorem State.updJoin_subs {d k f} : (s.updJoin d k f).subs = s.subs := rfl
@[simp] theorem State.updJoin_launches {d k f} : (s.updJoin d k f).launches = s.launches := rfl
@[simp] theorem State.updJoin_parts {d k f} : (s.updJoin d k f).parts = s.parts := rfl
@[simp] theorem State.updJoin_pkgs {d k f} : (s.updJoin d k f).pkgs = s.pkgs := rfl
@[simp] theorem State.updJoin_eth {d k f} : (s.updJoin d k f).eth = s.eth := rfl
@[simp] theorem State.updJoin_sysEvents {d k f} : (s.updJoin d k f).sysEvents = s.sysEvents := rfl
@[simp] theorem State.updJoin_agenda {d k f} : (s.updJoin d k f).agenda = s.agenda := rfl
@[simp] theorem State.updJoin_focus {d k f} : (s.updJoin d k f).focus = s.focus := rfl
@[simp] theorem State.updJoin_cur {d k f} : (s.updJoin d k f).cur = s.cur := rfl
@[simp] theorem State.updJoin_cut {d k f} : (s.updJoin d k f).cut = s.cut := rfl
@[simp] theorem State.updJoin_bundle {d k f} : (s.updJoin d k f).bundle = s.bundle := rfl
@[simp] theorem State.updJoin_obj {d k f} : (s.updJoin d k f).obj = s.obj := rfl
@[simp] theorem State.updJoin_fresh {d k f} : (s.updJoin d k f).fresh = s.fresh := rfl

@[simp] theorem State.updTaskQueue_mem {q f} : (s.updTaskQueue q f).mem = s.mem := rfl
@[simp] theorem State.updTaskQueue_fe {q f} : (s.updTaskQueue q f).fe = s.fe := rfl
@[simp] theorem State.updTaskQueue_poison {q f} : (s.updTaskQueue q f).poison = s.poison := rfl
@[simp] theorem State.updTaskQueue_threads {q f} : (s.updTaskQueue q f).threads = s.threads := rfl
@[simp] theorem State.updTaskQueue_nextTid {q f} : (s.updTaskQueue q f).nextTid = s.nextTid := rfl
@[simp] theorem State.updTaskQueue_feWaiters {q f} : (s.updTaskQueue q f).feWaiters = s.feWaiters := rfl
@[simp] theorem State.updTaskQueue_lockWaiters {q f} : (s.updTaskQueue q f).lockWaiters = s.lockWaiters := rfl
@[simp] theorem State.updTaskQueue_cores {q f} : (s.updTaskQueue q f).cores = s.cores := rfl
@[simp] theorem State.updTaskQueue_quads {q f} : (s.updTaskQueue q f).quads = s.quads := rfl
@[simp] theorem State.updTaskQueue_tiles {q f} : (s.updTaskQueue q f).tiles = s.tiles := rfl
@[simp] theorem State.updTaskQueue_joins {q f} : (s.updTaskQueue q f).joins = s.joins := rfl
@[simp] theorem State.updTaskQueue_keyReqs {q f} : (s.updTaskQueue q f).keyReqs = s.keyReqs := rfl
theorem State.updTaskQueue_taskQueues {q f} : (s.updTaskQueue q f).taskQueues = s.taskQueues.updD q TaskQueue.init f := rfl
@[simp] theorem State.updTaskQueue_gens {q f} : (s.updTaskQueue q f).gens = s.gens := rfl
@[simp] theorem State.updTaskQueue_learned {q f} : (s.updTaskQueue q f).learned = s.learned := rfl
@[simp] theorem State.updTaskQueue_reqs {q f} : (s.updTaskQueue q f).reqs = s.reqs := rfl
@[simp] theorem State.updTaskQueue_ports {q f} : (s.updTaskQueue q f).ports = s.ports := rfl
@[simp] theorem State.updTaskQueue_merges {q f} : (s.updTaskQueue q f).merges = s.merges := rfl
@[simp] theorem State.updTaskQueue_msgs {q f} : (s.updTaskQueue q f).msgs = s.msgs := rfl
@[simp] theorem State.updTaskQueue_groups {q f} : (s.updTaskQueue q f).groups = s.groups := rfl
@[simp] theorem State.updTaskQueue_contribs {q f} : (s.updTaskQueue q f).contribs = s.contribs := rfl
@[simp] theorem State.updTaskQueue_crews {q f} : (s.updTaskQueue q f).crews = s.crews := rfl
@[simp] theorem State.updTaskQueue_loans {q f} : (s.updTaskQueue q f).loans = s.loans := rfl
@[simp] theorem State.updTaskQueue_transits {q f} : (s.updTaskQueue q f).transits = s.transits := rfl
@[simp] theorem State.updTaskQueue_cycles {q f} : (s.updTaskQueue q f).cycles = s.cycles := rfl
@[simp] theorem State.updTaskQueue_subs {q f} : (s.updTaskQueue q f).subs = s.subs := rfl
@[simp] theorem State.updTaskQueue_launches {q f} : (s.updTaskQueue q f).launches = s.launches := rfl
@[simp] theorem State.updTaskQueue_parts {q f} : (s.updTaskQueue q f).parts = s.parts := rfl
@[simp] theorem State.updTaskQueue_pkgs {q f} : (s.updTaskQueue q f).pkgs = s.pkgs := rfl
@[simp] theorem State.updTaskQueue_eth {q f} : (s.updTaskQueue q f).eth = s.eth := rfl
@[simp] theorem State.updTaskQueue_sysEvents {q f} : (s.updTaskQueue q f).sysEvents = s.sysEvents := rfl
@[simp] theorem State.updTaskQueue_agenda {q f} : (s.updTaskQueue q f).agenda = s.agenda := rfl
@[simp] theorem State.updTaskQueue_focus {q f} : (s.updTaskQueue q f).focus = s.focus := rfl
@[simp] theorem State.updTaskQueue_cur {q f} : (s.updTaskQueue q f).cur = s.cur := rfl
@[simp] theorem State.updTaskQueue_cut {q f} : (s.updTaskQueue q f).cut = s.cut := rfl
@[simp] theorem State.updTaskQueue_bundle {q f} : (s.updTaskQueue q f).bundle = s.bundle := rfl
@[simp] theorem State.updTaskQueue_obj {q f} : (s.updTaskQueue q f).obj = s.obj := rfl
@[simp] theorem State.updTaskQueue_fresh {q f} : (s.updTaskQueue q f).fresh = s.fresh := rfl

@[simp] theorem State.updPort_mem {p f} : (s.updPort p f).mem = s.mem := rfl
@[simp] theorem State.updPort_fe {p f} : (s.updPort p f).fe = s.fe := rfl
@[simp] theorem State.updPort_poison {p f} : (s.updPort p f).poison = s.poison := rfl
@[simp] theorem State.updPort_threads {p f} : (s.updPort p f).threads = s.threads := rfl
@[simp] theorem State.updPort_nextTid {p f} : (s.updPort p f).nextTid = s.nextTid := rfl
@[simp] theorem State.updPort_feWaiters {p f} : (s.updPort p f).feWaiters = s.feWaiters := rfl
@[simp] theorem State.updPort_lockWaiters {p f} : (s.updPort p f).lockWaiters = s.lockWaiters := rfl
@[simp] theorem State.updPort_cores {p f} : (s.updPort p f).cores = s.cores := rfl
@[simp] theorem State.updPort_quads {p f} : (s.updPort p f).quads = s.quads := rfl
@[simp] theorem State.updPort_tiles {p f} : (s.updPort p f).tiles = s.tiles := rfl
@[simp] theorem State.updPort_joins {p f} : (s.updPort p f).joins = s.joins := rfl
@[simp] theorem State.updPort_keyReqs {p f} : (s.updPort p f).keyReqs = s.keyReqs := rfl
@[simp] theorem State.updPort_taskQueues {p f} : (s.updPort p f).taskQueues = s.taskQueues := rfl
@[simp] theorem State.updPort_gens {p f} : (s.updPort p f).gens = s.gens := rfl
@[simp] theorem State.updPort_learned {p f} : (s.updPort p f).learned = s.learned := rfl
@[simp] theorem State.updPort_reqs {p f} : (s.updPort p f).reqs = s.reqs := rfl
theorem State.updPort_ports {p f} : (s.updPort p f).ports = s.ports.updD p SpanPort.init f := rfl
@[simp] theorem State.updPort_merges {p f} : (s.updPort p f).merges = s.merges := rfl
@[simp] theorem State.updPort_msgs {p f} : (s.updPort p f).msgs = s.msgs := rfl
@[simp] theorem State.updPort_groups {p f} : (s.updPort p f).groups = s.groups := rfl
@[simp] theorem State.updPort_contribs {p f} : (s.updPort p f).contribs = s.contribs := rfl
@[simp] theorem State.updPort_crews {p f} : (s.updPort p f).crews = s.crews := rfl
@[simp] theorem State.updPort_loans {p f} : (s.updPort p f).loans = s.loans := rfl
@[simp] theorem State.updPort_transits {p f} : (s.updPort p f).transits = s.transits := rfl
@[simp] theorem State.updPort_cycles {p f} : (s.updPort p f).cycles = s.cycles := rfl
@[simp] theorem State.updPort_subs {p f} : (s.updPort p f).subs = s.subs := rfl
@[simp] theorem State.updPort_launches {p f} : (s.updPort p f).launches = s.launches := rfl
@[simp] theorem State.updPort_parts {p f} : (s.updPort p f).parts = s.parts := rfl
@[simp] theorem State.updPort_pkgs {p f} : (s.updPort p f).pkgs = s.pkgs := rfl
@[simp] theorem State.updPort_eth {p f} : (s.updPort p f).eth = s.eth := rfl
@[simp] theorem State.updPort_sysEvents {p f} : (s.updPort p f).sysEvents = s.sysEvents := rfl
@[simp] theorem State.updPort_agenda {p f} : (s.updPort p f).agenda = s.agenda := rfl
@[simp] theorem State.updPort_focus {p f} : (s.updPort p f).focus = s.focus := rfl
@[simp] theorem State.updPort_cur {p f} : (s.updPort p f).cur = s.cur := rfl
@[simp] theorem State.updPort_cut {p f} : (s.updPort p f).cut = s.cut := rfl
@[simp] theorem State.updPort_bundle {p f} : (s.updPort p f).bundle = s.bundle := rfl
@[simp] theorem State.updPort_obj {p f} : (s.updPort p f).obj = s.obj := rfl
@[simp] theorem State.updPort_fresh {p f} : (s.updPort p f).fresh = s.fresh := rfl

@[simp] theorem State.updHwQueue_mem {k q f} : (s.updHwQueue k q f).mem = s.mem := rfl
@[simp] theorem State.updHwQueue_fe {k q f} : (s.updHwQueue k q f).fe = s.fe := rfl
@[simp] theorem State.updHwQueue_poison {k q f} : (s.updHwQueue k q f).poison = s.poison := rfl
@[simp] theorem State.updHwQueue_threads {k q f} : (s.updHwQueue k q f).threads = s.threads := rfl
@[simp] theorem State.updHwQueue_nextTid {k q f} : (s.updHwQueue k q f).nextTid = s.nextTid := rfl
@[simp] theorem State.updHwQueue_feWaiters {k q f} : (s.updHwQueue k q f).feWaiters = s.feWaiters := rfl
@[simp] theorem State.updHwQueue_lockWaiters {k q f} : (s.updHwQueue k q f).lockWaiters = s.lockWaiters := rfl
@[simp] theorem State.updHwQueue_cores {k q f} : (s.updHwQueue k q f).cores = s.cores := rfl
@[simp] theorem State.updHwQueue_quads {k q f} : (s.updHwQueue k q f).quads = s.quads := rfl
@[simp] theorem State.updHwQueue_joins {k q f} : (s.updHwQueue k q f).joins = s.joins := rfl
@[simp] theorem State.updHwQueue_keyReqs {k q f} : (s.updHwQueue k q f).keyReqs = s.keyReqs := rfl
@[simp] theorem State.updHwQueue_taskQueues {k q f} : (s.updHwQueue k q f).taskQueues = s.taskQueues := rfl
@[simp] theorem State.updHwQueue_gens {k q f} : (s.updHwQueue k q f).gens = s.gens := rfl
@[simp] theorem State.updHwQueue_learned {k q f} : (s.updHwQueue k q f).learned = s.learned := rfl
@[simp] theorem State.updHwQueue_reqs {k q f} : (s.updHwQueue k q f).reqs = s.reqs := rfl
@[simp] theorem State.updHwQueue_ports {k q f} : (s.updHwQueue k q f).ports = s.ports := rfl
@[simp] theorem State.updHwQueue_merges {k q f} : (s.updHwQueue k q f).merges = s.merges := rfl
@[simp] theorem State.updHwQueue_msgs {k q f} : (s.updHwQueue k q f).msgs = s.msgs := rfl
@[simp] theorem State.updHwQueue_groups {k q f} : (s.updHwQueue k q f).groups = s.groups := rfl
@[simp] theorem State.updHwQueue_contribs {k q f} : (s.updHwQueue k q f).contribs = s.contribs := rfl
@[simp] theorem State.updHwQueue_crews {k q f} : (s.updHwQueue k q f).crews = s.crews := rfl
@[simp] theorem State.updHwQueue_loans {k q f} : (s.updHwQueue k q f).loans = s.loans := rfl
@[simp] theorem State.updHwQueue_transits {k q f} : (s.updHwQueue k q f).transits = s.transits := rfl
@[simp] theorem State.updHwQueue_cycles {k q f} : (s.updHwQueue k q f).cycles = s.cycles := rfl
@[simp] theorem State.updHwQueue_subs {k q f} : (s.updHwQueue k q f).subs = s.subs := rfl
@[simp] theorem State.updHwQueue_launches {k q f} : (s.updHwQueue k q f).launches = s.launches := rfl
@[simp] theorem State.updHwQueue_parts {k q f} : (s.updHwQueue k q f).parts = s.parts := rfl
@[simp] theorem State.updHwQueue_pkgs {k q f} : (s.updHwQueue k q f).pkgs = s.pkgs := rfl
@[simp] theorem State.updHwQueue_eth {k q f} : (s.updHwQueue k q f).eth = s.eth := rfl
@[simp] theorem State.updHwQueue_sysEvents {k q f} : (s.updHwQueue k q f).sysEvents = s.sysEvents := rfl
@[simp] theorem State.updHwQueue_agenda {k q f} : (s.updHwQueue k q f).agenda = s.agenda := rfl
@[simp] theorem State.updHwQueue_focus {k q f} : (s.updHwQueue k q f).focus = s.focus := rfl
@[simp] theorem State.updHwQueue_cur {k q f} : (s.updHwQueue k q f).cur = s.cur := rfl
@[simp] theorem State.updHwQueue_cut {k q f} : (s.updHwQueue k q f).cut = s.cut := rfl
@[simp] theorem State.updHwQueue_bundle {k q f} : (s.updHwQueue k q f).bundle = s.bundle := rfl
@[simp] theorem State.updHwQueue_obj {k q f} : (s.updHwQueue k q f).obj = s.obj := rfl
@[simp] theorem State.updHwQueue_fresh {k q f} : (s.updHwQueue k q f).fresh = s.fresh := rfl

@[simp] theorem State.updGroup_mem {p g f} : (s.updGroup p g f).mem = s.mem := rfl
@[simp] theorem State.updGroup_fe {p g f} : (s.updGroup p g f).fe = s.fe := rfl
@[simp] theorem State.updGroup_poison {p g f} : (s.updGroup p g f).poison = s.poison := rfl
@[simp] theorem State.updGroup_threads {p g f} : (s.updGroup p g f).threads = s.threads := rfl
@[simp] theorem State.updGroup_nextTid {p g f} : (s.updGroup p g f).nextTid = s.nextTid := rfl
@[simp] theorem State.updGroup_feWaiters {p g f} : (s.updGroup p g f).feWaiters = s.feWaiters := rfl
@[simp] theorem State.updGroup_lockWaiters {p g f} : (s.updGroup p g f).lockWaiters = s.lockWaiters := rfl
@[simp] theorem State.updGroup_cores {p g f} : (s.updGroup p g f).cores = s.cores := rfl
@[simp] theorem State.updGroup_quads {p g f} : (s.updGroup p g f).quads = s.quads := rfl
@[simp] theorem State.updGroup_tiles {p g f} : (s.updGroup p g f).tiles = s.tiles := rfl
@[simp] theorem State.updGroup_joins {p g f} : (s.updGroup p g f).joins = s.joins := rfl
@[simp] theorem State.updGroup_keyReqs {p g f} : (s.updGroup p g f).keyReqs = s.keyReqs := rfl
@[simp] theorem State.updGroup_taskQueues {p g f} : (s.updGroup p g f).taskQueues = s.taskQueues := rfl
@[simp] theorem State.updGroup_gens {p g f} : (s.updGroup p g f).gens = s.gens := rfl
@[simp] theorem State.updGroup_learned {p g f} : (s.updGroup p g f).learned = s.learned := rfl
@[simp] theorem State.updGroup_reqs {p g f} : (s.updGroup p g f).reqs = s.reqs := rfl
@[simp] theorem State.updGroup_ports {p g f} : (s.updGroup p g f).ports = s.ports := rfl
@[simp] theorem State.updGroup_merges {p g f} : (s.updGroup p g f).merges = s.merges := rfl
@[simp] theorem State.updGroup_msgs {p g f} : (s.updGroup p g f).msgs = s.msgs := rfl
theorem State.updGroup_groups {p g f} : (s.updGroup p g f).groups = s.groups.upd (p, g) f := rfl
@[simp] theorem State.updGroup_contribs {p g f} : (s.updGroup p g f).contribs = s.contribs := rfl
@[simp] theorem State.updGroup_crews {p g f} : (s.updGroup p g f).crews = s.crews := rfl
@[simp] theorem State.updGroup_loans {p g f} : (s.updGroup p g f).loans = s.loans := rfl
@[simp] theorem State.updGroup_transits {p g f} : (s.updGroup p g f).transits = s.transits := rfl
@[simp] theorem State.updGroup_cycles {p g f} : (s.updGroup p g f).cycles = s.cycles := rfl
@[simp] theorem State.updGroup_subs {p g f} : (s.updGroup p g f).subs = s.subs := rfl
@[simp] theorem State.updGroup_launches {p g f} : (s.updGroup p g f).launches = s.launches := rfl
@[simp] theorem State.updGroup_parts {p g f} : (s.updGroup p g f).parts = s.parts := rfl
@[simp] theorem State.updGroup_pkgs {p g f} : (s.updGroup p g f).pkgs = s.pkgs := rfl
@[simp] theorem State.updGroup_eth {p g f} : (s.updGroup p g f).eth = s.eth := rfl
@[simp] theorem State.updGroup_sysEvents {p g f} : (s.updGroup p g f).sysEvents = s.sysEvents := rfl
@[simp] theorem State.updGroup_agenda {p g f} : (s.updGroup p g f).agenda = s.agenda := rfl
@[simp] theorem State.updGroup_focus {p g f} : (s.updGroup p g f).focus = s.focus := rfl
@[simp] theorem State.updGroup_cur {p g f} : (s.updGroup p g f).cur = s.cur := rfl
@[simp] theorem State.updGroup_cut {p g f} : (s.updGroup p g f).cut = s.cut := rfl
@[simp] theorem State.updGroup_bundle {p g f} : (s.updGroup p g f).bundle = s.bundle := rfl
@[simp] theorem State.updGroup_obj {p g f} : (s.updGroup p g f).obj = s.obj := rfl
@[simp] theorem State.updGroup_fresh {p g f} : (s.updGroup p g f).fresh = s.fresh := rfl

@[simp] theorem State.updCrew_mem {c f} : (s.updCrew c f).mem = s.mem := rfl
@[simp] theorem State.updCrew_fe {c f} : (s.updCrew c f).fe = s.fe := rfl
@[simp] theorem State.updCrew_poison {c f} : (s.updCrew c f).poison = s.poison := rfl
@[simp] theorem State.updCrew_threads {c f} : (s.updCrew c f).threads = s.threads := rfl
@[simp] theorem State.updCrew_nextTid {c f} : (s.updCrew c f).nextTid = s.nextTid := rfl
@[simp] theorem State.updCrew_feWaiters {c f} : (s.updCrew c f).feWaiters = s.feWaiters := rfl
@[simp] theorem State.updCrew_lockWaiters {c f} : (s.updCrew c f).lockWaiters = s.lockWaiters := rfl
@[simp] theorem State.updCrew_cores {c f} : (s.updCrew c f).cores = s.cores := rfl
@[simp] theorem State.updCrew_quads {c f} : (s.updCrew c f).quads = s.quads := rfl
@[simp] theorem State.updCrew_tiles {c f} : (s.updCrew c f).tiles = s.tiles := rfl
@[simp] theorem State.updCrew_joins {c f} : (s.updCrew c f).joins = s.joins := rfl
@[simp] theorem State.updCrew_keyReqs {c f} : (s.updCrew c f).keyReqs = s.keyReqs := rfl
@[simp] theorem State.updCrew_taskQueues {c f} : (s.updCrew c f).taskQueues = s.taskQueues := rfl
@[simp] theorem State.updCrew_gens {c f} : (s.updCrew c f).gens = s.gens := rfl
@[simp] theorem State.updCrew_learned {c f} : (s.updCrew c f).learned = s.learned := rfl
@[simp] theorem State.updCrew_reqs {c f} : (s.updCrew c f).reqs = s.reqs := rfl
@[simp] theorem State.updCrew_ports {c f} : (s.updCrew c f).ports = s.ports := rfl
@[simp] theorem State.updCrew_merges {c f} : (s.updCrew c f).merges = s.merges := rfl
@[simp] theorem State.updCrew_msgs {c f} : (s.updCrew c f).msgs = s.msgs := rfl
@[simp] theorem State.updCrew_groups {c f} : (s.updCrew c f).groups = s.groups := rfl
@[simp] theorem State.updCrew_contribs {c f} : (s.updCrew c f).contribs = s.contribs := rfl
theorem State.updCrew_crews {c f} : (s.updCrew c f).crews = s.crews.upd c f := rfl
@[simp] theorem State.updCrew_loans {c f} : (s.updCrew c f).loans = s.loans := rfl
@[simp] theorem State.updCrew_transits {c f} : (s.updCrew c f).transits = s.transits := rfl
@[simp] theorem State.updCrew_cycles {c f} : (s.updCrew c f).cycles = s.cycles := rfl
@[simp] theorem State.updCrew_subs {c f} : (s.updCrew c f).subs = s.subs := rfl
@[simp] theorem State.updCrew_launches {c f} : (s.updCrew c f).launches = s.launches := rfl
@[simp] theorem State.updCrew_parts {c f} : (s.updCrew c f).parts = s.parts := rfl
@[simp] theorem State.updCrew_pkgs {c f} : (s.updCrew c f).pkgs = s.pkgs := rfl
@[simp] theorem State.updCrew_eth {c f} : (s.updCrew c f).eth = s.eth := rfl
@[simp] theorem State.updCrew_sysEvents {c f} : (s.updCrew c f).sysEvents = s.sysEvents := rfl
@[simp] theorem State.updCrew_agenda {c f} : (s.updCrew c f).agenda = s.agenda := rfl
@[simp] theorem State.updCrew_focus {c f} : (s.updCrew c f).focus = s.focus := rfl
@[simp] theorem State.updCrew_cur {c f} : (s.updCrew c f).cur = s.cur := rfl
@[simp] theorem State.updCrew_cut {c f} : (s.updCrew c f).cut = s.cut := rfl
@[simp] theorem State.updCrew_bundle {c f} : (s.updCrew c f).bundle = s.bundle := rfl
@[simp] theorem State.updCrew_obj {c f} : (s.updCrew c f).obj = s.obj := rfl
@[simp] theorem State.updCrew_fresh {c f} : (s.updCrew c f).fresh = s.fresh := rfl

@[simp] theorem State.post_mem {i o} : (s.post i o).mem = s.mem := rfl
@[simp] theorem State.post_fe {i o} : (s.post i o).fe = s.fe := rfl
@[simp] theorem State.post_poison {i o} : (s.post i o).poison = s.poison := rfl
@[simp] theorem State.post_threads {i o} : (s.post i o).threads = s.threads := rfl
@[simp] theorem State.post_nextTid {i o} : (s.post i o).nextTid = s.nextTid := rfl
@[simp] theorem State.post_feWaiters {i o} : (s.post i o).feWaiters = s.feWaiters := rfl
@[simp] theorem State.post_lockWaiters {i o} : (s.post i o).lockWaiters = s.lockWaiters := rfl
@[simp] theorem State.post_cores {i o} : (s.post i o).cores = s.cores := rfl
@[simp] theorem State.post_quads {i o} : (s.post i o).quads = s.quads := rfl
@[simp] theorem State.post_tiles {i o} : (s.post i o).tiles = s.tiles := rfl
@[simp] theorem State.post_joins {i o} : (s.post i o).joins = s.joins := rfl
@[simp] theorem State.post_keyReqs {i o} : (s.post i o).keyReqs = s.keyReqs := rfl
@[simp] theorem State.post_taskQueues {i o} : (s.post i o).taskQueues = s.taskQueues := rfl
@[simp] theorem State.post_gens {i o} : (s.post i o).gens = s.gens := rfl
@[simp] theorem State.post_learned {i o} : (s.post i o).learned = s.learned := rfl
@[simp] theorem State.post_reqs {i o} : (s.post i o).reqs = s.reqs := rfl
@[simp] theorem State.post_ports {i o} : (s.post i o).ports = s.ports := rfl
@[simp] theorem State.post_merges {i o} : (s.post i o).merges = s.merges := rfl
@[simp] theorem State.post_msgs {i o} : (s.post i o).msgs = s.msgs := rfl
@[simp] theorem State.post_groups {i o} : (s.post i o).groups = s.groups := rfl
@[simp] theorem State.post_contribs {i o} : (s.post i o).contribs = s.contribs := rfl
@[simp] theorem State.post_crews {i o} : (s.post i o).crews = s.crews := rfl
@[simp] theorem State.post_loans {i o} : (s.post i o).loans = s.loans := rfl
@[simp] theorem State.post_transits {i o} : (s.post i o).transits = s.transits := rfl
@[simp] theorem State.post_cycles {i o} : (s.post i o).cycles = s.cycles := rfl
@[simp] theorem State.post_subs {i o} : (s.post i o).subs = s.subs := rfl
@[simp] theorem State.post_launches {i o} : (s.post i o).launches = s.launches := rfl
@[simp] theorem State.post_parts {i o} : (s.post i o).parts = s.parts := rfl
@[simp] theorem State.post_pkgs {i o} : (s.post i o).pkgs = s.pkgs := rfl
@[simp] theorem State.post_eth {i o} : (s.post i o).eth = s.eth := rfl
@[simp] theorem State.post_sysEvents {i o} : (s.post i o).sysEvents = s.sysEvents := rfl
theorem State.post_agenda {i o} : (s.post i o).agenda = s.agenda ++ [.event i o] := rfl
@[simp] theorem State.post_focus {i o} : (s.post i o).focus = s.focus := rfl
@[simp] theorem State.post_cur {i o} : (s.post i o).cur = s.cur := rfl
@[simp] theorem State.post_cut {i o} : (s.post i o).cut = s.cut := rfl
@[simp] theorem State.post_bundle {i o} : (s.post i o).bundle = s.bundle := rfl
@[simp] theorem State.post_obj {i o} : (s.post i o).obj = s.obj := rfl
@[simp] theorem State.post_fresh {i o} : (s.post i o).fresh = s.fresh := rfl

@[simp] theorem State.tick_mem : (s.tick).mem = s.mem := rfl
@[simp] theorem State.tick_fe : (s.tick).fe = s.fe := rfl
@[simp] theorem State.tick_poison : (s.tick).poison = s.poison := rfl
@[simp] theorem State.tick_threads : (s.tick).threads = s.threads := rfl
@[simp] theorem State.tick_nextTid : (s.tick).nextTid = s.nextTid := rfl
@[simp] theorem State.tick_feWaiters : (s.tick).feWaiters = s.feWaiters := rfl
@[simp] theorem State.tick_lockWaiters : (s.tick).lockWaiters = s.lockWaiters := rfl
@[simp] theorem State.tick_cores : (s.tick).cores = s.cores := rfl
@[simp] theorem State.tick_quads : (s.tick).quads = s.quads := rfl
@[simp] theorem State.tick_tiles : (s.tick).tiles = s.tiles := rfl
@[simp] theorem State.tick_joins : (s.tick).joins = s.joins := rfl
@[simp] theorem State.tick_keyReqs : (s.tick).keyReqs = s.keyReqs := rfl
@[simp] theorem State.tick_taskQueues : (s.tick).taskQueues = s.taskQueues := rfl
@[simp] theorem State.tick_gens : (s.tick).gens = s.gens := rfl
@[simp] theorem State.tick_learned : (s.tick).learned = s.learned := rfl
@[simp] theorem State.tick_reqs : (s.tick).reqs = s.reqs := rfl
@[simp] theorem State.tick_ports : (s.tick).ports = s.ports := rfl
@[simp] theorem State.tick_merges : (s.tick).merges = s.merges := rfl
@[simp] theorem State.tick_msgs : (s.tick).msgs = s.msgs := rfl
@[simp] theorem State.tick_groups : (s.tick).groups = s.groups := rfl
@[simp] theorem State.tick_contribs : (s.tick).contribs = s.contribs := rfl
@[simp] theorem State.tick_crews : (s.tick).crews = s.crews := rfl
@[simp] theorem State.tick_loans : (s.tick).loans = s.loans := rfl
@[simp] theorem State.tick_transits : (s.tick).transits = s.transits := rfl
@[simp] theorem State.tick_cycles : (s.tick).cycles = s.cycles := rfl
@[simp] theorem State.tick_subs : (s.tick).subs = s.subs := rfl
@[simp] theorem State.tick_launches : (s.tick).launches = s.launches := rfl
@[simp] theorem State.tick_parts : (s.tick).parts = s.parts := rfl
@[simp] theorem State.tick_pkgs : (s.tick).pkgs = s.pkgs := rfl
@[simp] theorem State.tick_eth : (s.tick).eth = s.eth := rfl
@[simp] theorem State.tick_sysEvents : (s.tick).sysEvents = s.sysEvents := rfl
@[simp] theorem State.tick_agenda : (s.tick).agenda = s.agenda := rfl
@[simp] theorem State.tick_focus : (s.tick).focus = s.focus := rfl
@[simp] theorem State.tick_cur : (s.tick).cur = s.cur := rfl
@[simp] theorem State.tick_cut : (s.tick).cut = s.cut := rfl
@[simp] theorem State.tick_bundle : (s.tick).bundle = s.bundle := rfl
@[simp] theorem State.tick_obj : (s.tick).obj = s.obj := rfl
theorem State.tick_fresh : (s.tick).fresh = s.fresh + 1 := rfl

/-! ### Updates of a thread -/

@[simp] theorem Thread.setReg_place {r v} : (t.setReg r v).place = t.place := by unfold Thread.setReg; split <;> rfl
@[simp] theorem Thread.setReg_status {r v} : (t.setReg r v).status = t.status := by unfold Thread.setReg; split <;> rfl
@[simp] theorem Thread.setReg_wait {r v} : (t.setReg r v).wait = t.wait := by unfold Thread.setReg; split <;> rfl
@[simp] theorem Thread.setReg_h {r v} : (t.setReg r v).h = t.h := by unfold Thread.setReg; split <;> rfl
@[simp] theorem Thread.setReg_pc {r v} : (t.setReg r v).pc = t.pc := by unfold Thread.setReg; split <;> rfl
@[simp] theorem Thread.setReg_tstat {r v} : (t.setReg r v).tstat = t.tstat := by unfold Thread.setReg; split <;> rfl
@[simp] theorem Thread.setReg_epc {r v} : (t.setReg r v).epc = t.epc := by unfold Thread.setReg; split <;> rfl
@[simp] theorem Thread.setReg_ecause {r v} : (t.setReg r v).ecause = t.ecause := by unfold Thread.setReg; split <;> rfl
@[simp] theorem Thread.setReg_eval {r v} : (t.setReg r v).eval = t.eval := by unfold Thread.setReg; split <;> rfl
@[simp] theorem Thread.setReg_estat {r v} : (t.setReg r v).estat = t.estat := by unfold Thread.setReg; split <;> rfl
@[simp] theorem Thread.setReg_fctl {r v} : (t.setReg r v).fctl = t.fctl := by unfold Thread.setReg; split <;> rfl
@[simp] theorem Thread.setReg_fmt {r v} : (t.setReg r v).fmt = t.fmt := by unfold Thread.setReg; split <;> rfl
@[simp] theorem Thread.setReg_mstat {r v} : (t.setReg r v).mstat = t.mstat := by unfold Thread.setReg; split <;> rfl
@[simp] theorem Thread.setReg_tlog {r v} : (t.setReg r v).tlog = t.tlog := by unfold Thread.setReg; split <;> rfl
@[simp] theorem Thread.setReg_htab {r v} : (t.setReg r v).htab = t.htab := by unfold Thread.setReg; split <;> rfl
@[simp] theorem Thread.setReg_epid {r v} : (t.setReg r v).epid = t.epid := by unfold Thread.setReg; split <;> rfl
@[simp] theorem Thread.setReg_part {r v} : (t.setReg r v).part = t.part := by unfold Thread.setReg; split <;> rfl
@[simp] theorem Thread.setReg_launch {r v} : (t.setReg r v).launch = t.launch := by unfold Thread.setReg; split <;> rfl
@[simp] theorem Thread.setReg_start {r v} : (t.setReg r v).start = t.start := by unfold Thread.setReg; split <;> rfl
@[simp] theorem Thread.setReg_crew {r v} : (t.setReg r v).crew = t.crew := by unfold Thread.setReg; split <;> rfl
@[simp] theorem Thread.setReg_vlen {r v} : (t.setReg r v).vlen = t.vlen := by unfold Thread.setReg; split <;> rfl
@[simp] theorem Thread.setReg_claim {r v} : (t.setReg r v).claim = t.claim := by unfold Thread.setReg; split <;> rfl
@[simp] theorem Thread.setReg_savedVlen {r v} : (t.setReg r v).savedVlen = t.savedVlen := by unfold Thread.setReg; split <;> rfl
@[simp] theorem Thread.setReg_v {r v} : (t.setReg r v).v = t.v := by unfold Thread.setReg; split <;> rfl
@[simp] theorem Thread.setReg_m {r v} : (t.setReg r v).m = t.m := by unfold Thread.setReg; split <;> rfl
@[simp] theorem Thread.setReg_lastIssue {r v} : (t.setReg r v).lastIssue = t.lastIssue := by unfold Thread.setReg; split <;> rfl
@[simp] theorem Thread.setReg_notBefore {r v} : (t.setReg r v).notBefore = t.notBefore := by unfold Thread.setReg; split <;> rfl
@[simp] theorem Thread.setReg_pfx {r v} : (t.setReg r v).pfx = t.pfx := by unfold Thread.setReg; split <;> rfl
@[simp] theorem Thread.setReg_afterPfx {r v} : (t.setReg r v).afterPfx = t.afterPfx := by unfold Thread.setReg; split <;> rfl
@[simp] theorem Thread.setReg_issuedPc {r v} : (t.setReg r v).issuedPc = t.issuedPc := by unfold Thread.setReg; split <;> rfl
@[simp] theorem Thread.setReg_issuedPfx {r v} : (t.setReg r v).issuedPfx = t.issuedPfx := by unfold Thread.setReg; split <;> rfl
@[simp] theorem Thread.setReg_parkedAt {r v} : (t.setReg r v).parkedAt = t.parkedAt := by unfold Thread.setReg; split <;> rfl
@[simp] theorem Thread.setReg_relaxed {r v} : (t.setReg r v).relaxed = t.relaxed := by unfold Thread.setReg; split <;> rfl
@[simp] theorem Thread.setReg_lost {r v} : (t.setReg r v).lost = t.lost := by unfold Thread.setReg; split <;> rfl
@[simp] theorem Thread.setReg_posted {r v} : (t.setReg r v).posted = t.posted := by unfold Thread.setReg; split <;> rfl
@[simp] theorem Thread.setReg_sfuLeft {r v} : (t.setReg r v).sfuLeft = t.sfuLeft := by unfold Thread.setReg; split <;> rfl
@[simp] theorem Thread.setReg_inbox {r v} : (t.setReg r v).inbox = t.inbox := by unfold Thread.setReg; split <;> rfl
@[simp] theorem Thread.setReg_streams {r v} : (t.setReg r v).streams = t.streams := by unfold Thread.setReg; split <;> rfl
@[simp] theorem Thread.setReg_groups {r v} : (t.setReg r v).groups = t.groups := by unfold Thread.setReg; split <;> rfl
@[simp] theorem Thread.setReg_queues {r v} : (t.setReg r v).queues = t.queues := by unfold Thread.setReg; split <;> rfl
@[simp] theorem Thread.setReg_task {r v} : (t.setReg r v).task = t.task := by unfold Thread.setReg; split <;> rfl
@[simp] theorem Thread.setReg_join {r v} : (t.setReg r v).join = t.join := by unfold Thread.setReg; split <;> rfl
@[simp] theorem Thread.setReg_kill {r v} : (t.setReg r v).kill = t.kill := by unfold Thread.setReg; split <;> rfl
@[simp] theorem Thread.setReg_holdCount {r v} : (t.setReg r v).holdCount = t.holdCount := by unfold Thread.setReg; split <;> rfl
@[simp] theorem Thread.setReg_swapReq {r v} : (t.setReg r v).swapReq = t.swapReq := by unfold Thread.setReg; split <;> rfl
@[simp] theorem Thread.setReg_haltReq {r v} : (t.setReg r v).haltReq = t.haltReq := by unfold Thread.setReg; split <;> rfl
@[simp] theorem Thread.setReg_haltBrk {r v} : (t.setReg r v).haltBrk = t.haltBrk := by unfold Thread.setReg; split <;> rfl
@[simp] theorem Thread.setReg_brkHalt {r v} : (t.setReg r v).brkHalt = t.brkHalt := by unfold Thread.setReg; split <;> rfl
@[simp] theorem Thread.setReg_swapTo {r v} : (t.setReg r v).swapTo = t.swapTo := by unfold Thread.setReg; split <;> rfl
@[simp] theorem Thread.setReg_arriving {r v} : (t.setReg r v).arriving = t.arriving := by unfold Thread.setReg; split <;> rfl
@[simp] theorem Thread.setReg_migT {r v} : (t.setReg r v).migT = t.migT := by unfold Thread.setReg; split <;> rfl
@[simp] theorem Thread.setReg_appt {r v} : (t.setReg r v).appt = t.appt := by unfold Thread.setReg; split <;> rfl
@[simp] theorem Thread.setReg_visitor {r v} : (t.setReg r v).visitor = t.visitor := by unfold Thread.setReg; split <;> rfl
@[simp] theorem Thread.setReg_visitorPool {r v} : (t.setReg r v).visitorPool = t.visitorPool := by unfold Thread.setReg; split <;> rfl
@[simp] theorem Thread.setReg_vmemPass {r v} : (t.setReg r v).vmemPass = t.vmemPass := by unfold Thread.setReg; split <;> rfl
@[simp] theorem Thread.setReg_vmemRead {r v} : (t.setReg r v).vmemRead = t.vmemRead := by unfold Thread.setReg; split <;> rfl
@[simp] theorem Thread.setReg_tail {r v} : (t.setReg r v).tail = t.tail := by unfold Thread.setReg; split <;> rfl
@[simp] theorem Thread.setReg_codeFrom {r v} : (t.setReg r v).codeFrom = t.codeFrom := by unfold Thread.setReg; split <;> rfl

@[simp] theorem Thread.owe_place {r} : (t.owe r).place = t.place := by unfold Thread.owe; split <;> rfl
@[simp] theorem Thread.owe_status {r} : (t.owe r).status = t.status := by unfold Thread.owe; split <;> rfl
@[simp] theorem Thread.owe_wait {r} : (t.owe r).wait = t.wait := by unfold Thread.owe; split <;> rfl
@[simp] theorem Thread.owe_g {r} : (t.owe r).g = t.g := by unfold Thread.owe; split <;> rfl
@[simp] theorem Thread.owe_badRegs {r} : (t.owe r).badRegs = t.badRegs := by unfold Thread.owe; split <;> rfl
@[simp] theorem Thread.owe_h {r} : (t.owe r).h = t.h := by unfold Thread.owe; split <;> rfl
@[simp] theorem Thread.owe_pc {r} : (t.owe r).pc = t.pc := by unfold Thread.owe; split <;> rfl
@[simp] theorem Thread.owe_tstat {r} : (t.owe r).tstat = t.tstat := by unfold Thread.owe; split <;> rfl
@[simp] theorem Thread.owe_epc {r} : (t.owe r).epc = t.epc := by unfold Thread.owe; split <;> rfl
@[simp] theorem Thread.owe_ecause {r} : (t.owe r).ecause = t.ecause := by unfold Thread.owe; split <;> rfl
@[simp] theorem Thread.owe_eval {r} : (t.owe r).eval = t.eval := by unfold Thread.owe; split <;> rfl
@[simp] theorem Thread.owe_estat {r} : (t.owe r).estat = t.estat := by unfold Thread.owe; split <;> rfl
@[simp] theorem Thread.owe_fctl {r} : (t.owe r).fctl = t.fctl := by unfold Thread.owe; split <;> rfl
@[simp] theorem Thread.owe_fmt {r} : (t.owe r).fmt = t.fmt := by unfold Thread.owe; split <;> rfl
@[simp] theorem Thread.owe_mstat {r} : (t.owe r).mstat = t.mstat := by unfold Thread.owe; split <;> rfl
@[simp] theorem Thread.owe_tlog {r} : (t.owe r).tlog = t.tlog := by unfold Thread.owe; split <;> rfl
@[simp] theorem Thread.owe_htab {r} : (t.owe r).htab = t.htab := by unfold Thread.owe; split <;> rfl
@[simp] theorem Thread.owe_epid {r} : (t.owe r).epid = t.epid := by unfold Thread.owe; split <;> rfl
@[simp] theorem Thread.owe_part {r} : (t.owe r).part = t.part := by unfold Thread.owe; split <;> rfl
@[simp] theorem Thread.owe_launch {r} : (t.owe r).launch = t.launch := by unfold Thread.owe; split <;> rfl
@[simp] theorem Thread.owe_start {r} : (t.owe r).start = t.start := by unfold Thread.owe; split <;> rfl
@[simp] theorem Thread.owe_crew {r} : (t.owe r).crew = t.crew := by unfold Thread.owe; split <;> rfl
@[simp] theorem Thread.owe_vlen {r} : (t.owe r).vlen = t.vlen := by unfold Thread.owe; split <;> rfl
@[simp] theorem Thread.owe_claim {r} : (t.owe r).claim = t.claim := by unfold Thread.owe; split <;> rfl
@[simp] theorem Thread.owe_savedVlen {r} : (t.owe r).savedVlen = t.savedVlen := by unfold Thread.owe; split <;> rfl
@[simp] theorem Thread.owe_v {r} : (t.owe r).v = t.v := by unfold Thread.owe; split <;> rfl
@[simp] theorem Thread.owe_m {r} : (t.owe r).m = t.m := by unfold Thread.owe; split <;> rfl
@[simp] theorem Thread.owe_lastIssue {r} : (t.owe r).lastIssue = t.lastIssue := by unfold Thread.owe; split <;> rfl
@[simp] theorem Thread.owe_notBefore {r} : (t.owe r).notBefore = t.notBefore := by unfold Thread.owe; split <;> rfl
@[simp] theorem Thread.owe_pfx {r} : (t.owe r).pfx = t.pfx := by unfold Thread.owe; split <;> rfl
@[simp] theorem Thread.owe_afterPfx {r} : (t.owe r).afterPfx = t.afterPfx := by unfold Thread.owe; split <;> rfl
@[simp] theorem Thread.owe_issuedPc {r} : (t.owe r).issuedPc = t.issuedPc := by unfold Thread.owe; split <;> rfl
@[simp] theorem Thread.owe_issuedPfx {r} : (t.owe r).issuedPfx = t.issuedPfx := by unfold Thread.owe; split <;> rfl
@[simp] theorem Thread.owe_parkedAt {r} : (t.owe r).parkedAt = t.parkedAt := by unfold Thread.owe; split <;> rfl
@[simp] theorem Thread.owe_relaxed {r} : (t.owe r).relaxed = t.relaxed := by unfold Thread.owe; split <;> rfl
@[simp] theorem Thread.owe_lost {r} : (t.owe r).lost = t.lost := by unfold Thread.owe; split <;> rfl
@[simp] theorem Thread.owe_posted {r} : (t.owe r).posted = t.posted := by unfold Thread.owe; split <;> rfl
@[simp] theorem Thread.owe_sfuLeft {r} : (t.owe r).sfuLeft = t.sfuLeft := by unfold Thread.owe; split <;> rfl
@[simp] theorem Thread.owe_inbox {r} : (t.owe r).inbox = t.inbox := by unfold Thread.owe; split <;> rfl
@[simp] theorem Thread.owe_streams {r} : (t.owe r).streams = t.streams := by unfold Thread.owe; split <;> rfl
@[simp] theorem Thread.owe_groups {r} : (t.owe r).groups = t.groups := by unfold Thread.owe; split <;> rfl
@[simp] theorem Thread.owe_queues {r} : (t.owe r).queues = t.queues := by unfold Thread.owe; split <;> rfl
@[simp] theorem Thread.owe_task {r} : (t.owe r).task = t.task := by unfold Thread.owe; split <;> rfl
@[simp] theorem Thread.owe_join {r} : (t.owe r).join = t.join := by unfold Thread.owe; split <;> rfl
@[simp] theorem Thread.owe_kill {r} : (t.owe r).kill = t.kill := by unfold Thread.owe; split <;> rfl
@[simp] theorem Thread.owe_holdCount {r} : (t.owe r).holdCount = t.holdCount := by unfold Thread.owe; split <;> rfl
@[simp] theorem Thread.owe_swapReq {r} : (t.owe r).swapReq = t.swapReq := by unfold Thread.owe; split <;> rfl
@[simp] theorem Thread.owe_haltReq {r} : (t.owe r).haltReq = t.haltReq := by unfold Thread.owe; split <;> rfl
@[simp] theorem Thread.owe_haltBrk {r} : (t.owe r).haltBrk = t.haltBrk := by unfold Thread.owe; split <;> rfl
@[simp] theorem Thread.owe_brkHalt {r} : (t.owe r).brkHalt = t.brkHalt := by unfold Thread.owe; split <;> rfl
@[simp] theorem Thread.owe_swapTo {r} : (t.owe r).swapTo = t.swapTo := by unfold Thread.owe; split <;> rfl
@[simp] theorem Thread.owe_arriving {r} : (t.owe r).arriving = t.arriving := by unfold Thread.owe; split <;> rfl
@[simp] theorem Thread.owe_migT {r} : (t.owe r).migT = t.migT := by unfold Thread.owe; split <;> rfl
@[simp] theorem Thread.owe_appt {r} : (t.owe r).appt = t.appt := by unfold Thread.owe; split <;> rfl
@[simp] theorem Thread.owe_visitor {r} : (t.owe r).visitor = t.visitor := by unfold Thread.owe; split <;> rfl
@[simp] theorem Thread.owe_visitorPool {r} : (t.owe r).visitorPool = t.visitorPool := by unfold Thread.owe; split <;> rfl
@[simp] theorem Thread.owe_vmemPass {r} : (t.owe r).vmemPass = t.vmemPass := by unfold Thread.owe; split <;> rfl
@[simp] theorem Thread.owe_vmemRead {r} : (t.owe r).vmemRead = t.vmemRead := by unfold Thread.owe; split <;> rfl
@[simp] theorem Thread.owe_tail {r} : (t.owe r).tail = t.tail := by unfold Thread.owe; split <;> rfl
@[simp] theorem Thread.owe_codeFrom {r} : (t.owe r).codeFrom = t.codeFrom := by unfold Thread.owe; split <;> rfl

@[simp] theorem Thread.issued_place {c} : (t.issued c).place = t.place := rfl
@[simp] theorem Thread.issued_status {c} : (t.issued c).status = t.status := rfl
@[simp] theorem Thread.issued_wait {c} : (t.issued c).wait = t.wait := rfl
@[simp] theorem Thread.issued_g {c} : (t.issued c).g = t.g := rfl
@[simp] theorem Thread.issued_fe {c} : (t.issued c).fe = t.fe := rfl
@[simp] theorem Thread.issued_pend {c} : (t.issued c).pend = t.pend := rfl
@[simp] theorem Thread.issued_badRegs {c} : (t.issued c).badRegs = t.badRegs := rfl
@[simp] theorem Thread.issued_h {c} : (t.issued c).h = t.h := rfl
@[simp] theorem Thread.issued_tstat {c} : (t.issued c).tstat = t.tstat := rfl
@[simp] theorem Thread.issued_epc {c} : (t.issued c).epc = t.epc := rfl
@[simp] theorem Thread.issued_ecause {c} : (t.issued c).ecause = t.ecause := rfl
@[simp] theorem Thread.issued_eval {c} : (t.issued c).eval = t.eval := rfl
@[simp] theorem Thread.issued_estat {c} : (t.issued c).estat = t.estat := rfl
@[simp] theorem Thread.issued_fctl {c} : (t.issued c).fctl = t.fctl := rfl
@[simp] theorem Thread.issued_fmt {c} : (t.issued c).fmt = t.fmt := rfl
@[simp] theorem Thread.issued_mstat {c} : (t.issued c).mstat = t.mstat := rfl
@[simp] theorem Thread.issued_tlog {c} : (t.issued c).tlog = t.tlog := rfl
@[simp] theorem Thread.issued_htab {c} : (t.issued c).htab = t.htab := rfl
@[simp] theorem Thread.issued_epid {c} : (t.issued c).epid = t.epid := rfl
@[simp] theorem Thread.issued_part {c} : (t.issued c).part = t.part := rfl
@[simp] theorem Thread.issued_launch {c} : (t.issued c).launch = t.launch := rfl
@[simp] theorem Thread.issued_start {c} : (t.issued c).start = t.start := rfl
@[simp] theorem Thread.issued_crew {c} : (t.issued c).crew = t.crew := rfl
@[simp] theorem Thread.issued_vlen {c} : (t.issued c).vlen = t.vlen := rfl
@[simp] theorem Thread.issued_claim {c} : (t.issued c).claim = t.claim := rfl
@[simp] theorem Thread.issued_savedVlen {c} : (t.issued c).savedVlen = t.savedVlen := rfl
@[simp] theorem Thread.issued_v {c} : (t.issued c).v = t.v := rfl
@[simp] theorem Thread.issued_m {c} : (t.issued c).m = t.m := rfl
@[simp] theorem Thread.issued_parkedAt {c} : (t.issued c).parkedAt = t.parkedAt := rfl
@[simp] theorem Thread.issued_relaxed {c} : (t.issued c).relaxed = t.relaxed := rfl
@[simp] theorem Thread.issued_lost {c} : (t.issued c).lost = t.lost := rfl
@[simp] theorem Thread.issued_posted {c} : (t.issued c).posted = t.posted := rfl
@[simp] theorem Thread.issued_sfuLeft {c} : (t.issued c).sfuLeft = t.sfuLeft := rfl
@[simp] theorem Thread.issued_inbox {c} : (t.issued c).inbox = t.inbox := rfl
@[simp] theorem Thread.issued_streams {c} : (t.issued c).streams = t.streams := rfl
@[simp] theorem Thread.issued_groups {c} : (t.issued c).groups = t.groups := rfl
@[simp] theorem Thread.issued_queues {c} : (t.issued c).queues = t.queues := rfl
@[simp] theorem Thread.issued_task {c} : (t.issued c).task = t.task := rfl
@[simp] theorem Thread.issued_join {c} : (t.issued c).join = t.join := rfl
@[simp] theorem Thread.issued_kill {c} : (t.issued c).kill = t.kill := rfl
@[simp] theorem Thread.issued_swapReq {c} : (t.issued c).swapReq = t.swapReq := rfl
@[simp] theorem Thread.issued_haltReq {c} : (t.issued c).haltReq = t.haltReq := rfl
@[simp] theorem Thread.issued_haltBrk {c} : (t.issued c).haltBrk = t.haltBrk := rfl
@[simp] theorem Thread.issued_brkHalt {c} : (t.issued c).brkHalt = t.brkHalt := rfl
@[simp] theorem Thread.issued_swapTo {c} : (t.issued c).swapTo = t.swapTo := rfl
@[simp] theorem Thread.issued_arriving {c} : (t.issued c).arriving = t.arriving := rfl
@[simp] theorem Thread.issued_migT {c} : (t.issued c).migT = t.migT := rfl
@[simp] theorem Thread.issued_appt {c} : (t.issued c).appt = t.appt := rfl
@[simp] theorem Thread.issued_visitor {c} : (t.issued c).visitor = t.visitor := rfl
@[simp] theorem Thread.issued_visitorPool {c} : (t.issued c).visitorPool = t.visitorPool := rfl
@[simp] theorem Thread.issued_tail {c} : (t.issued c).tail = t.tail := rfl
@[simp] theorem Thread.issued_codeFrom {c} : (t.issued c).codeFrom = t.codeFrom := rfl

@[simp] theorem Thread.trap_place {h fw c n e p} : (t.trap h fw c n e p).place = t.place := rfl
@[simp] theorem Thread.trap_g {h fw c n e p} : (t.trap h fw c n e p).g = t.g := rfl
@[simp] theorem Thread.trap_fe {h fw c n e p} : (t.trap h fw c n e p).fe = t.fe := rfl
@[simp] theorem Thread.trap_pend {h fw c n e p} : (t.trap h fw c n e p).pend = t.pend := rfl
@[simp] theorem Thread.trap_badRegs {h fw c n e p} : (t.trap h fw c n e p).badRegs = t.badRegs := rfl
@[simp] theorem Thread.trap_h {h fw c n e p} : (t.trap h fw c n e p).h = t.h := rfl
@[simp] theorem Thread.trap_fctl {h fw c n e p} : (t.trap h fw c n e p).fctl = t.fctl := rfl
@[simp] theorem Thread.trap_fmt {h fw c n e p} : (t.trap h fw c n e p).fmt = t.fmt := rfl
@[simp] theorem Thread.trap_mstat {h fw c n e p} : (t.trap h fw c n e p).mstat = t.mstat := rfl
@[simp] theorem Thread.trap_tlog {h fw c n e p} : (t.trap h fw c n e p).tlog = t.tlog := rfl
@[simp] theorem Thread.trap_htab {h fw c n e p} : (t.trap h fw c n e p).htab = t.htab := rfl
@[simp] theorem Thread.trap_epid {h fw c n e p} : (t.trap h fw c n e p).epid = t.epid := rfl
@[simp] theorem Thread.trap_part {h fw c n e p} : (t.trap h fw c n e p).part = t.part := rfl
@[simp] theorem Thread.trap_launch {h fw c n e p} : (t.trap h fw c n e p).launch = t.launch := rfl
@[simp] theorem Thread.trap_start {h fw c n e p} : (t.trap h fw c n e p).start = t.start := rfl
@[simp] theorem Thread.trap_crew {h fw c n e p} : (t.trap h fw c n e p).crew = t.crew := rfl
@[simp] theorem Thread.trap_vlen {h fw c n e p} : (t.trap h fw c n e p).vlen = t.vlen := rfl
@[simp] theorem Thread.trap_claim {h fw c n e p} : (t.trap h fw c n e p).claim = t.claim := rfl
@[simp] theorem Thread.trap_savedVlen {h fw c n e p} : (t.trap h fw c n e p).savedVlen = t.savedVlen := rfl
@[simp] theorem Thread.trap_v {h fw c n e p} : (t.trap h fw c n e p).v = t.v := rfl
@[simp] theorem Thread.trap_m {h fw c n e p} : (t.trap h fw c n e p).m = t.m := rfl
@[simp] theorem Thread.trap_lastIssue {h fw c n e p} : (t.trap h fw c n e p).lastIssue = t.lastIssue := rfl
@[simp] theorem Thread.trap_notBefore {h fw c n e p} : (t.trap h fw c n e p).notBefore = t.notBefore := rfl
@[simp] theorem Thread.trap_issuedPc {h fw c n e p} : (t.trap h fw c n e p).issuedPc = t.issuedPc := rfl
@[simp] theorem Thread.trap_issuedPfx {h fw c n e p} : (t.trap h fw c n e p).issuedPfx = t.issuedPfx := rfl
@[simp] theorem Thread.trap_parkedAt {h fw c n e p} : (t.trap h fw c n e p).parkedAt = t.parkedAt := rfl
@[simp] theorem Thread.trap_relaxed {h fw c n e p} : (t.trap h fw c n e p).relaxed = t.relaxed := rfl
@[simp] theorem Thread.trap_lost {h fw c n e p} : (t.trap h fw c n e p).lost = t.lost := rfl
@[simp] theorem Thread.trap_posted {h fw c n e p} : (t.trap h fw c n e p).posted = t.posted := rfl
@[simp] theorem Thread.trap_sfuLeft {h fw c n e p} : (t.trap h fw c n e p).sfuLeft = t.sfuLeft := rfl
@[simp] theorem Thread.trap_inbox {h fw c n e p} : (t.trap h fw c n e p).inbox = t.inbox := rfl
@[simp] theorem Thread.trap_streams {h fw c n e p} : (t.trap h fw c n e p).streams = t.streams := rfl
@[simp] theorem Thread.trap_groups {h fw c n e p} : (t.trap h fw c n e p).groups = t.groups := rfl
@[simp] theorem Thread.trap_queues {h fw c n e p} : (t.trap h fw c n e p).queues = t.queues := rfl
@[simp] theorem Thread.trap_task {h fw c n e p} : (t.trap h fw c n e p).task = t.task := rfl
@[simp] theorem Thread.trap_join {h fw c n e p} : (t.trap h fw c n e p).join = t.join := rfl
@[simp] theorem Thread.trap_kill {h fw c n e p} : (t.trap h fw c n e p).kill = t.kill := rfl
@[simp] theorem Thread.trap_holdCount {h fw c n e p} : (t.trap h fw c n e p).holdCount = t.holdCount := rfl
@[simp] theorem Thread.trap_swapReq {h fw c n e p} : (t.trap h fw c n e p).swapReq = t.swapReq := rfl
@[simp] theorem Thread.trap_haltReq {h fw c n e p} : (t.trap h fw c n e p).haltReq = t.haltReq := rfl
@[simp] theorem Thread.trap_haltBrk {h fw c n e p} : (t.trap h fw c n e p).haltBrk = t.haltBrk := rfl
@[simp] theorem Thread.trap_brkHalt {h fw c n e p} : (t.trap h fw c n e p).brkHalt = t.brkHalt := rfl
@[simp] theorem Thread.trap_swapTo {h fw c n e p} : (t.trap h fw c n e p).swapTo = t.swapTo := rfl
@[simp] theorem Thread.trap_arriving {h fw c n e p} : (t.trap h fw c n e p).arriving = t.arriving := rfl
@[simp] theorem Thread.trap_migT {h fw c n e p} : (t.trap h fw c n e p).migT = t.migT := rfl
@[simp] theorem Thread.trap_appt {h fw c n e p} : (t.trap h fw c n e p).appt = t.appt := rfl
@[simp] theorem Thread.trap_visitor {h fw c n e p} : (t.trap h fw c n e p).visitor = t.visitor := rfl
@[simp] theorem Thread.trap_visitorPool {h fw c n e p} : (t.trap h fw c n e p).visitorPool = t.visitorPool := rfl
@[simp] theorem Thread.trap_tail {h fw c n e p} : (t.trap h fw c n e p).tail = t.tail := rfl
@[simp] theorem Thread.trap_codeFrom {h fw c n e p} : (t.trap h fw c n e p).codeFrom = t.codeFrom := rfl

@[simp] theorem Thread.eret_place : (t.eret).place = t.place := rfl
@[simp] theorem Thread.eret_status : (t.eret).status = t.status := rfl
@[simp] theorem Thread.eret_wait : (t.eret).wait = t.wait := rfl
@[simp] theorem Thread.eret_g : (t.eret).g = t.g := rfl
@[simp] theorem Thread.eret_fe : (t.eret).fe = t.fe := rfl
@[simp] theorem Thread.eret_pend : (t.eret).pend = t.pend := rfl
@[simp] theorem Thread.eret_badRegs : (t.eret).badRegs = t.badRegs := rfl
@[simp] theorem Thread.eret_h : (t.eret).h = t.h := rfl
@[simp] theorem Thread.eret_epc : (t.eret).epc = t.epc := rfl
@[simp] theorem Thread.eret_ecause : (t.eret).ecause = t.ecause := rfl
@[simp] theorem Thread.eret_eval : (t.eret).eval = t.eval := rfl
@[simp] theorem Thread.eret_estat : (t.eret).estat = t.estat := rfl
@[simp] theorem Thread.eret_fctl : (t.eret).fctl = t.fctl := rfl
@[simp] theorem Thread.eret_fmt : (t.eret).fmt = t.fmt := rfl
@[simp] theorem Thread.eret_mstat : (t.eret).mstat = t.mstat := rfl
@[simp] theorem Thread.eret_tlog : (t.eret).tlog = t.tlog := rfl
@[simp] theorem Thread.eret_htab : (t.eret).htab = t.htab := rfl
@[simp] theorem Thread.eret_epid : (t.eret).epid = t.epid := rfl
@[simp] theorem Thread.eret_part : (t.eret).part = t.part := rfl
@[simp] theorem Thread.eret_launch : (t.eret).launch = t.launch := rfl
@[simp] theorem Thread.eret_start : (t.eret).start = t.start := rfl
@[simp] theorem Thread.eret_crew : (t.eret).crew = t.crew := rfl
@[simp] theorem Thread.eret_vlen : (t.eret).vlen = t.vlen := rfl
@[simp] theorem Thread.eret_claim : (t.eret).claim = t.claim := rfl
@[simp] theorem Thread.eret_savedVlen : (t.eret).savedVlen = t.savedVlen := rfl
@[simp] theorem Thread.eret_v : (t.eret).v = t.v := rfl
@[simp] theorem Thread.eret_m : (t.eret).m = t.m := rfl
@[simp] theorem Thread.eret_lastIssue : (t.eret).lastIssue = t.lastIssue := rfl
@[simp] theorem Thread.eret_notBefore : (t.eret).notBefore = t.notBefore := rfl
@[simp] theorem Thread.eret_issuedPc : (t.eret).issuedPc = t.issuedPc := rfl
@[simp] theorem Thread.eret_issuedPfx : (t.eret).issuedPfx = t.issuedPfx := rfl
@[simp] theorem Thread.eret_parkedAt : (t.eret).parkedAt = t.parkedAt := rfl
@[simp] theorem Thread.eret_relaxed : (t.eret).relaxed = t.relaxed := rfl
@[simp] theorem Thread.eret_lost : (t.eret).lost = t.lost := rfl
@[simp] theorem Thread.eret_posted : (t.eret).posted = t.posted := rfl
@[simp] theorem Thread.eret_sfuLeft : (t.eret).sfuLeft = t.sfuLeft := rfl
@[simp] theorem Thread.eret_inbox : (t.eret).inbox = t.inbox := rfl
@[simp] theorem Thread.eret_streams : (t.eret).streams = t.streams := rfl
@[simp] theorem Thread.eret_groups : (t.eret).groups = t.groups := rfl
@[simp] theorem Thread.eret_queues : (t.eret).queues = t.queues := rfl
@[simp] theorem Thread.eret_task : (t.eret).task = t.task := rfl
@[simp] theorem Thread.eret_join : (t.eret).join = t.join := rfl
@[simp] theorem Thread.eret_kill : (t.eret).kill = t.kill := rfl
@[simp] theorem Thread.eret_holdCount : (t.eret).holdCount = t.holdCount := rfl
@[simp] theorem Thread.eret_swapReq : (t.eret).swapReq = t.swapReq := rfl
@[simp] theorem Thread.eret_haltReq : (t.eret).haltReq = t.haltReq := rfl
@[simp] theorem Thread.eret_haltBrk : (t.eret).haltBrk = t.haltBrk := rfl
@[simp] theorem Thread.eret_brkHalt : (t.eret).brkHalt = t.brkHalt := rfl
@[simp] theorem Thread.eret_swapTo : (t.eret).swapTo = t.swapTo := rfl
@[simp] theorem Thread.eret_arriving : (t.eret).arriving = t.arriving := rfl
@[simp] theorem Thread.eret_migT : (t.eret).migT = t.migT := rfl
@[simp] theorem Thread.eret_appt : (t.eret).appt = t.appt := rfl
@[simp] theorem Thread.eret_visitor : (t.eret).visitor = t.visitor := rfl
@[simp] theorem Thread.eret_visitorPool : (t.eret).visitorPool = t.visitorPool := rfl
@[simp] theorem Thread.eret_vmemPass : (t.eret).vmemPass = t.vmemPass := rfl
@[simp] theorem Thread.eret_vmemRead : (t.eret).vmemRead = t.vmemRead := rfl
@[simp] theorem Thread.eret_tail : (t.eret).tail = t.tail := rfl
@[simp] theorem Thread.eret_codeFrom : (t.eret).codeFrom = t.codeFrom := rfl

@[simp] theorem Thread.raise_place {f} : (t.raise f).place = t.place := rfl
@[simp] theorem Thread.raise_status {f} : (t.raise f).status = t.status := rfl
@[simp] theorem Thread.raise_wait {f} : (t.raise f).wait = t.wait := rfl
@[simp] theorem Thread.raise_g {f} : (t.raise f).g = t.g := rfl
@[simp] theorem Thread.raise_fe {f} : (t.raise f).fe = t.fe := rfl
@[simp] theorem Thread.raise_pend {f} : (t.raise f).pend = t.pend := rfl
@[simp] theorem Thread.raise_badRegs {f} : (t.raise f).badRegs = t.badRegs := rfl
@[simp] theorem Thread.raise_h {f} : (t.raise f).h = t.h := rfl
@[simp] theorem Thread.raise_pc {f} : (t.raise f).pc = t.pc := rfl
@[simp] theorem Thread.raise_tstat {f} : (t.raise f).tstat = t.tstat := rfl
@[simp] theorem Thread.raise_epc {f} : (t.raise f).epc = t.epc := rfl
@[simp] theorem Thread.raise_ecause {f} : (t.raise f).ecause = t.ecause := rfl
@[simp] theorem Thread.raise_eval {f} : (t.raise f).eval = t.eval := rfl
@[simp] theorem Thread.raise_estat {f} : (t.raise f).estat = t.estat := rfl
@[simp] theorem Thread.raise_fmt {f} : (t.raise f).fmt = t.fmt := rfl
@[simp] theorem Thread.raise_mstat {f} : (t.raise f).mstat = t.mstat := rfl
@[simp] theorem Thread.raise_tlog {f} : (t.raise f).tlog = t.tlog := rfl
@[simp] theorem Thread.raise_htab {f} : (t.raise f).htab = t.htab := rfl
@[simp] theorem Thread.raise_epid {f} : (t.raise f).epid = t.epid := rfl
@[simp] theorem Thread.raise_part {f} : (t.raise f).part = t.part := rfl
@[simp] theorem Thread.raise_launch {f} : (t.raise f).launch = t.launch := rfl
@[simp] theorem Thread.raise_start {f} : (t.raise f).start = t.start := rfl
@[simp] theorem Thread.raise_crew {f} : (t.raise f).crew = t.crew := rfl
@[simp] theorem Thread.raise_vlen {f} : (t.raise f).vlen = t.vlen := rfl
@[simp] theorem Thread.raise_claim {f} : (t.raise f).claim = t.claim := rfl
@[simp] theorem Thread.raise_savedVlen {f} : (t.raise f).savedVlen = t.savedVlen := rfl
@[simp] theorem Thread.raise_v {f} : (t.raise f).v = t.v := rfl
@[simp] theorem Thread.raise_m {f} : (t.raise f).m = t.m := rfl
@[simp] theorem Thread.raise_lastIssue {f} : (t.raise f).lastIssue = t.lastIssue := rfl
@[simp] theorem Thread.raise_notBefore {f} : (t.raise f).notBefore = t.notBefore := rfl
@[simp] theorem Thread.raise_pfx {f} : (t.raise f).pfx = t.pfx := rfl
@[simp] theorem Thread.raise_afterPfx {f} : (t.raise f).afterPfx = t.afterPfx := rfl
@[simp] theorem Thread.raise_issuedPc {f} : (t.raise f).issuedPc = t.issuedPc := rfl
@[simp] theorem Thread.raise_issuedPfx {f} : (t.raise f).issuedPfx = t.issuedPfx := rfl
@[simp] theorem Thread.raise_parkedAt {f} : (t.raise f).parkedAt = t.parkedAt := rfl
@[simp] theorem Thread.raise_relaxed {f} : (t.raise f).relaxed = t.relaxed := rfl
@[simp] theorem Thread.raise_lost {f} : (t.raise f).lost = t.lost := rfl
@[simp] theorem Thread.raise_posted {f} : (t.raise f).posted = t.posted := rfl
@[simp] theorem Thread.raise_sfuLeft {f} : (t.raise f).sfuLeft = t.sfuLeft := rfl
@[simp] theorem Thread.raise_inbox {f} : (t.raise f).inbox = t.inbox := rfl
@[simp] theorem Thread.raise_streams {f} : (t.raise f).streams = t.streams := rfl
@[simp] theorem Thread.raise_groups {f} : (t.raise f).groups = t.groups := rfl
@[simp] theorem Thread.raise_queues {f} : (t.raise f).queues = t.queues := rfl
@[simp] theorem Thread.raise_task {f} : (t.raise f).task = t.task := rfl
@[simp] theorem Thread.raise_join {f} : (t.raise f).join = t.join := rfl
@[simp] theorem Thread.raise_kill {f} : (t.raise f).kill = t.kill := rfl
@[simp] theorem Thread.raise_holdCount {f} : (t.raise f).holdCount = t.holdCount := rfl
@[simp] theorem Thread.raise_swapReq {f} : (t.raise f).swapReq = t.swapReq := rfl
@[simp] theorem Thread.raise_haltReq {f} : (t.raise f).haltReq = t.haltReq := rfl
@[simp] theorem Thread.raise_haltBrk {f} : (t.raise f).haltBrk = t.haltBrk := rfl
@[simp] theorem Thread.raise_brkHalt {f} : (t.raise f).brkHalt = t.brkHalt := rfl
@[simp] theorem Thread.raise_swapTo {f} : (t.raise f).swapTo = t.swapTo := rfl
@[simp] theorem Thread.raise_arriving {f} : (t.raise f).arriving = t.arriving := rfl
@[simp] theorem Thread.raise_migT {f} : (t.raise f).migT = t.migT := rfl
@[simp] theorem Thread.raise_appt {f} : (t.raise f).appt = t.appt := rfl
@[simp] theorem Thread.raise_visitor {f} : (t.raise f).visitor = t.visitor := rfl
@[simp] theorem Thread.raise_visitorPool {f} : (t.raise f).visitorPool = t.visitorPool := rfl
@[simp] theorem Thread.raise_vmemPass {f} : (t.raise f).vmemPass = t.vmemPass := rfl
@[simp] theorem Thread.raise_vmemRead {f} : (t.raise f).vmemRead = t.vmemRead := rfl
@[simp] theorem Thread.raise_tail {f} : (t.raise f).tail = t.tail := rfl
@[simp] theorem Thread.raise_codeFrom {f} : (t.raise f).codeFrom = t.codeFrom := rfl

@[simp] theorem Thread.setFctl_place {v} : (t.setFctl v).place = t.place := rfl
@[simp] theorem Thread.setFctl_status {v} : (t.setFctl v).status = t.status := rfl
@[simp] theorem Thread.setFctl_wait {v} : (t.setFctl v).wait = t.wait := rfl
@[simp] theorem Thread.setFctl_g {v} : (t.setFctl v).g = t.g := rfl
@[simp] theorem Thread.setFctl_fe {v} : (t.setFctl v).fe = t.fe := rfl
@[simp] theorem Thread.setFctl_pend {v} : (t.setFctl v).pend = t.pend := rfl
@[simp] theorem Thread.setFctl_badRegs {v} : (t.setFctl v).badRegs = t.badRegs := rfl
@[simp] theorem Thread.setFctl_h {v} : (t.setFctl v).h = t.h := rfl
@[simp] theorem Thread.setFctl_pc {v} : (t.setFctl v).pc = t.pc := rfl
@[simp] theorem Thread.setFctl_epc {v} : (t.setFctl v).epc = t.epc := rfl
@[simp] theorem Thread.setFctl_ecause {v} : (t.setFctl v).ecause = t.ecause := rfl
@[simp] theorem Thread.setFctl_eval {v} : (t.setFctl v).eval = t.eval := rfl
@[simp] theorem Thread.setFctl_estat {v} : (t.setFctl v).estat = t.estat := rfl
@[simp] theorem Thread.setFctl_fmt {v} : (t.setFctl v).fmt = t.fmt := rfl
@[simp] theorem Thread.setFctl_mstat {v} : (t.setFctl v).mstat = t.mstat := rfl
@[simp] theorem Thread.setFctl_tlog {v} : (t.setFctl v).tlog = t.tlog := rfl
@[simp] theorem Thread.setFctl_htab {v} : (t.setFctl v).htab = t.htab := rfl
@[simp] theorem Thread.setFctl_epid {v} : (t.setFctl v).epid = t.epid := rfl
@[simp] theorem Thread.setFctl_part {v} : (t.setFctl v).part = t.part := rfl
@[simp] theorem Thread.setFctl_launch {v} : (t.setFctl v).launch = t.launch := rfl
@[simp] theorem Thread.setFctl_start {v} : (t.setFctl v).start = t.start := rfl
@[simp] theorem Thread.setFctl_crew {v} : (t.setFctl v).crew = t.crew := rfl
@[simp] theorem Thread.setFctl_vlen {v} : (t.setFctl v).vlen = t.vlen := rfl
@[simp] theorem Thread.setFctl_claim {v} : (t.setFctl v).claim = t.claim := rfl
@[simp] theorem Thread.setFctl_savedVlen {v} : (t.setFctl v).savedVlen = t.savedVlen := rfl
@[simp] theorem Thread.setFctl_v {v} : (t.setFctl v).v = t.v := rfl
@[simp] theorem Thread.setFctl_m {v} : (t.setFctl v).m = t.m := rfl
@[simp] theorem Thread.setFctl_lastIssue {v} : (t.setFctl v).lastIssue = t.lastIssue := rfl
@[simp] theorem Thread.setFctl_notBefore {v} : (t.setFctl v).notBefore = t.notBefore := rfl
@[simp] theorem Thread.setFctl_pfx {v} : (t.setFctl v).pfx = t.pfx := rfl
@[simp] theorem Thread.setFctl_afterPfx {v} : (t.setFctl v).afterPfx = t.afterPfx := rfl
@[simp] theorem Thread.setFctl_issuedPc {v} : (t.setFctl v).issuedPc = t.issuedPc := rfl
@[simp] theorem Thread.setFctl_issuedPfx {v} : (t.setFctl v).issuedPfx = t.issuedPfx := rfl
@[simp] theorem Thread.setFctl_parkedAt {v} : (t.setFctl v).parkedAt = t.parkedAt := rfl
@[simp] theorem Thread.setFctl_relaxed {v} : (t.setFctl v).relaxed = t.relaxed := rfl
@[simp] theorem Thread.setFctl_lost {v} : (t.setFctl v).lost = t.lost := rfl
@[simp] theorem Thread.setFctl_posted {v} : (t.setFctl v).posted = t.posted := rfl
@[simp] theorem Thread.setFctl_sfuLeft {v} : (t.setFctl v).sfuLeft = t.sfuLeft := rfl
@[simp] theorem Thread.setFctl_inbox {v} : (t.setFctl v).inbox = t.inbox := rfl
@[simp] theorem Thread.setFctl_streams {v} : (t.setFctl v).streams = t.streams := rfl
@[simp] theorem Thread.setFctl_groups {v} : (t.setFctl v).groups = t.groups := rfl
@[simp] theorem Thread.setFctl_queues {v} : (t.setFctl v).queues = t.queues := rfl
@[simp] theorem Thread.setFctl_task {v} : (t.setFctl v).task = t.task := rfl
@[simp] theorem Thread.setFctl_join {v} : (t.setFctl v).join = t.join := rfl
@[simp] theorem Thread.setFctl_kill {v} : (t.setFctl v).kill = t.kill := rfl
@[simp] theorem Thread.setFctl_holdCount {v} : (t.setFctl v).holdCount = t.holdCount := rfl
@[simp] theorem Thread.setFctl_swapReq {v} : (t.setFctl v).swapReq = t.swapReq := rfl
@[simp] theorem Thread.setFctl_haltReq {v} : (t.setFctl v).haltReq = t.haltReq := rfl
@[simp] theorem Thread.setFctl_haltBrk {v} : (t.setFctl v).haltBrk = t.haltBrk := rfl
@[simp] theorem Thread.setFctl_brkHalt {v} : (t.setFctl v).brkHalt = t.brkHalt := rfl
@[simp] theorem Thread.setFctl_swapTo {v} : (t.setFctl v).swapTo = t.swapTo := rfl
@[simp] theorem Thread.setFctl_arriving {v} : (t.setFctl v).arriving = t.arriving := rfl
@[simp] theorem Thread.setFctl_migT {v} : (t.setFctl v).migT = t.migT := rfl
@[simp] theorem Thread.setFctl_appt {v} : (t.setFctl v).appt = t.appt := rfl
@[simp] theorem Thread.setFctl_visitor {v} : (t.setFctl v).visitor = t.visitor := rfl
@[simp] theorem Thread.setFctl_visitorPool {v} : (t.setFctl v).visitorPool = t.visitorPool := rfl
@[simp] theorem Thread.setFctl_vmemPass {v} : (t.setFctl v).vmemPass = t.vmemPass := rfl
@[simp] theorem Thread.setFctl_vmemRead {v} : (t.setFctl v).vmemRead = t.vmemRead := rfl
@[simp] theorem Thread.setFctl_tail {v} : (t.setFctl v).tail = t.tail := rfl
@[simp] theorem Thread.setFctl_codeFrom {v} : (t.setFctl v).codeFrom = t.codeFrom := rfl

@[simp] theorem Thread.setTstat_place {h l v} : (t.setTstat h l v).place = t.place := rfl
@[simp] theorem Thread.setTstat_status {h l v} : (t.setTstat h l v).status = t.status := rfl
@[simp] theorem Thread.setTstat_wait {h l v} : (t.setTstat h l v).wait = t.wait := rfl
@[simp] theorem Thread.setTstat_g {h l v} : (t.setTstat h l v).g = t.g := rfl
@[simp] theorem Thread.setTstat_fe {h l v} : (t.setTstat h l v).fe = t.fe := rfl
@[simp] theorem Thread.setTstat_pend {h l v} : (t.setTstat h l v).pend = t.pend := rfl
@[simp] theorem Thread.setTstat_badRegs {h l v} : (t.setTstat h l v).badRegs = t.badRegs := rfl
@[simp] theorem Thread.setTstat_h {h l v} : (t.setTstat h l v).h = t.h := rfl
@[simp] theorem Thread.setTstat_pc {h l v} : (t.setTstat h l v).pc = t.pc := rfl
@[simp] theorem Thread.setTstat_epc {h l v} : (t.setTstat h l v).epc = t.epc := rfl
@[simp] theorem Thread.setTstat_ecause {h l v} : (t.setTstat h l v).ecause = t.ecause := rfl
@[simp] theorem Thread.setTstat_eval {h l v} : (t.setTstat h l v).eval = t.eval := rfl
@[simp] theorem Thread.setTstat_estat {h l v} : (t.setTstat h l v).estat = t.estat := rfl
@[simp] theorem Thread.setTstat_fctl {h l v} : (t.setTstat h l v).fctl = t.fctl := rfl
@[simp] theorem Thread.setTstat_fmt {h l v} : (t.setTstat h l v).fmt = t.fmt := rfl
@[simp] theorem Thread.setTstat_mstat {h l v} : (t.setTstat h l v).mstat = t.mstat := rfl
@[simp] theorem Thread.setTstat_tlog {h l v} : (t.setTstat h l v).tlog = t.tlog := rfl
@[simp] theorem Thread.setTstat_htab {h l v} : (t.setTstat h l v).htab = t.htab := rfl
@[simp] theorem Thread.setTstat_epid {h l v} : (t.setTstat h l v).epid = t.epid := rfl
@[simp] theorem Thread.setTstat_part {h l v} : (t.setTstat h l v).part = t.part := rfl
@[simp] theorem Thread.setTstat_launch {h l v} : (t.setTstat h l v).launch = t.launch := rfl
@[simp] theorem Thread.setTstat_start {h l v} : (t.setTstat h l v).start = t.start := rfl
@[simp] theorem Thread.setTstat_crew {h l v} : (t.setTstat h l v).crew = t.crew := rfl
@[simp] theorem Thread.setTstat_vlen {h l v} : (t.setTstat h l v).vlen = t.vlen := rfl
@[simp] theorem Thread.setTstat_claim {h l v} : (t.setTstat h l v).claim = t.claim := rfl
@[simp] theorem Thread.setTstat_savedVlen {h l v} : (t.setTstat h l v).savedVlen = t.savedVlen := rfl
@[simp] theorem Thread.setTstat_v {h l v} : (t.setTstat h l v).v = t.v := rfl
@[simp] theorem Thread.setTstat_m {h l v} : (t.setTstat h l v).m = t.m := rfl
@[simp] theorem Thread.setTstat_lastIssue {h l v} : (t.setTstat h l v).lastIssue = t.lastIssue := rfl
@[simp] theorem Thread.setTstat_notBefore {h l v} : (t.setTstat h l v).notBefore = t.notBefore := rfl
@[simp] theorem Thread.setTstat_pfx {h l v} : (t.setTstat h l v).pfx = t.pfx := rfl
@[simp] theorem Thread.setTstat_afterPfx {h l v} : (t.setTstat h l v).afterPfx = t.afterPfx := rfl
@[simp] theorem Thread.setTstat_issuedPc {h l v} : (t.setTstat h l v).issuedPc = t.issuedPc := rfl
@[simp] theorem Thread.setTstat_issuedPfx {h l v} : (t.setTstat h l v).issuedPfx = t.issuedPfx := rfl
@[simp] theorem Thread.setTstat_parkedAt {h l v} : (t.setTstat h l v).parkedAt = t.parkedAt := rfl
@[simp] theorem Thread.setTstat_relaxed {h l v} : (t.setTstat h l v).relaxed = t.relaxed := rfl
@[simp] theorem Thread.setTstat_lost {h l v} : (t.setTstat h l v).lost = t.lost := rfl
@[simp] theorem Thread.setTstat_posted {h l v} : (t.setTstat h l v).posted = t.posted := rfl
@[simp] theorem Thread.setTstat_sfuLeft {h l v} : (t.setTstat h l v).sfuLeft = t.sfuLeft := rfl
@[simp] theorem Thread.setTstat_inbox {h l v} : (t.setTstat h l v).inbox = t.inbox := rfl
@[simp] theorem Thread.setTstat_streams {h l v} : (t.setTstat h l v).streams = t.streams := rfl
@[simp] theorem Thread.setTstat_groups {h l v} : (t.setTstat h l v).groups = t.groups := rfl
@[simp] theorem Thread.setTstat_queues {h l v} : (t.setTstat h l v).queues = t.queues := rfl
@[simp] theorem Thread.setTstat_task {h l v} : (t.setTstat h l v).task = t.task := rfl
@[simp] theorem Thread.setTstat_join {h l v} : (t.setTstat h l v).join = t.join := rfl
@[simp] theorem Thread.setTstat_kill {h l v} : (t.setTstat h l v).kill = t.kill := rfl
@[simp] theorem Thread.setTstat_holdCount {h l v} : (t.setTstat h l v).holdCount = t.holdCount := rfl
@[simp] theorem Thread.setTstat_swapReq {h l v} : (t.setTstat h l v).swapReq = t.swapReq := rfl
@[simp] theorem Thread.setTstat_haltReq {h l v} : (t.setTstat h l v).haltReq = t.haltReq := rfl
@[simp] theorem Thread.setTstat_haltBrk {h l v} : (t.setTstat h l v).haltBrk = t.haltBrk := rfl
@[simp] theorem Thread.setTstat_brkHalt {h l v} : (t.setTstat h l v).brkHalt = t.brkHalt := rfl
@[simp] theorem Thread.setTstat_swapTo {h l v} : (t.setTstat h l v).swapTo = t.swapTo := rfl
@[simp] theorem Thread.setTstat_arriving {h l v} : (t.setTstat h l v).arriving = t.arriving := rfl
@[simp] theorem Thread.setTstat_migT {h l v} : (t.setTstat h l v).migT = t.migT := rfl
@[simp] theorem Thread.setTstat_appt {h l v} : (t.setTstat h l v).appt = t.appt := rfl
@[simp] theorem Thread.setTstat_visitor {h l v} : (t.setTstat h l v).visitor = t.visitor := rfl
@[simp] theorem Thread.setTstat_visitorPool {h l v} : (t.setTstat h l v).visitorPool = t.visitorPool := rfl
@[simp] theorem Thread.setTstat_vmemPass {h l v} : (t.setTstat h l v).vmemPass = t.vmemPass := rfl
@[simp] theorem Thread.setTstat_vmemRead {h l v} : (t.setTstat h l v).vmemRead = t.vmemRead := rfl
@[simp] theorem Thread.setTstat_tail {h l v} : (t.setTstat h l v).tail = t.tail := rfl
@[simp] theorem Thread.setTstat_codeFrom {h l v} : (t.setTstat h l v).codeFrom = t.codeFrom := rfl

@[simp] theorem Thread.issued_pc {c} : (t.issued c).pc = t.pc + 8 := rfl
@[simp] theorem Thread.issued_issuedPc {c} : (t.issued c).issuedPc = t.pc := rfl
@[simp] theorem Thread.issued_issuedPfx {c} : (t.issued c).issuedPfx = t.pfx := rfl
@[simp] theorem Thread.issued_pfx {c} : (t.issued c).pfx = 0 := rfl
@[simp] theorem Thread.issued_afterPfx {c} : (t.issued c).afterPfx = false := rfl
@[simp] theorem Thread.issued_notBefore {c} : (t.issued c).notBefore = 0 := rfl
@[simp] theorem Thread.issued_vmemPass {c} : (t.issued c).vmemPass = 0 := rfl
@[simp] theorem Thread.issued_vmemRead {c} : (t.issued c).vmemRead = [] := rfl
@[simp] theorem Thread.issued_lastIssue {c} : (t.issued c).lastIssue = some c := rfl
@[simp] theorem Thread.trap_epc {h fw c n e p} : (t.trap h fw c n e p).epc = p := rfl
@[simp] theorem Thread.trap_eval {h fw c n e p} : (t.trap h fw c n e p).eval = e := rfl
@[simp] theorem Thread.trap_ecause {h fw c n e p} : (t.trap h fw c n e p).ecause = word (n * 256 + c) := rfl
@[simp] theorem Thread.trap_pfx {h fw c n e p} : (t.trap h fw c n e p).pfx = 0 := rfl
@[simp] theorem Thread.trap_afterPfx {h fw c n e p} : (t.trap h fw c n e p).afterPfx = false := rfl
@[simp] theorem Thread.trap_vmemPass {h fw c n e p} : (t.trap h fw c n e p).vmemPass = 0 := rfl
@[simp] theorem Thread.trap_vmemRead {h fw c n e p} : (t.trap h fw c n e p).vmemRead = [] := rfl
@[simp] theorem Thread.trap_status {h fw c n e p} : (t.trap h fw c n e p).status = .entry := rfl
@[simp] theorem Thread.trap_wait {h fw c n e p} : (t.trap h fw c n e p).wait = none := rfl
@[simp] theorem Thread.trap_pc {h fw c n e p} : (t.trap h fw c n e p).pc = if (if t.priv = 0 then 1 else 2) = 1 then h else fw := rfl
@[simp] theorem Thread.eret_pc : (t.eret).pc = t.epc := rfl
@[simp] theorem Thread.eret_afterPfx : (t.eret).afterPfx = false := rfl
@[simp] theorem Thread.raise_fctl {f} : (t.raise f).fctl = t.fctl ||| word (flagBits f) := rfl
@[simp] theorem Thread.setFctl_fctl {v} : (t.setFctl v).fctl = v := rfl

/-! ### Views that depend on one field -/

@[simp] theorem State.updPkg_thread_view {up uf} {vk} : (s.updPkg up uf).thread? vk = s.thread? vk := rfl
@[simp] theorem State.updPart_thread_view {up uf} {vk} : (s.updPart up uf).thread? vk = s.thread? vk := rfl
@[simp] theorem State.updTile_thread_view {uk uf} {vk} : (s.updTile uk uf).thread? vk = s.thread? vk := rfl
@[simp] theorem State.updCore_thread_view {uc uf} {vk} : (s.updCore uc uf).thread? vk = s.thread? vk := rfl
@[simp] theorem State.updQuad_thread_view {uq uf} {vk} : (s.updQuad uq uf).thread? vk = s.thread? vk := rfl
@[simp] theorem State.updJoin_thread_view {ud uk uf} {vk} : (s.updJoin ud uk uf).thread? vk = s.thread? vk := rfl
@[simp] theorem State.updTaskQueue_thread_view {uq uf} {vk} : (s.updTaskQueue uq uf).thread? vk = s.thread? vk := rfl
@[simp] theorem State.updPort_thread_view {up uf} {vk} : (s.updPort up uf).thread? vk = s.thread? vk := rfl
@[simp] theorem State.updHwQueue_thread_view {uk uq uf} {vk} : (s.updHwQueue uk uq uf).thread? vk = s.thread? vk := rfl
@[simp] theorem State.updGroup_thread_view {up ug uf} {vk} : (s.updGroup up ug uf).thread? vk = s.thread? vk := rfl
@[simp] theorem State.updCrew_thread_view {uc uf} {vk} : (s.updCrew uc uf).thread? vk = s.thread? vk := rfl
@[simp] theorem State.post_thread_view {ui uo} {vk} : (s.post ui uo).thread? vk = s.thread? vk := rfl
@[simp] theorem State.tick_thread_view {vk} : (s.tick).thread? vk = s.thread? vk := rfl
@[simp] theorem State.updPart_pkg_view {up uf} {vp} : (s.updPart up uf).pkg vp = s.pkg vp := rfl
@[simp] theorem State.updTile_pkg_view {uk uf} {vp} : (s.updTile uk uf).pkg vp = s.pkg vp := rfl
@[simp] theorem State.updCore_pkg_view {uc uf} {vp} : (s.updCore uc uf).pkg vp = s.pkg vp := rfl
@[simp] theorem State.updQuad_pkg_view {uq uf} {vp} : (s.updQuad uq uf).pkg vp = s.pkg vp := rfl
@[simp] theorem State.updThread_pkg_view {uk uf} {vp} : (s.updThread uk uf).pkg vp = s.pkg vp := rfl
@[simp] theorem State.updJoin_pkg_view {ud uk uf} {vp} : (s.updJoin ud uk uf).pkg vp = s.pkg vp := rfl
@[simp] theorem State.updTaskQueue_pkg_view {uq uf} {vp} : (s.updTaskQueue uq uf).pkg vp = s.pkg vp := rfl
@[simp] theorem State.updPort_pkg_view {up uf} {vp} : (s.updPort up uf).pkg vp = s.pkg vp := rfl
@[simp] theorem State.updHwQueue_pkg_view {uk uq uf} {vp} : (s.updHwQueue uk uq uf).pkg vp = s.pkg vp := rfl
@[simp] theorem State.updGroup_pkg_view {up ug uf} {vp} : (s.updGroup up ug uf).pkg vp = s.pkg vp := rfl
@[simp] theorem State.updCrew_pkg_view {uc uf} {vp} : (s.updCrew uc uf).pkg vp = s.pkg vp := rfl
@[simp] theorem State.post_pkg_view {ui uo} {vp} : (s.post ui uo).pkg vp = s.pkg vp := rfl
@[simp] theorem State.tick_pkg_view {vp} : (s.tick).pkg vp = s.pkg vp := rfl
@[simp] theorem State.updPkg_part_view {up uf} {vp} : (s.updPkg up uf).part vp = s.part vp := rfl
@[simp] theorem State.updTile_part_view {uk uf} {vp} : (s.updTile uk uf).part vp = s.part vp := rfl
@[simp] theorem State.updCore_part_view {uc uf} {vp} : (s.updCore uc uf).part vp = s.part vp := rfl
@[simp] theorem State.updQuad_part_view {uq uf} {vp} : (s.updQuad uq uf).part vp = s.part vp := rfl
@[simp] theorem State.updThread_part_view {uk uf} {vp} : (s.updThread uk uf).part vp = s.part vp := rfl
@[simp] theorem State.updJoin_part_view {ud uk uf} {vp} : (s.updJoin ud uk uf).part vp = s.part vp := rfl
@[simp] theorem State.updTaskQueue_part_view {uq uf} {vp} : (s.updTaskQueue uq uf).part vp = s.part vp := rfl
@[simp] theorem State.updPort_part_view {up uf} {vp} : (s.updPort up uf).part vp = s.part vp := rfl
@[simp] theorem State.updHwQueue_part_view {uk uq uf} {vp} : (s.updHwQueue uk uq uf).part vp = s.part vp := rfl
@[simp] theorem State.updGroup_part_view {up ug uf} {vp} : (s.updGroup up ug uf).part vp = s.part vp := rfl
@[simp] theorem State.updCrew_part_view {uc uf} {vp} : (s.updCrew uc uf).part vp = s.part vp := rfl
@[simp] theorem State.post_part_view {ui uo} {vp} : (s.post ui uo).part vp = s.part vp := rfl
@[simp] theorem State.tick_part_view {vp} : (s.tick).part vp = s.part vp := rfl
@[simp] theorem State.updPkg_quad_view {up uf} {vq} : (s.updPkg up uf).quad vq = s.quad vq := rfl
@[simp] theorem State.updPart_quad_view {up uf} {vq} : (s.updPart up uf).quad vq = s.quad vq := rfl
@[simp] theorem State.updTile_quad_view {uk uf} {vq} : (s.updTile uk uf).quad vq = s.quad vq := rfl
@[simp] theorem State.updCore_quad_view {uc uf} {vq} : (s.updCore uc uf).quad vq = s.quad vq := rfl
@[simp] theorem State.updThread_quad_view {uk uf} {vq} : (s.updThread uk uf).quad vq = s.quad vq := rfl
@[simp] theorem State.updJoin_quad_view {ud uk uf} {vq} : (s.updJoin ud uk uf).quad vq = s.quad vq := rfl
@[simp] theorem State.updTaskQueue_quad_view {uq uf} {vq} : (s.updTaskQueue uq uf).quad vq = s.quad vq := rfl
@[simp] theorem State.updPort_quad_view {up uf} {vq} : (s.updPort up uf).quad vq = s.quad vq := rfl
@[simp] theorem State.updHwQueue_quad_view {uk uq uf} {vq} : (s.updHwQueue uk uq uf).quad vq = s.quad vq := rfl
@[simp] theorem State.updGroup_quad_view {up ug uf} {vq} : (s.updGroup up ug uf).quad vq = s.quad vq := rfl
@[simp] theorem State.updCrew_quad_view {uc uf} {vq} : (s.updCrew uc uf).quad vq = s.quad vq := rfl
@[simp] theorem State.post_quad_view {ui uo} {vq} : (s.post ui uo).quad vq = s.quad vq := rfl
@[simp] theorem State.tick_quad_view {vq} : (s.tick).quad vq = s.quad vq := rfl
@[simp] theorem State.updPkg_join_view {up uf} {vd vk} : (s.updPkg up uf).join vd vk = s.join vd vk := rfl
@[simp] theorem State.updPart_join_view {up uf} {vd vk} : (s.updPart up uf).join vd vk = s.join vd vk := rfl
@[simp] theorem State.updTile_join_view {uk uf} {vd vk} : (s.updTile uk uf).join vd vk = s.join vd vk := rfl
@[simp] theorem State.updCore_join_view {uc uf} {vd vk} : (s.updCore uc uf).join vd vk = s.join vd vk := rfl
@[simp] theorem State.updQuad_join_view {uq uf} {vd vk} : (s.updQuad uq uf).join vd vk = s.join vd vk := rfl
@[simp] theorem State.updThread_join_view {uk uf} {vd vk} : (s.updThread uk uf).join vd vk = s.join vd vk := rfl
@[simp] theorem State.updTaskQueue_join_view {uq uf} {vd vk} : (s.updTaskQueue uq uf).join vd vk = s.join vd vk := rfl
@[simp] theorem State.updPort_join_view {up uf} {vd vk} : (s.updPort up uf).join vd vk = s.join vd vk := rfl
@[simp] theorem State.updHwQueue_join_view {uk uq uf} {vd vk} : (s.updHwQueue uk uq uf).join vd vk = s.join vd vk := rfl
@[simp] theorem State.updGroup_join_view {up ug uf} {vd vk} : (s.updGroup up ug uf).join vd vk = s.join vd vk := rfl
@[simp] theorem State.updCrew_join_view {uc uf} {vd vk} : (s.updCrew uc uf).join vd vk = s.join vd vk := rfl
@[simp] theorem State.post_join_view {ui uo} {vd vk} : (s.post ui uo).join vd vk = s.join vd vk := rfl
@[simp] theorem State.tick_join_view {vd vk} : (s.tick).join vd vk = s.join vd vk := rfl
@[simp] theorem State.updPkg_taskQueue_view {up uf} {vq} : (s.updPkg up uf).taskQueue vq = s.taskQueue vq := rfl
@[simp] theorem State.updPart_taskQueue_view {up uf} {vq} : (s.updPart up uf).taskQueue vq = s.taskQueue vq := rfl
@[simp] theorem State.updTile_taskQueue_view {uk uf} {vq} : (s.updTile uk uf).taskQueue vq = s.taskQueue vq := rfl
@[simp] theorem State.updCore_taskQueue_view {uc uf} {vq} : (s.updCore uc uf).taskQueue vq = s.taskQueue vq := rfl
@[simp] theorem State.updQuad_taskQueue_view {uq uf} {vq} : (s.updQuad uq uf).taskQueue vq = s.taskQueue vq := rfl
@[simp] theorem State.updThread_taskQueue_view {uk uf} {vq} : (s.updThread uk uf).taskQueue vq = s.taskQueue vq := rfl
@[simp] theorem State.updJoin_taskQueue_view {ud uk uf} {vq} : (s.updJoin ud uk uf).taskQueue vq = s.taskQueue vq := rfl
@[simp] theorem State.updPort_taskQueue_view {up uf} {vq} : (s.updPort up uf).taskQueue vq = s.taskQueue vq := rfl
@[simp] theorem State.updHwQueue_taskQueue_view {uk uq uf} {vq} : (s.updHwQueue uk uq uf).taskQueue vq = s.taskQueue vq := rfl
@[simp] theorem State.updGroup_taskQueue_view {up ug uf} {vq} : (s.updGroup up ug uf).taskQueue vq = s.taskQueue vq := rfl
@[simp] theorem State.updCrew_taskQueue_view {uc uf} {vq} : (s.updCrew uc uf).taskQueue vq = s.taskQueue vq := rfl
@[simp] theorem State.post_taskQueue_view {ui uo} {vq} : (s.post ui uo).taskQueue vq = s.taskQueue vq := rfl
@[simp] theorem State.tick_taskQueue_view {vq} : (s.tick).taskQueue vq = s.taskQueue vq := rfl
@[simp] theorem State.updPkg_port_view {up uf} {vp} : (s.updPkg up uf).port vp = s.port vp := rfl
@[simp] theorem State.updPart_port_view {up uf} {vp} : (s.updPart up uf).port vp = s.port vp := rfl
@[simp] theorem State.updTile_port_view {uk uf} {vp} : (s.updTile uk uf).port vp = s.port vp := rfl
@[simp] theorem State.updCore_port_view {uc uf} {vp} : (s.updCore uc uf).port vp = s.port vp := rfl
@[simp] theorem State.updQuad_port_view {uq uf} {vp} : (s.updQuad uq uf).port vp = s.port vp := rfl
@[simp] theorem State.updThread_port_view {uk uf} {vp} : (s.updThread uk uf).port vp = s.port vp := rfl
@[simp] theorem State.updJoin_port_view {ud uk uf} {vp} : (s.updJoin ud uk uf).port vp = s.port vp := rfl
@[simp] theorem State.updTaskQueue_port_view {uq uf} {vp} : (s.updTaskQueue uq uf).port vp = s.port vp := rfl
@[simp] theorem State.updHwQueue_port_view {uk uq uf} {vp} : (s.updHwQueue uk uq uf).port vp = s.port vp := rfl
@[simp] theorem State.updGroup_port_view {up ug uf} {vp} : (s.updGroup up ug uf).port vp = s.port vp := rfl
@[simp] theorem State.updCrew_port_view {uc uf} {vp} : (s.updCrew uc uf).port vp = s.port vp := rfl
@[simp] theorem State.post_port_view {ui uo} {vp} : (s.post ui uo).port vp = s.port vp := rfl
@[simp] theorem State.tick_port_view {vp} : (s.tick).port vp = s.port vp := rfl
@[simp] theorem State.updPkg_group_view {up uf} {vp vg} : (s.updPkg up uf).group? vp vg = s.group? vp vg := rfl
@[simp] theorem State.updPart_group_view {up uf} {vp vg} : (s.updPart up uf).group? vp vg = s.group? vp vg := rfl
@[simp] theorem State.updTile_group_view {uk uf} {vp vg} : (s.updTile uk uf).group? vp vg = s.group? vp vg := rfl
@[simp] theorem State.updCore_group_view {uc uf} {vp vg} : (s.updCore uc uf).group? vp vg = s.group? vp vg := rfl
@[simp] theorem State.updQuad_group_view {uq uf} {vp vg} : (s.updQuad uq uf).group? vp vg = s.group? vp vg := rfl
@[simp] theorem State.updThread_group_view {uk uf} {vp vg} : (s.updThread uk uf).group? vp vg = s.group? vp vg := rfl
@[simp] theorem State.updJoin_group_view {ud uk uf} {vp vg} : (s.updJoin ud uk uf).group? vp vg = s.group? vp vg := rfl
@[simp] theorem State.updTaskQueue_group_view {uq uf} {vp vg} : (s.updTaskQueue uq uf).group? vp vg = s.group? vp vg := rfl
@[simp] theorem State.updPort_group_view {up uf} {vp vg} : (s.updPort up uf).group? vp vg = s.group? vp vg := rfl
@[simp] theorem State.updHwQueue_group_view {uk uq uf} {vp vg} : (s.updHwQueue uk uq uf).group? vp vg = s.group? vp vg := rfl
@[simp] theorem State.updCrew_group_view {uc uf} {vp vg} : (s.updCrew uc uf).group? vp vg = s.group? vp vg := rfl
@[simp] theorem State.post_group_view {ui uo} {vp vg} : (s.post ui uo).group? vp vg = s.group? vp vg := rfl
@[simp] theorem State.tick_group_view {vp vg} : (s.tick).group? vp vg = s.group? vp vg := rfl
@[simp] theorem State.updPkg_crew_view {up uf} {vc} : (s.updPkg up uf).crew? vc = s.crew? vc := rfl
@[simp] theorem State.updPart_crew_view {up uf} {vc} : (s.updPart up uf).crew? vc = s.crew? vc := rfl
@[simp] theorem State.updTile_crew_view {uk uf} {vc} : (s.updTile uk uf).crew? vc = s.crew? vc := rfl
@[simp] theorem State.updCore_crew_view {uc uf} {vc} : (s.updCore uc uf).crew? vc = s.crew? vc := rfl
@[simp] theorem State.updQuad_crew_view {uq uf} {vc} : (s.updQuad uq uf).crew? vc = s.crew? vc := rfl
@[simp] theorem State.updThread_crew_view {uk uf} {vc} : (s.updThread uk uf).crew? vc = s.crew? vc := rfl
@[simp] theorem State.updJoin_crew_view {ud uk uf} {vc} : (s.updJoin ud uk uf).crew? vc = s.crew? vc := rfl
@[simp] theorem State.updTaskQueue_crew_view {uq uf} {vc} : (s.updTaskQueue uq uf).crew? vc = s.crew? vc := rfl
@[simp] theorem State.updPort_crew_view {up uf} {vc} : (s.updPort up uf).crew? vc = s.crew? vc := rfl
@[simp] theorem State.updHwQueue_crew_view {uk uq uf} {vc} : (s.updHwQueue uk uq uf).crew? vc = s.crew? vc := rfl
@[simp] theorem State.updGroup_crew_view {up ug uf} {vc} : (s.updGroup up ug uf).crew? vc = s.crew? vc := rfl
@[simp] theorem State.post_crew_view {ui uo} {vc} : (s.post ui uo).crew? vc = s.crew? vc := rfl
@[simp] theorem State.tick_crew_view {vc} : (s.tick).crew? vc = s.crew? vc := rfl
@[simp] theorem State.updPkg_rd {up uf} {a n} : (s.updPkg up uf).rd a n = s.rd a n := rfl
@[simp] theorem State.updPkg_rdWord {up uf} {a} : (s.updPkg up uf).rdWord a = s.rdWord a := rfl
@[simp] theorem State.updPart_tile_view {up uf} {vk} : (s.updPart up uf).tile vk = s.tile vk := rfl
@[simp] theorem State.updPart_core_view {up uf} {vc} : (s.updPart up uf).core vc = s.core vc := rfl
@[simp] theorem State.updPart_rd {up uf} {a n} : (s.updPart up uf).rd a n = s.rd a n := rfl
@[simp] theorem State.updPart_rdWord {up uf} {a} : (s.updPart up uf).rdWord a = s.rdWord a := rfl
@[simp] theorem State.updTile_core_view {uk uf} {vc} : (s.updTile uk uf).core vc = s.core vc := rfl
@[simp] theorem State.updTile_rd {uk uf} {a n} : (s.updTile uk uf).rd a n = s.rd a n := rfl
@[simp] theorem State.updTile_rdWord {uk uf} {a} : (s.updTile uk uf).rdWord a = s.rdWord a := rfl
@[simp] theorem State.updCore_tile_view {uc uf} {vk} : (s.updCore uc uf).tile vk = s.tile vk := rfl
@[simp] theorem State.updCore_rd {uc uf} {a n} : (s.updCore uc uf).rd a n = s.rd a n := rfl
@[simp] theorem State.updCore_rdWord {uc uf} {a} : (s.updCore uc uf).rdWord a = s.rdWord a := rfl
@[simp] theorem State.updQuad_tile_view {uq uf} {vk} : (s.updQuad uq uf).tile vk = s.tile vk := rfl
@[simp] theorem State.updQuad_core_view {uq uf} {vc} : (s.updQuad uq uf).core vc = s.core vc := rfl
@[simp] theorem State.updQuad_rd {uq uf} {a n} : (s.updQuad uq uf).rd a n = s.rd a n := rfl
@[simp] theorem State.updQuad_rdWord {uq uf} {a} : (s.updQuad uq uf).rdWord a = s.rdWord a := rfl
@[simp] theorem State.updThread_tile_view {uk uf} {vk} : (s.updThread uk uf).tile vk = s.tile vk := rfl
@[simp] theorem State.updThread_core_view {uk uf} {vc} : (s.updThread uk uf).core vc = s.core vc := rfl
@[simp] theorem State.updThread_rd {uk uf} {a n} : (s.updThread uk uf).rd a n = s.rd a n := rfl
@[simp] theorem State.updThread_rdWord {uk uf} {a} : (s.updThread uk uf).rdWord a = s.rdWord a := rfl
@[simp] theorem State.updJoin_tile_view {ud uk uf} {vk} : (s.updJoin ud uk uf).tile vk = s.tile vk := rfl
@[simp] theorem State.updJoin_core_view {ud uk uf} {vc} : (s.updJoin ud uk uf).core vc = s.core vc := rfl
@[simp] theorem State.updJoin_rd {ud uk uf} {a n} : (s.updJoin ud uk uf).rd a n = s.rd a n := rfl
@[simp] theorem State.updJoin_rdWord {ud uk uf} {a} : (s.updJoin ud uk uf).rdWord a = s.rdWord a := rfl
@[simp] theorem State.updTaskQueue_tile_view {uq uf} {vk} : (s.updTaskQueue uq uf).tile vk = s.tile vk := rfl
@[simp] theorem State.updTaskQueue_core_view {uq uf} {vc} : (s.updTaskQueue uq uf).core vc = s.core vc := rfl
@[simp] theorem State.updTaskQueue_rd {uq uf} {a n} : (s.updTaskQueue uq uf).rd a n = s.rd a n := rfl
@[simp] theorem State.updTaskQueue_rdWord {uq uf} {a} : (s.updTaskQueue uq uf).rdWord a = s.rdWord a := rfl
@[simp] theorem State.updPort_tile_view {up uf} {vk} : (s.updPort up uf).tile vk = s.tile vk := rfl
@[simp] theorem State.updPort_core_view {up uf} {vc} : (s.updPort up uf).core vc = s.core vc := rfl
@[simp] theorem State.updPort_rd {up uf} {a n} : (s.updPort up uf).rd a n = s.rd a n := rfl
@[simp] theorem State.updPort_rdWord {up uf} {a} : (s.updPort up uf).rdWord a = s.rdWord a := rfl
@[simp] theorem State.updHwQueue_core_view {uk uq uf} {vc} : (s.updHwQueue uk uq uf).core vc = s.core vc := rfl
@[simp] theorem State.updHwQueue_rd {uk uq uf} {a n} : (s.updHwQueue uk uq uf).rd a n = s.rd a n := rfl
@[simp] theorem State.updHwQueue_rdWord {uk uq uf} {a} : (s.updHwQueue uk uq uf).rdWord a = s.rdWord a := rfl
@[simp] theorem State.updGroup_tile_view {up ug uf} {vk} : (s.updGroup up ug uf).tile vk = s.tile vk := rfl
@[simp] theorem State.updGroup_core_view {up ug uf} {vc} : (s.updGroup up ug uf).core vc = s.core vc := rfl
@[simp] theorem State.updGroup_rd {up ug uf} {a n} : (s.updGroup up ug uf).rd a n = s.rd a n := rfl
@[simp] theorem State.updGroup_rdWord {up ug uf} {a} : (s.updGroup up ug uf).rdWord a = s.rdWord a := rfl
@[simp] theorem State.updCrew_tile_view {uc uf} {vk} : (s.updCrew uc uf).tile vk = s.tile vk := rfl
@[simp] theorem State.updCrew_core_view {uc uf} {vc} : (s.updCrew uc uf).core vc = s.core vc := rfl
@[simp] theorem State.updCrew_rd {uc uf} {a n} : (s.updCrew uc uf).rd a n = s.rd a n := rfl
@[simp] theorem State.updCrew_rdWord {uc uf} {a} : (s.updCrew uc uf).rdWord a = s.rdWord a := rfl
@[simp] theorem State.post_tile_view {ui uo} {vk} : (s.post ui uo).tile vk = s.tile vk := rfl
@[simp] theorem State.post_core_view {ui uo} {vc} : (s.post ui uo).core vc = s.core vc := rfl
@[simp] theorem State.post_rd {ui uo} {a n} : (s.post ui uo).rd a n = s.rd a n := rfl
@[simp] theorem State.post_rdWord {ui uo} {a} : (s.post ui uo).rdWord a = s.rdWord a := rfl
@[simp] theorem State.tick_tile_view {vk} : (s.tick).tile vk = s.tile vk := rfl
@[simp] theorem State.tick_core_view {vc} : (s.tick).core vc = s.core vc := rfl
@[simp] theorem State.tick_rd {a n} : (s.tick).rd a n = s.rd a n := rfl
@[simp] theorem State.tick_rdWord {a} : (s.tick).rdWord a = s.rdWord a := rfl

end Sys2Proof.Machine
end

