-- ==== Sys2Proof/Laws/Tab.lean ====
section
/-!
SUPPORT. Laws/Tab.lean: finite tables, and the parts of the state that are kept in them.
-/
namespace Sys2Proof.Machine

namespace Tab
variable {κ α : Type} [DecidableEq κ]

@[simp] theorem get?_set_self (t : Tab κ α) (k : κ) (v : α) : get? (set t k v) k = some v := by
  induction t with
  | nil => simp [set, get?]
  | cons e t ih =>
    obtain ⟨k', v'⟩ := e
    by_cases h : k' = k <;> simp [set, get?, h, ih]

theorem get?_set_ne (t : Tab κ α) {k j : κ} (v : α) (h : k ≠ j) : get? (set t k v) j = get? t j := by
  induction t with
  | nil => simp [set, get?, h]
  | cons e t ih =>
    obtain ⟨k', v'⟩ := e
    by_cases hk : k' = k
    · subst hk; simp [set, get?, h]
    · simp only [set, if_neg hk, get?, ih]

@[simp] theorem get?_upd_self (t : Tab κ α) (k : κ) (f : α → α) : get? (upd t k f) k = (get? t k).map f := by
  induction t with
  | nil => rfl
  | cons e t ih =>
    obtain ⟨k', v'⟩ := e
    by_cases h : k' = k <;> simp [upd, get?, h, ih]

theorem get?_upd_ne (t : Tab κ α) {k j : κ} (f : α → α) (h : k ≠ j) : get? (upd t k f) j = get? t j := by
  induction t with
  | nil => rfl
  | cons e t ih =>
    obtain ⟨k', v'⟩ := e
    by_cases hk : k' = k
    · subst hk; simp [upd, get?, h]
    · simp only [upd, if_neg hk, get?, ih]

theorem get?_upd (t : Tab κ α) (k j : κ) (f : α → α) : get? (upd t k f) j = if k = j then (get? t j).map f else get? t j := by
  by_cases h : k = j
  · subst h; simp
  · simp [get?_upd_ne t f h, h]

@[simp] theorem get?_del_self (t : Tab κ α) (k : κ) : get? (del t k) k = none := by
  induction t with
  | nil => rfl
  | cons e t ih =>
    obtain ⟨k', v'⟩ := e
    by_cases h : k' = k <;> simp [del, get?, h, ih]

theorem get?_del_ne (t : Tab κ α) {k j : κ} (h : k ≠ j) : get? (del t k) j = get? t j := by
  induction t with
  | nil => rfl
  | cons e t ih =>
    obtain ⟨k', v'⟩ := e
    by_cases hk : k' = k
    · subst hk; simp [del, get?, h, ih]
    · simp only [del, if_neg hk, get?, ih]

@[simp] theorem getD_updD_self (t : Tab κ α) (k : κ) (d : α) (f : α → α) : getD (updD t k d f) k d = f (getD t k d) := by
  simp [updD, getD]

theorem getD_updD_ne (t : Tab κ α) {k j : κ} (d d' : α) (f : α → α) (h : k ≠ j) : getD (updD t k d f) j d' = getD t j d' := by
  simp [updD, getD, get?_set_ne _ _ h]

theorem upd_upd (t : Tab κ α) (k : κ) (f g : α → α) : upd (upd t k f) k g = upd t k (fun x => g (f x)) := by
  induction t with
  | nil => rfl
  | cons e t ih =>
    obtain ⟨k', v'⟩ := e
    by_cases h : k' = k <;> simp [upd, h, ih]
end Tab

variable (s : State)

@[simp] theorem State.thread?_updThread (k : Nat) (f : Thread → Thread) : (s.updThread k f).thread? k = (s.thread? k).map f :=
  Tab.get?_upd_self _ _ _

theorem State.thread?_updThread_ne {k j : Nat} (f : Thread → Thread) (h : k ≠ j) : (s.updThread k f).thread? j = s.thread? j :=
  Tab.get?_upd_ne _ _ h

theorem State.updThread_updThread (k : Nat) (f g : Thread → Thread) :
    (s.updThread k f).updThread k g = s.updThread k (fun t => g (f t)) := by
  simp [State.updThread, Tab.upd_upd]

@[simp] theorem State.part_updPart (p : PartRef) (f : Part → Part) : (s.updPart p f).part p = f (s.part p) := Tab.getD_updD_self _ _ _ _

theorem State.part_updPart_ne {p q : PartRef} (f : Part → Part) (h : p ≠ q) : (s.updPart p f).part q = s.part q :=
  Tab.getD_updD_ne _ _ _ _ h

@[simp] theorem State.pkg_updPkg (p : Nat) (f : Pkg → Pkg) : (s.updPkg p f).pkg p = f (s.pkg p) := Tab.getD_updD_self _ _ _ _

theorem State.pkg_updPkg_ne {p q : Nat} (f : Pkg → Pkg) (h : p ≠ q) : (s.updPkg p f).pkg q = s.pkg q := Tab.getD_updD_ne _ _ _ _ h

@[simp] theorem State.tile_updTile (k : TileRef) (f : Tile → Tile) : (s.updTile k f).tile k = f (s.tile k) := Tab.getD_updD_self _ _ _ _

theorem State.tile_updTile_ne {k j : TileRef} (f : Tile → Tile) (h : k ≠ j) : (s.updTile k f).tile j = s.tile j :=
  Tab.getD_updD_ne _ _ _ _ h

@[simp] theorem State.core_updCore (c : CoreRef) (f : CoreSt → CoreSt) : (s.updCore c f).core c = f (s.core c) :=
  Tab.getD_updD_self _ _ _ _

theorem State.core_updCore_ne {c d : CoreRef} (f : CoreSt → CoreSt) (h : c ≠ d) : (s.updCore c f).core d = s.core d :=
  Tab.getD_updD_ne _ _ _ _ h

@[simp] theorem State.quad_updQuad (q : QuadRef) (f : Quad → Quad) : (s.updQuad q f).quad q = f (s.quad q) := Tab.getD_updD_self _ _ _ _

@[simp] theorem State.join_updJoin (d : DieRef) (k : Nat) (f : Join → Join) : (s.updJoin d k f).join d k = f (s.join d k) :=
  Tab.getD_updD_self _ _ _ _

@[simp] theorem State.taskQueue_updTaskQueue (q : TaskQueueRef) (f : TaskQueue → TaskQueue) :
    (s.updTaskQueue q f).taskQueue q = f (s.taskQueue q) := Tab.getD_updD_self _ _ _ _

@[simp] theorem State.port_updPort (p : PortRef) (f : SpanPort → SpanPort) : (s.updPort p f).port p = f (s.port p) :=
  Tab.getD_updD_self _ _ _ _

@[simp] theorem State.crew?_updCrew (c : CrewRef) (f : Crew → Crew) : (s.updCrew c f).crew? c = (s.crew? c).map f :=
  Tab.get?_upd_self _ _ _

@[simp] theorem State.group?_updGroup (p g : Nat) (f : Group → Group) : (s.updGroup p g f).group? p g = (s.group? p g).map f :=
  Tab.get?_upd_self _ _ _

@[simp] theorem State.hwQueue_updHwQueue (k : TileRef) (q : Nat) (f : HwQueue → HwQueue) :
    (s.updHwQueue k q f).hwQueue k q = f (s.hwQueue k q) := by
  simp only [State.hwQueue, State.updHwQueue, State.tile_updTile]
  exact Tab.getD_updD_self _ _ _ _

end Sys2Proof.Machine
end

