-- ==== Sys2Proof/Laws/Issue.lean ====
section
/-!
SUPPORT. Laws/Issue.lean: a lone instruction that passes every check is issued: what `issueS` and `issueV` then answer, and what its
source fields read.
-/
namespace Sys2Proof.Machine
open Sys2Proof

/-! ### Source fields -/

/-- A source that shares its queue with none of those named before it finds what it finds alone. -/
theorem sourceAmong_apart {s : State} {t : Thread} {before : List Nat} {r : Nat}
    (h : ∀ q ∈ before, q ≠ r → t.queueOf r = none ∨ t.queueOf r ≠ t.queueOf q) : sourceAmong s t before r = sourceOf s t r := by
  unfold sourceAmong
  cases hq : t.queueOf r with
  | none => rfl
  | some k =>
    have hs : t.sharing r (before.filter (· != r)).eraseDups = 0 := by
      unfold Thread.sharing
      rw [List.length_eq_zero_iff, List.filter_eq_nil_iff]
      intro x hx
      have hx' := List.mem_filter.mp (List.mem_eraseDups.mp hx)
      have := (h x hx'.1 (by simpa using hx'.2)).resolve_left (by simp [hq])
      simp only [Bool.and_eq_true, beq_iff_eq, not_and]
      exact fun _ => fun e => this e.symm
    simp only [hs, List.drop_zero]
    unfold Thread.queueOf at hq
    split at hq
    · next hr =>
      obtain ⟨b, hb, rfl⟩ := Option.map_eq_some_iff.mp hq
      unfold sourceOf
      rw [if_neg (by omega), if_neg (by omega), if_neg (by omega), hb]
    · cases hq

/-- The values of sources that share no queue, each as it is alone. -/
theorem valsFrom_apart {s : State} {t : Thread} (rs : List (BitVec 6)) (before : List Nat)
    (h : ∀ r ∈ rs, ∀ q ∈ before ++ rs.map (·.toNat), q ≠ r.toNat → t.queueOf r.toNat = none ∨ t.queueOf r.toNat ≠ t.queueOf q) :
    valsFrom s t before rs = rs.filterMap (fun r =>
      if 48 ≤ r.toNat ∧ r.toNat ≤ 59 then (match sourceOf s t r.toNat with | .value v => some (r.toNat, v) | _ => none) else none) := by
  induction rs generalizing before with
  | nil => rfl
  | cons r rs ih =>
    have h1 : sourceAmong s t before r.toNat = sourceOf s t r.toNat :=
      sourceAmong_apart (fun q hq => h r (by simp) q (by simp [hq]))
    have h2 := ih (before ++ [r.toNat]) (fun x hx q hq => h x (by simp [hx]) q (by simpa using hq))
    simp only [valsFrom, h1, h2, List.filterMap_cons]
    split
    · cases sourceOf s t r.toNat <;> rfl
    · rfl

theorem Apart.nat {t : Thread} {rs : List (BitVec 6)} (h : Apart t rs) :
    ∀ r ∈ rs, ∀ q ∈ [] ++ rs.map (·.toNat), q ≠ r.toNat → t.queueOf r.toNat = none ∨ t.queueOf r.toNat ≠ t.queueOf q := by
  intro r hr q hq hne
  obtain ⟨x, hx, rfl⟩ := List.mem_map.mp (by simpa using hq)
  exact h r hr x hx (fun e => hne (by rw [e]))

theorem specialVals_apart {s : State} {t : Thread} {rs : List (BitVec 6)} (h : Apart t rs) :
    specialVals s t rs = rs.filterMap (fun r =>
      if 48 ≤ r.toNat ∧ r.toNat ≤ 59 then (match sourceOf s t r.toNat with | .value v => some (r.toNat, v) | _ => none) else none) :=
  valsFrom_apart rs [] h.nat

/-- Sources that share no queue and each yield a value keep no bundle back. -/
theorem firstEmpty_apart {s : State} {t : Thread} (rs : List (BitVec 6)) (before : List Nat)
    (h : ∀ r ∈ rs, ∀ q ∈ before ++ rs.map (·.toNat), q ≠ r.toNat → t.queueOf r.toNat = none ∨ t.queueOf r.toNat ≠ t.queueOf q)
    (hs : ∀ r ∈ rs, sourceOf s t r.toNat ≠ .empty) : firstEmpty s t before rs = none := by
  induction rs generalizing before with
  | nil => rfl
  | cons r rs ih =>
    have h1 : sourceAmong s t before r.toNat = sourceOf s t r.toNat :=
      sourceAmong_apart (fun q hq => h r (by simp) q (by simp [hq]))
    simp only [firstEmpty, h1]
    rw [if_neg (by simpa using hs r (by simp))]
    exact ih _ (fun x hx q hq => h x (by simp [hx]) q (by simpa using hq)) (fun x hx => hs x (by simp [hx]))

/-- The recorded value of a special-mapped source. -/
theorem specialVals_find {s : State} {t : Thread} {rs : List (BitVec 6)} {r : BitVec 6} (ha : Apart t rs) (hr : r ∈ rs)
    (hs : ∀ r ∈ rs, sourceOf s t r.toNat = .value (valueOf s t r)) (hm : 48 ≤ r.toNat ∧ r.toNat ≤ 59) :
    (specialVals s t rs).find? (fun x => x.1 == r.toNat) = some (r.toNat, valueOf s t r) := by
  rw [specialVals_apart ha]
  clear ha
  induction rs with
  | nil => simp at hr
  | cons q rs ih =>
    have hq := hs q (by simp)
    by_cases hqr : q = r
    · subst hqr
      simp [hm, hq]
    · have hne : q.toNat ≠ r.toNat := fun h => hqr (BitVec.eq_of_toNat_eq h)
      have hr' : r ∈ rs := (List.mem_cons.mp hr).resolve_left (fun e => hqr e.symm)
      have ih := ih hr' (fun x hx => hs x (by simp [hx]))
      by_cases hqm : 48 ≤ q.toNat ∧ q.toNat ≤ 59
      · simp only [List.filterMap_cons, if_pos hqm, hq]
        rw [List.find?_cons_of_neg (by simpa using hne)]
        exact ih
      · simp only [List.filterMap_cons, if_neg hqm]; exact ih

/-- A source field of an issued instruction reads what it finds (R41, R44). -/
theorem ctx_g {s : State} {tid : Nat} {t : Thread} {srcs : List (BitVec 6)} {r : BitVec 6} (ha : Apart t srcs)
    (hs : ∀ r ∈ srcs, sourceOf s t r.toNat = .value (valueOf s t r)) (hr : r ∈ srcs) :
    (ctxOf s tid t srcs).g r = valueOf s t r := by
  unfold Ctx.g ctxOf
  by_cases hm : 48 ≤ r.toNat ∧ r.toNat ≤ 59
  · simp [hm, specialVals_find ha hr hs hm]
  · have h := hs r hr
    have hp : r.toNat < 48 ∨ 59 < r.toNat := by omega
    simp only [hm, if_false]
    unfold sourceOf at h
    rw [if_pos hp] at h
    split at h
    · exact (Source.value.inj h)
    · cases h

/-- The special-mapped sources, by number. -/
theorem specialVals_fst {s : State} {t : Thread} {rs : List (BitVec 6)} (ha : Apart t rs)
    (hs : ∀ r ∈ rs, sourceOf s t r.toNat = .value (valueOf s t r)) :
    (specialVals s t rs).map (·.1) = (rs.map (·.toNat)).filter (fun r => 48 ≤ r && r ≤ 59) := by
  rw [specialVals_apart ha]
  clear ha
  induction rs with
  | nil => rfl
  | cons q rs ih =>
    have hq := hs q (by simp)
    have ih := ih (fun x hx => hs x (by simp [hx]))
    by_cases hqm : 48 ≤ q.toNat ∧ q.toNat ≤ 59
    · simp only [List.filterMap_cons, if_pos hqm, hq, List.map_cons, ih]
      simp [hqm]
    · have hf : (decide (48 ≤ q.toNat) && decide (q.toNat ≤ 59)) = false := by
        simp only [Bool.and_eq_false_iff, decide_eq_false_iff_not]; omega
      simp only [List.filterMap_cons, if_neg hqm, List.map_cons, ih]
      simp [hf]

/-! ### Flags -/

@[simp] theorem noFlags_or (f : Flags) : noFlags.or f = f := by cases f; rfl
@[simp] theorem or_noFlags (f : Flags) : f.or noFlags = f := by cases f; simp [Flags.or, noFlags]
@[simp] theorem flagged_none (tid : Nat) (s : State) : flagged tid noFlags s = s := by simp [flagged]

/-! ### A lone instruction -/

theorem conflict_nop_right (x : Sem) : x.conflict semNop = false := by
  simp [Sem.conflict, semNop]

theorem conflict_nop_left (x : Sem) : semNop.conflict x = false := by
  simp [Sem.conflict, semNop]

theorem find?_eq_none_of {α : Type} {l : List α} {p : α → Bool} (h : ∀ x ∈ l, p x = false) : l.find? p = none := by
  rw [List.find?_eq_none]; intro x hx; simp [h x hx]

/-- The checks that do not depend on the entry pass. -/
structure Passes (s : State) (tid : Nat) (t : Thread) (x : Sem) : Prop where
  illop : x.illop t = false
  illreg : x.illreg (ctxOf s tid t x.srcs) s = none
  check : x.check (ctxOf s tid t x.srcs) s = .ok

/-- What a commit of a lone S-slot instruction does: its effect in the state after issue, and its flags. -/
theorem commit_S {s : State} {tid : Nat} {t : Thread} (x : Sem) (ha : Apart t x.srcs)
    (hs : ∀ r ∈ x.srcs, sourceOf s t r.toNat = .value (valueOf s t r)) :
    commit (ctxOf s tid t x.srcs) x semNop s =
      flagged tid (x.flags (ctxOf s tid t x.srcs)) (x.run (ctxOf s tid t x.srcs) (afterIssue s tid t x.srcs)) := by
  unfold commit flagged afterIssue readOnce
  simp only [semNop, noFlags_or]
  simp only [ctxOf, specialVals_fst ha hs]
  rfl

/-- The same for a lone V-slot instruction. -/
theorem commit_V {s : State} {tid : Nat} {t : Thread} (x : Sem) (ha : Apart t x.srcs)
    (hs : ∀ r ∈ x.srcs, sourceOf s t r.toNat = .value (valueOf s t r)) :
    commit (ctxOf s tid t x.srcs) semNop x s =
      flagged tid (x.flags (ctxOf s tid t x.srcs)) (x.run (ctxOf s tid t x.srcs) (afterIssue s tid t x.srcs)) := by
  unfold commit flagged afterIssue readOnce
  simp only [semNop, or_noFlags]
  simp only [ctxOf, specialVals_fst ha hs]
  rfl

theorem Issues.notEmpty {s : State} {tid : Nat} {t : Thread} {srcs : List (BitVec 6)} {ds : List Nat} {ext : Nat}
    (h : Issues s tid t srcs ds ext) : firstEmpty s t [] srcs = none :=
  firstEmpty_apart srcs [] h.apart.nat (fun r hr => by simp [h.sources r hr])

theorem Issues.regEcc {s : State} {tid : Nat} {t : Thread} {srcs : List (BitVec 6)} {ds : List Nat} {ext : Nat}
    (h : Issues s tid t srcs ds ext) : regEcc t srcs = .ok := by
  unfold Machine.regEcc
  rw [find?_eq_none_of (fun r hr => h.sound r hr)]

theorem Issues.bound {s : State} {tid : Nat} {t : Thread} {srcs : List (BitVec 6)} {ds : List Nat} {ext : Nat}
    (h : Issues s tid t srcs ds ext) : srcs.find? (srcIllreg s t) = none :=
  find?_eq_none_of (fun r hr => by simp [srcIllreg, h.sources r hr])

theorem Issues.mayWrite {s : State} {tid : Nat} {t : Thread} {srcs : List (BitVec 6)} {ds : List Nat} {ext : Nat}
    (h : Issues s tid t srcs ds ext) : ds.find? (dstIllreg t) = none := find?_eq_none_of (fun d hd => h.targets d hd)

theorem Issues.noDrain {s : State} {tid : Nat} {t : Thread} {srcs : List (BitVec 6)} {ds : List Nat} {ext : Nat}
    (h : Issues s tid t srcs ds ext) :
    (t.relaxed = [] ∧ t.lost = []) ∨ (srcs.map (·.toNat) ++ ds).any (fun r => 52 ≤ r && r ≤ 59) = false :=
  h.drained.imp id (fun h => by
    rw [List.any_eq_false]
    intro r hr
    have := h r hr
    simp only [Bool.and_eq_true, decide_eq_true_eq]; exact this)

/-- A bundle that passes every check of R51 and R142 is committed. -/
theorem issueThread_ok {s : State} {tid : Nat} {t : Thread} {si vi : Sem}
    (hi : (si.illop t || (vi.illop t || si.conflict vi)) = false)
    (he : firstEmpty s t [] (si.srcs ++ vi.srcs) = none)
    (hx : ((si.exts (ctxOf s tid t (si.srcs ++ vi.srcs)) s ||| vi.exts (ctxOf s tid t (si.srcs ++ vi.srcs)) s) &&&
      (s.core t.pos.coreRef).extid.toNat) = (si.exts (ctxOf s tid t (si.srcs ++ vi.srcs)) s ||| vi.exts (ctxOf s tid t (si.srcs ++ vi.srcs)) s))
    (hr : (illregOf si (ctxOf s tid t (si.srcs ++ vi.srcs)) s).or (illregOf vi (ctxOf s tid t (si.srcs ++ vi.srcs)) s) = none)
    (hc : worst (worst (si.check (ctxOf s tid t (si.srcs ++ vi.srcs)) s) (vi.check (ctxOf s tid t (si.srcs ++ vi.srcs)) s))
      (regEcc t (si.srcs ++ vi.srcs)) = .ok)
    (hq : fullAmong s t [] (vi.wg ++ si.wg) = none)
    (hd : (t.relaxed = [] ∧ t.lost = []) ∨ (si.shared ++ vi.shared).any (fun r => 52 ≤ r && r ≤ 59) = false) :
    issueThread tid t si vi s = commit (ctxOf s tid t (si.srcs ++ vi.srcs)) si vi s := by
  unfold ctxOf at *
  unfold issueThread
  simp only [hi, he, hx, hr, hc, hq, Bool.false_eq_true, if_false, ne_eq, not_true_eq_false]
  rcases hd with ⟨h1, h2⟩ | hd
  · simp [h1, h2]
  · simp [hd]

/-- The issue of a READY resident thread whose turn it is. -/
theorem issue_turn {s : State} {tid : Nat} {t : Thread} {srcs : List (BitVec 6)} {ds : List Nat} {ext : Nat}
    (h : Issues s tid t srcs ds ext) (si vi : Sem) : issue si vi s = .next (issueThread tid t si vi s) := by
  simp only [issue, h.turn, h.thread, h.ready, h.resident, and_self, if_true]

/-- A lone S-slot instruction that passes every check has its effect (R41, R51). -/
theorem issueS_next {s : State} {tid : Nat} {t : Thread} {x : Sem} {ext : Nat} (h : Issues s tid t x.srcs x.wg ext)
    (hx : x.exts (ctxOf s tid t x.srcs) s = ext) (p : Passes s tid t x) :
    issueS x s = .next (flagged tid (x.flags (ctxOf s tid t x.srcs))
      (x.run (ctxOf s tid t x.srcs) (afterIssue s tid t x.srcs))) := by
  have e : x.srcs ++ semNop.srcs = x.srcs := List.append_nil _
  rw [issueS, issue_turn h, issueThread_ok, e, commit_S x h.apart h.sources]
  · simp [p.illop, conflict_nop_right, show semNop.illop t = false from rfl]
  · rw [e]; exact h.notEmpty
  · rw [e, hx, show semNop.exts (ctxOf s tid t x.srcs) s = 0 from rfl, Nat.or_zero]; exact h.extensions
  · rw [e, show illregOf semNop (ctxOf s tid t x.srcs) s = none from rfl, Option.or_none]
    unfold illregOf
    rw [p.illreg]
    simp only [ctxOf, h.mayWrite, h.bound, Option.map_none]
  · rw [e, p.check, h.regEcc]; rfl
  · rw [show semNop.wg ++ x.wg = x.wg from List.nil_append _]; exact h.room
  · rw [show x.shared ++ semNop.shared = x.shared from List.append_nil _]; exact h.noDrain

/-- The same for a lone V-slot instruction. -/
theorem issueV_next {s : State} {tid : Nat} {t : Thread} {x : Sem} {ext : Nat} (h : Issues s tid t x.srcs x.wg ext)
    (hx : x.exts (ctxOf s tid t x.srcs) s = ext) (p : Passes s tid t x) :
    issueV x s = .next (flagged tid (x.flags (ctxOf s tid t x.srcs))
      (x.run (ctxOf s tid t x.srcs) (afterIssue s tid t x.srcs))) := by
  have e : semNop.srcs ++ x.srcs = x.srcs := List.nil_append _
  rw [issueV, issue_turn h, issueThread_ok, e, commit_V x h.apart h.sources]
  · simp [p.illop, conflict_nop_left, show semNop.illop t = false from rfl]
  · rw [e]; exact h.notEmpty
  · rw [e, hx, show semNop.exts (ctxOf s tid t x.srcs) s = 0 from rfl, Nat.zero_or]; exact h.extensions
  · rw [e, show illregOf semNop (ctxOf s tid t x.srcs) s = none from rfl, Option.none_or]
    unfold illregOf
    rw [p.illreg]
    simp only [ctxOf, h.mayWrite, h.bound, Option.map_none]
  · rw [e, show semNop.check (ctxOf s tid t x.srcs) s = .ok from rfl, p.check, h.regEcc]; rfl
  · rw [show x.wg ++ semNop.wg = x.wg from List.append_nil _]; exact h.room
  · rw [show semNop.shared ++ x.shared = x.shared from List.nil_append _]; exact h.noDrain

/-! ### The state after issue -/

/-- Sources that are not special-mapped are read without an action. -/
theorem readOnce_plain {s : State} {tid : Nat} {srcs : List (BitVec 6)} (h : ∀ r ∈ srcs, ¬(48 ≤ r.toNat ∧ r.toNat ≤ 59)) :
    readOnce s tid srcs = s := by
  have : (srcs.map (·.toNat)).filter (fun r => 48 ≤ r && r ≤ 59) = [] := by
    rw [List.filter_eq_nil_iff]
    intro r hr
    obtain ⟨x, hx, rfl⟩ := List.mem_map.mp hr
    have := h x hx
    simp only [Bool.and_eq_true, decide_eq_true_eq]; exact this
  simp [readOnce, this]

/-- With such sources, issue only moves the thread past the bundle. -/
theorem afterIssue_plain {s : State} {tid : Nat} {t : Thread} {srcs : List (BitVec 6)}
    (h : ∀ r ∈ srcs, ¬(48 ≤ r.toNat ∧ r.toNat ≤ 59)) :
    afterIssue s tid t srcs = s.updThread tid (fun u => u.issued ((s.core t.pos.coreRef).cycle - 1)) := by
  simp [afterIssue, readOnce_plain h]

end Sys2Proof.Machine
end

