-- ==== Sys2Proof/Laws/Memory.lean ====
section
/-!
SUPPORT. Laws/Memory.lean: memory and its FE bits: every operation keeps the canonical form, a read after a write gives the value
written, and every other byte and FE bit is left alone.
-/
namespace Sys2Proof.Machine
open Sys2Proof

/-! ### One byte -/

/-- The canonical form, entry by entry: no entry reads as unlisted, and every later address is higher. -/
theorem memWf_cons {a : Nat} {b : Byte} {m : List Host.Cell} :
    memWf ((a, b) :: m) = true ↔ b ≠ unlistedByte ∧ (∀ e ∈ m, a < e.1) ∧ memWf m = true := by
  induction m generalizing a b with
  | nil => simp [memWf]
  | cons e m ih =>
    obtain ⟨a', b'⟩ := e
    have h : memWf ((a, b) :: (a', b') :: m) = true ↔ b ≠ unlistedByte ∧ a < a' ∧ memWf ((a', b') :: m) = true := by simp [memWf]
    rw [h]
    constructor
    · rintro ⟨hb, hlt, hw⟩
      refine ⟨hb, fun e he => ?_, hw⟩
      rcases List.mem_cons.mp he with rfl | he
      · exact hlt
      · exact Nat.lt_trans hlt ((ih.mp hw).2.1 e he)
    · rintro ⟨hb, hall, hw⟩
      exact ⟨hb, hall (a', b') (by simp), hw⟩

/-- What a write leaves listed: the address itself, or what was listed. -/
theorem mem_memSet {m : List Host.Cell} {a : Nat} {b : Byte} {e : Host.Cell} (h : e ∈ memSet m a b) : e.1 = a ∨ e ∈ m := by
  induction m with
  | nil => unfold memSet at h; split at h <;> simp_all
  | cons x m ih =>
    obtain ⟨a', b'⟩ := x
    unfold memSet at h
    split at h
    · split at h
      · exact .inr h
      · rcases List.mem_cons.mp h with rfl | h
        · exact .inl rfl
        · exact .inr h
    · split at h
      · split at h
        · exact .inr (List.mem_cons_of_mem _ h)
        · rcases List.mem_cons.mp h with rfl | h
          · exact .inl rfl
          · exact .inr (List.mem_cons_of_mem _ h)
      · rcases List.mem_cons.mp h with rfl | h
        · exact .inr (by simp)
        · rcases ih h with h | h
          · exact .inl h
          · exact .inr (List.mem_cons_of_mem _ h)

/-- A write of one byte keeps the canonical form. -/
theorem memSet_wf {m : List Host.Cell} (a : Nat) (b : Byte) (h : memWf m = true) : memWf (memSet m a b) = true := by
  induction m with
  | nil => unfold memSet; split <;> simp_all [memWf]
  | cons x m ih =>
    obtain ⟨a', b'⟩ := x
    have hx := memWf_cons.mp h
    unfold memSet
    split
    · rename_i hlt
      split
      · exact h
      · rename_i hb
        refine memWf_cons.mpr ⟨hb, fun e he => ?_, h⟩
        rcases List.mem_cons.mp he with rfl | he
        · exact hlt
        · exact Nat.lt_trans hlt (hx.2.1 e he)
    · split
      · rename_i heq
        split
        · exact hx.2.2
        · rename_i hb
          exact memWf_cons.mpr ⟨hb, fun e he => heq ▸ hx.2.1 e he, hx.2.2⟩
      · rename_i hlt hne
        refine memWf_cons.mpr ⟨hx.1, fun e he => ?_, ih hx.2.2⟩
        rcases mem_memSet he with h | h
        · omega
        · exact hx.2.1 e h

/-- An address that no entry reaches reads as unlisted. -/
theorem memGet_above {m : List Host.Cell} {a : Nat} (h : ∀ e ∈ m, a < e.1) : memGet m a = unlistedByte := by
  cases m with
  | nil => rfl
  | cons e m =>
    obtain ⟨a', b'⟩ := e
    have : a < a' := h (a', b') (by simp)
    simp [memGet, this, Nat.ne_of_lt this]

/-- A byte reads as it was written. -/
theorem memGet_memSet_self {m : List Host.Cell} {a : Nat} {b : Byte} (h : memWf m = true) : memGet (memSet m a b) a = b := by
  induction m with
  | nil => unfold memSet; split <;> simp_all [memGet]
  | cons x m ih =>
    obtain ⟨a', b'⟩ := x
    have hx := memWf_cons.mp h
    unfold memSet
    split
    · rename_i hlt
      split
      · rename_i hb; simp [memGet, hlt, Nat.ne_of_lt hlt, hb]
      · simp [memGet]
    · split
      · rename_i heq
        split
        · rename_i hb; rw [memGet_above (fun e he => heq ▸ hx.2.1 e he), hb]
        · simp [memGet]
      · rename_i hlt hne
        simp only [memGet, hlt, hne, if_false]
        exact ih hx.2.2

/-- Every other byte reads as before. -/
theorem memGet_memSet_ne {m : List Host.Cell} {a c : Nat} {b : Byte} (h : memWf m = true) (hc : c ≠ a) :
    memGet (memSet m a b) c = memGet m c := by
  induction m with
  | nil =>
    unfold memSet; split
    · rfl
    · simp [memGet, hc]
  | cons x m ih =>
    obtain ⟨a', b'⟩ := x
    have hx := memWf_cons.mp h
    unfold memSet
    split
    · rename_i hlt
      split
      · rfl
      · by_cases h1 : c < a
        · simp [memGet, h1, Nat.ne_of_lt h1, Nat.lt_trans h1 hlt, Nat.ne_of_lt (Nat.lt_trans h1 hlt)]
        · simp only [memGet, if_neg hc, if_neg h1]
    · split
      · rename_i heq
        subst heq
        split
        · by_cases h1 : c < a
          · rw [memGet_above (fun e he => Nat.lt_trans h1 (hx.2.1 e he))]; simp [memGet, h1, hc]
          · simp only [memGet, if_neg hc, if_neg h1]
        · simp only [memGet, if_neg hc]
      · simp only [memGet, ih hx.2.2]

/-! ### Several bytes -/

theorem memWrite_wf {m : List Host.Cell} (a n v : Nat) (h : memWf m = true) : memWf (memWrite m a n v) = true := by
  induction n generalizing m a v with
  | zero => exact h
  | succ n ih => exact ih _ _ (memSet_wf _ _ h)

/-- A byte outside the `n` bytes written reads as before. -/
theorem memGet_memWrite_out {m : List Host.Cell} {a n v c : Nat} (h : memWf m = true) (hc : c < a ∨ a + n ≤ c) :
    memGet (memWrite m a n v) c = memGet m c := by
  induction n generalizing m a v with
  | zero => rfl
  | succ n ih =>
    unfold memWrite
    rw [ih (memSet_wf _ _ h) (by omega), memGet_memSet_ne h (by omega)]

/-- Byte `i` of the `n` bytes written is byte `i` of the value (R5). -/
theorem memGet_memWrite_in {m : List Host.Cell} {a n v i : Nat} (h : memWf m = true) (hi : i < n) :
    memGet (memWrite m a n v) (a + i) = BitVec.ofNat 8 (v / 256 ^ i) := by
  induction n generalizing m a v i with
  | zero => omega
  | succ n ih =>
    unfold memWrite
    cases i with
    | zero =>
      rw [memGet_memWrite_out (memSet_wf _ _ h) (by omega)]
      simp [memGet_memSet_self h]
    | succ i =>
      rw [show a + (i + 1) = a + 1 + i by omega, ih (memSet_wf _ _ h) (by omega), Nat.div_div_eq_div_mul, Nat.pow_succ, Nat.mul_comm]

/-- Memories that read alike at each of `n` bytes give one value. -/
theorem memRead_congr {m m' : List Host.Cell} {a n : Nat} (h : ∀ i < n, memGet m (a + i) = memGet m' (a + i)) :
    memRead m a n = memRead m' a n := by
  induction n generalizing a with
  | zero => rfl
  | succ n ih =>
    unfold memRead
    rw [show memGet m a = memGet m' a from h 0 (by omega),
      ih (fun i hi => by have := h (i + 1) (by omega); rwa [show a + (i + 1) = a + 1 + i by omega] at this)]

theorem memRead_lt (m : List Host.Cell) (a n : Nat) : memRead m a n < 256 ^ n := by
  induction n generalizing a with
  | zero => simp [memRead]
  | succ n ih =>
    unfold memRead
    have h1 := (memGet m a).isLt
    have h2 := ih (a + 1)
    rw [Nat.pow_succ]; omega

/-- A read of what has just been written gives it back. -/
theorem memRead_memWrite_self {m : List Host.Cell} {a n v : Nat} (h : memWf m = true) : memRead (memWrite m a n v) a n = v % 256 ^ n := by
  induction n generalizing m a v with
  | zero => simp [memRead, Nat.mod_one]
  | succ n ih =>
    unfold memRead memWrite
    rw [ih (memSet_wf _ _ h), memGet_memWrite_out (memSet_wf _ _ h) (by omega), memGet_memSet_self h]
    simp only [BitVec.toNat_ofNat]
    rw [show (2 : Nat) ^ 8 = 256 from rfl, show 256 ^ (n + 1) = 256 * 256 ^ n by rw [Nat.pow_succ, Nat.mul_comm], Nat.mod_mul]

/-- A read of other bytes gives what it gave. -/
theorem memRead_memWrite_out {m : List Host.Cell} {a n v c k : Nat} (h : memWf m = true) (hc : c + k ≤ a ∨ a + n ≤ c) :
    memRead (memWrite m a n v) c k = memRead m c k :=
  memRead_congr (fun i hi => memGet_memWrite_out h (by omega))

/-! ### FE bits -/

theorem feWf_cons {w : Nat} {l : List Nat} : feWf (w :: l) = true ↔ (∀ x ∈ l, w < x) ∧ feWf l = true := by
  induction l generalizing w with
  | nil => simp [feWf]
  | cons y l ih =>
    have h : feWf (w :: y :: l) = true ↔ w < y ∧ feWf (y :: l) = true := by simp [feWf]
    rw [h]
    constructor
    · rintro ⟨hlt, hw⟩
      refine ⟨fun x hx => ?_, hw⟩
      rcases List.mem_cons.mp hx with rfl | hx
      · exact hlt
      · exact Nat.lt_trans hlt ((ih.mp hw).1 x hx)
    · rintro ⟨hall, hw⟩
      exact ⟨hall y (by simp), hw⟩

theorem mem_feInsert {l : List Nat} {w x : Nat} : x ∈ feInsert l w ↔ x = w ∨ x ∈ l := by
  induction l with
  | nil => simp [feInsert]
  | cons y l ih =>
    unfold feInsert
    split
    · simp
    · split
      · rename_i h; subst h; simp
      · rw [List.mem_cons, ih, List.mem_cons]; exact or_left_comm

/-- A fill keeps the FE list rising. -/
theorem feInsert_wf {l : List Nat} (w : Nat) (h : feWf l = true) : feWf (feInsert l w) = true := by
  induction l with
  | nil => rfl
  | cons y l ih =>
    have hy := feWf_cons.mp h
    unfold feInsert
    split
    · rename_i hlt
      refine feWf_cons.mpr ⟨fun x hx => ?_, h⟩
      rcases List.mem_cons.mp hx with rfl | hx
      · exact hlt
      · exact Nat.lt_trans hlt (hy.1 x hx)
    · split
      · exact h
      · refine feWf_cons.mpr ⟨fun x hx => ?_, ih hy.2⟩
        rcases mem_feInsert.mp hx with rfl | hx
        · omega
        · exact hy.1 x hx

theorem filter_feWf {l : List Nat} (p : Nat → Bool) (h : feWf l = true) : feWf (l.filter p) = true := by
  induction l with
  | nil => rfl
  | cons y l ih =>
    have hy := feWf_cons.mp h
    by_cases hp : p y = true
    · rw [List.filter_cons_of_pos hp]
      exact feWf_cons.mpr ⟨fun x hx => hy.1 x ((List.mem_filter.mp hx).1), ih hy.2⟩
    · rw [List.filter_cons_of_neg hp]; exact ih hy.2

/-- Setting an FE bit keeps the FE list rising. -/
theorem feSet_wf {l : List Nat} (w : Nat) (full : Bool) (h : feWf l = true) : feWf (feSet l w full) = true := by
  unfold feSet; split
  · exact feInsert_wf w h
  · exact filter_feWf _ h

@[simp] theorem feGet_feSet_self (l : List Nat) (w : Nat) (full : Bool) : feGet (feSet l w full) w = full := by
  cases full <;> simp [feGet, feSet, mem_feInsert]

theorem feGet_feSet_ne (l : List Nat) {w x : Nat} (full : Bool) (h : x ≠ w) : feGet (feSet l w full) x = feGet l x := by
  cases full <;> simp [feGet, feSet, mem_feInsert, h]

end Sys2Proof.Machine
end

