-- ==== Sys2Proof/Laws/Ops.lean ====
section
/-!
SUPPORT. Laws/Ops.lean: what the shared operations over registers, waits and exceptions do, and that none of them touches memory.
-/
namespace Sys2Proof.Machine
open Sys2Proof

/-! ### Memory is left alone -/

/-- Two states with the same memory, FE bits and poisoned words. -/
structure MemKept (s u : State) : Prop where
  mem : u.mem = s.mem
  fe : u.fe = s.fe
  poison : u.poison = s.poison

theorem MemKept.refl (s : State) : MemKept s s := ⟨rfl, rfl, rfl⟩

theorem MemKept.trans {s u v : State} (h : MemKept s u) (k : MemKept u v) : MemKept s v :=
  ⟨k.mem.trans h.mem, k.fe.trans h.fe, k.poison.trans h.poison⟩

theorem MemKept.of_eq {s u v : State} (h : MemKept u v) (h1 : u.mem = s.mem) (h2 : u.fe = s.fe) (h3 : u.poison = s.poison) :
    MemKept s v := MemKept.trans ⟨h1, h2, h3⟩ h

theorem MemKept.same {s u : State} (h : MemKept s u) : SameMem s u := ⟨fun a => by rw [h.mem], fun w => by rw [h.fe]⟩

/-- A fold of operations that leave memory alone leaves it alone. -/
theorem MemKept.foldl {α : Type} {f : State → α → State} (hf : ∀ s x, MemKept s (f s x)) (l : List α) (s : State) :
    MemKept s (l.foldl f s) := by
  induction l generalizing s with
  | nil => exact .refl s
  | cons x l ih => exact (hf s x).trans (ih _)

theorem updThread_memKept (k : Nat) (f : Thread → Thread) (s : State) : MemKept s (s.updThread k f) := ⟨rfl, rfl, rfl⟩
theorem post_memKept (i : Instr) (o : Obj) (s : State) : MemKept s (s.post i o) := ⟨rfl, rfl, rfl⟩

theorem park_memKept (tid : Nat) (w : Wait) (s : State) : MemKept s (park tid w s) := ⟨rfl, rfl, rfl⟩

theorem wake_memKept (tid : Nat) (s : State) : MemKept s (wake tid s) := by
  unfold wake; split
  · exact .refl s
  · split
    · exact ⟨rfl, rfl, rfl⟩
    · split
      · exact ⟨rfl, rfl, rfl⟩
      · split <;> exact ⟨rfl, rfl, rfl⟩

theorem wakeIf_memKept (w : Wait) (tid : Nat) (s : State) : MemKept s (wakeIf w tid s) := by
  unfold wakeIf; split
  · exact .refl s
  · split
    · exact wake_memKept tid s
    · exact .refl s

theorem wakeAll_memKept (p : Thread → Bool) (s : State) : MemKept s (wakeAll p s) :=
  MemKept.foldl (fun s t => wake_memKept t s) _ s

theorem retryMsg_memKept (m : Nat × Msg) (s : State) : MemKept s (retryMsg s m) := by
  unfold retryMsg; split <;> exact ⟨rfl, rfl, rfl⟩

theorem retryMsgs_memKept (e : BitVec 32) (s : State) : MemKept s (retryMsgs e s) :=
  MemKept.foldl (fun s m => retryMsg_memKept m s) _ s

theorem regFill_memKept (tid r : Nat) (v : Word) (s : State) : MemKept s (regFill tid r v s) := by
  unfold regFill; split
  · exact .refl s
  · split
    · exact post_memKept _ _ s
    · split
      · exact (updThread_memKept _ _ _).trans (wakeIf_memKept _ _ _)
      · exact ((updThread_memKept _ _ _).trans (retryMsgs_memKept _ _)).trans (wakeIf_memKept _ _ _)

theorem queuePush_memKept (tid r : Nat) (v : Word) (s : State) : MemKept s (queuePush tid r v s) := by
  unfold queuePush; split
  · exact .refl s
  · split
    · exact .refl s
    · exact MemKept.trans (u := s.updHwQueue _ _ _) ⟨rfl, rfl, rfl⟩ (wakeAll_memKept _ _)

theorem postRound_memKept (p g : Nat) (s : State) : MemKept s (postRound p g s) := by
  unfold postRound; split
  · exact .refl s
  · split
    · exact .refl s
    · split
      · exact post_memKept _ _ s
      · exact .refl s

theorem giveRound_memKept (p g k : Nat) (e : Pos × Word) (s : State) : MemKept s (giveRound p g k e s) := by
  unfold giveRound; split
  · exact .refl s
  · split
    · exact .refl s
    · split
      · exact (postRound_memKept _ _ _).of_eq rfl rfl rfl
      · exact ⟨rfl, rfl, rfl⟩

theorem groupContribute_memKept (tid r : Nat) (v : Word) (s : State) : MemKept s (groupContribute tid r v s) := by
  unfold groupContribute; split
  · exact .refl s
  · split
    · exact .refl s
    · dsimp only
      split
      · exact (giveRound_memKept _ _ _ _ _).of_eq rfl rfl rfl
      · exact ⟨rfl, rfl, rfl⟩

/-- A write action leaves memory alone. -/
theorem regWrite_memKept (tid r : Nat) (v : Word) (s : State) : MemKept s (regWrite tid r v s) := by
  unfold regWrite; split
  · exact .refl s
  · split
    · exact groupContribute_memKept _ _ _ s
    · split
      · exact queuePush_memKept _ _ _ s
      · exact regFill_memKept _ _ _ s

theorem finish_memKept (tid d : Nat) (v : Word) (s : State) : MemKept s (finish tid d v s) := by
  unfold finish; split
  · exact .refl s
  · split
    · exact updThread_memKept _ _ s
    · exact (regWrite_memKept _ _ _ s).trans (wake_memKept _ _)

theorem streamPop_memKept (tid r : Nat) (s : State) : MemKept s (streamPop tid r s) := by
  unfold streamPop; split
  · exact .refl s
  · split
    · exact .refl s
    · dsimp only
      split <;> exact ⟨rfl, rfl, rfl⟩

theorem queuePop_memKept (tid r : Nat) (s : State) : MemKept s (queuePop tid r s) := by
  unfold queuePop; split
  · exact .refl s
  · split
    · exact .refl s
    · rename_i t _ b _
      dsimp only
      refine MemKept.trans ?_ (MemKept.foldl (fun s w => ?_) _ _)
      · refine MemKept.trans ?_ (MemKept.foldl (fun s x => MemKept.foldl (fun s a => post_memKept _ _ s) _ s) _ _)
        split <;> exact ⟨rfl, rfl, rfl⟩
      · split
        · split
          · exact finish_memKept _ _ _ s
          · exact wake_memKept _ s
        · exact .refl s

/-- A read action leaves memory alone. -/
theorem readAction_memKept (tid r : Nat) (s : State) : MemKept s (readAction tid r s) := by
  unfold readAction; split
  · exact .refl s
  · split
    · exact streamPop_memKept _ _ s
    · split
      · exact updThread_memKept _ _ s
      · exact queuePop_memKept _ _ s

/-- Reading the sources and passing the bundle leave memory alone. -/
theorem afterIssue_memKept (s : State) (tid : Nat) (t : Thread) (srcs : List (BitVec 6)) : MemKept s (afterIssue s tid t srcs) :=
  (MemKept.foldl (fun s r => readAction_memKept tid r s) _ s).trans (updThread_memKept _ _ _)

theorem flagged_memKept (tid : Nat) (f : Flags) (s : State) : MemKept s (flagged tid f s) := by
  unfold flagged; split
  · exact .refl s
  · exact updThread_memKept _ _ s

/-- Leaving the line for matrix queue entries changes nothing but the tile. -/
theorem leaveMatrixLine_tiles (tl : TileRef) (tid : Nat) (s : State) :
    leaveMatrixLine tl tid s = { s with tiles := (leaveMatrixLine tl tid s).tiles } := by
  unfold leaveMatrixLine; split
  · rfl
  · split <;> rfl

@[simp] theorem leaveMatrixLine_thread (tl : TileRef) (tid k : Nat) (s : State) : (leaveMatrixLine tl tid s).thread? k = s.thread? k := by
  rw [leaveMatrixLine_tiles]; rfl

@[simp] theorem leaveMatrixLine_agenda (tl : TileRef) (tid : Nat) (s : State) : (leaveMatrixLine tl tid s).agenda = s.agenda := by
  rw [leaveMatrixLine_tiles]

/-- Taking an exception leaves memory alone. -/
theorem takeTrap_memKept (tid cause info : Nat) (eval epc : Word) (s : State) : MemKept s (takeTrap tid cause info eval epc s) := by
  unfold takeTrap; split
  · exact .refl s
  · rw [leaveMatrixLine_tiles]; exact ⟨rfl, rfl, rfl⟩

/-! ### General registers -/

@[simp] theorem Thread.reg_zero (t : Thread) : t.reg 0 = 0 := rfl
@[simp] theorem Thread.full_zero (t : Thread) : t.full 0 = true := rfl
@[simp] theorem Thread.setReg_zero (t : Thread) (v : Word) : t.setReg 0 v = t := rfl

/-- A register that is written holds the value (R13). -/
theorem Thread.reg_setReg_self (t : Thread) {r : Nat} (v : Word) (h0 : 0 < r) (h : r < 64) : (t.setReg r v).reg r = v := by
  have hr : r ≠ 0 := by omega
  unfold Thread.setReg Thread.reg
  simp [hr, Array.getD, h]

/-- Writing a register changes no other. -/
theorem Thread.reg_setReg_ne (t : Thread) {r q : Nat} (v : Word) (h : q ≠ r) : (t.setReg r v).reg q = t.reg q := by
  unfold Thread.setReg Thread.reg
  by_cases hr : r = 0
  · simp [hr]
  · by_cases hq : q = 0
    · simp [hq]
    · by_cases hb : q < 64 <;> simp [hr, hq, Array.getD, hb, Ne.symm h]

/-- A register that is written is full (R13). -/
theorem Thread.full_setReg_self (t : Thread) {r : Nat} (v : Word) (h : r < 64) : (t.setReg r v).full r = true := by
  unfold Thread.setReg Thread.full
  by_cases hr : r = 0
  · simp [hr]
  · simp [hr, h]

/-- Writing a register changes no other's FE bit. -/
theorem Thread.full_setReg_ne (t : Thread) {r q : Nat} (v : Word) (h : q ≠ r) : (t.setReg r v).full q = t.full q := by
  unfold Thread.setReg Thread.full
  by_cases hr : r = 0
  · simp [hr]
  · by_cases hq : q = 0
    · simp [hq]
    · simp only [hr, if_false, hq, decide_false, Bool.false_or, BitVec.getLsbD_or, BitVec.getLsbD_shiftLeft]
      by_cases hlt : q < r
      · simp [hlt]
      · have : q - r ≠ 0 := by omega
        simp [this]

@[simp] theorem regWrite_zero (tid : Nat) (v : Word) (s : State) : regWrite tid 0 v s = s := rfl

/-- A write to a plain register of a thread that holds no message for it and does not wait for it. -/
theorem regWrite_plain {s : State} {tid r : Nat} {t : Thread} {v : Word} (h : plain r) (ht : s.thread? tid = some t)
    (hp : t.slot?.isSome = true) (hi : ∀ e ∈ t.inbox, e.1 = true → e.2.1 ≠ r) (hw : t.wait ≠ some (.reg r)) :
    regWrite tid r v s = s.updThread tid (·.setReg r v) := by
  obtain ⟨h0, h1⟩ := h
  have hb : t.inbox.filter (fun e => e.1 && e.2.1 == r) = [] := by
    rw [List.filter_eq_nil_iff]
    intro e he
    have := hi e he
    cases h1 : e.1 <;> simp_all
  have hf : regFill tid r v s = s.updThread tid (·.setReg r v) := by
    unfold regFill
    rw [ht]
    dsimp only
    cases hpl : t.place with
    | slot p =>
      simp only [hb, List.getLast?_nil]
      unfold wakeIf
      rw [State.thread?_updThread, ht, Option.map_some]
      simp [hw]
    | image h a => simp [Thread.slot?, hpl] at hp
    | flight a b => simp [Thread.slot?, hpl] at hp
  unfold regWrite
  rw [if_neg (by omega), if_neg (by omega), if_neg (by omega), hf]

/-! ### Parking, waking and exceptions -/

/-- A parked thread waits for exactly what it was parked on. -/
theorem park_thread {s : State} {tid : Nat} {t : Thread} (w : Wait) (ht : s.thread? tid = some t) :
    (park tid w s).thread? tid = some { t with status := .parked, wait := some w, parkedAt := s.now t.pos.pkg } := by
  simp [park, ht]

/-- A thread's exception entry (R143), and the 32 cycles in ENTRY to come. -/
theorem takeTrap_thread {s : State} {tid : Nat} {t : Thread} (cause info : Nat) (eval epc : Word) (ht : s.thread? tid = some t) :
    (takeTrap tid cause info eval epc s).thread? tid =
      some (t.trap (s.cfgOf t).handler (s.pkg t.pos.pkg).blob.firmware cause info eval epc) := by
  unfold takeTrap
  rw [ht]
  simp only [State.post_thread_view, State.thread?_updThread, leaveMatrixLine_thread, ht, Option.map_some]

theorem takeTrap_agenda {s : State} {tid : Nat} {t : Thread} (cause info : Nat) (eval epc : Word) (ht : s.thread? tid = some t) :
    (takeTrap tid cause info eval epc s).agenda = s.agenda ++ [.event .entryEnd (.thread tid)] := by
  unfold takeTrap; rw [ht]
  simp only [State.post_agenda, State.updThread_agenda, leaveMatrixLine_agenda]

/-- An exception changes no other thread. -/
theorem takeTrap_other {s : State} {tid u : Nat} (cause info : Nat) (eval epc : Word) (h : tid ≠ u) :
    (takeTrap tid cause info eval epc s).thread? u = s.thread? u := by
  unfold takeTrap; split
  · rfl
  · rw [State.post_thread_view, State.thread?_updThread_ne _ _ h, leaveMatrixLine_thread]

end Sys2Proof.Machine
end

