-- ==== Sys2Proof/Laws/Word.lean ====
section
/-!
SUPPORT. Laws/Word.lean: the bits of a concatenation, for reading fields out of a word that was put together from fields.
-/
namespace Sys2Proof.Laws
open Sys2Proof

/-- Bits above the lower part lie in the upper part. -/
theorem extract_high {m n lo k : Nat} (x : BitVec m) (y : BitVec n) (h : n ≤ lo) :
    (x ++ y).extractLsb' lo k = x.extractLsb' (lo - n) k := by
  apply BitVec.eq_of_getLsbD_eq
  intro i hi
  have h1 : ¬ (lo + i < n) := by omega
  have h2 : lo - n + i = lo + i - n := by omega
  simp [BitVec.getLsbD_append, h1, h2]

/-- Bits inside the lower part. -/
theorem extract_low {m n lo k : Nat} (x : BitVec m) (y : BitVec n) (h : lo + k ≤ n) :
    (x ++ y).extractLsb' lo k = y.extractLsb' lo k := by
  apply BitVec.eq_of_getLsbD_eq
  intro i hi
  have h1 : lo + i < n := by omega
  simp [BitVec.getLsbD_append, h1]

/-- All bits of a word. -/
theorem extract_all {n : Nat} (x : BitVec n) : x.extractLsb' 0 n = x := by
  apply BitVec.eq_of_getLsbD_eq
  intro i hi
  simp [hi]

end Sys2Proof.Laws
end

