-- ==== Sys2Proof/Laws/PerInstr.lean ====
section
/-!
SUPPORT. Laws/PerInstr.lean: family Encodes: the word of a well-formed instruction names that instruction as the candidate of its slot
(03 R45 to R49): no bit of an operand is dropped by the encoding or read from another place.
-/
set_option Elab.async false

namespace Sys2Proof.Laws.Encodes
open Sys2Proof

/-- The candidate that the word of a well-formed instruction names in the instruction's slot is that instruction. -/
def Statement (i : Instr) : Prop := ∀ w, encode i = some w → i.wf = true → (if i.vSlot then candV w else candS w) = some i

theorem add {d a b} : Statement (.add d a b) := by
  intro w h hw
  obtain rfl := Option.some.inj h
  exact show candS _ = _ by simp (disch := decide) only [candS, candInt, fld, extract_low, extract_high, extract_all, Nat.reduceSub, BitVec.reduceToNat]

theorem sub {d a b} : Statement (.sub d a b) := by
  intro w h hw
  obtain rfl := Option.some.inj h
  exact show candS _ = _ by simp (disch := decide) only [candS, candInt, fld, extract_low, extract_high, extract_all, Nat.reduceSub, BitVec.reduceToNat]

theorem mul {d a b} : Statement (.mul d a b) := by
  intro w h hw
  obtain rfl := Option.some.inj h
  exact show candS _ = _ by simp (disch := decide) only [candS, candInt, fld, extract_low, extract_high, extract_all, Nat.reduceSub, BitVec.reduceToNat]

theorem mulh {d a b} : Statement (.mulh d a b) := by
  intro w h hw
  obtain rfl := Option.some.inj h
  exact show candS _ = _ by simp (disch := decide) only [candS, candInt, fld, extract_low, extract_high, extract_all, Nat.reduceSub, BitVec.reduceToNat]

theorem mulhu {d a b} : Statement (.mulhu d a b) := by
  intro w h hw
  obtain rfl := Option.some.inj h
  exact show candS _ = _ by simp (disch := decide) only [candS, candInt, fld, extract_low, extract_high, extract_all, Nat.reduceSub, BitVec.reduceToNat]

theorem div {d a b} : Statement (.div d a b) := by
  intro w h hw
  obtain rfl := Option.some.inj h
  exact show candS _ = _ by simp (disch := decide) only [candS, candInt, fld, extract_low, extract_high, extract_all, Nat.reduceSub, BitVec.reduceToNat]

theorem divu {d a b} : Statement (.divu d a b) := by
  intro w h hw
  obtain rfl := Option.some.inj h
  exact show candS _ = _ by simp (disch := decide) only [candS, candInt, fld, extract_low, extract_high, extract_all, Nat.reduceSub, BitVec.reduceToNat]

theorem rem {d a b} : Statement (.rem d a b) := by
  intro w h hw
  obtain rfl := Option.some.inj h
  exact show candS _ = _ by simp (disch := decide) only [candS, candInt, fld, extract_low, extract_high, extract_all, Nat.reduceSub, BitVec.reduceToNat]

theorem remu {d a b} : Statement (.remu d a b) := by
  intro w h hw
  obtain rfl := Option.some.inj h
  exact show candS _ = _ by simp (disch := decide) only [candS, candInt, fld, extract_low, extract_high, extract_all, Nat.reduceSub, BitVec.reduceToNat]

theorem and {d a b} : Statement (.and d a b) := by
  intro w h hw
  obtain rfl := Option.some.inj h
  exact show candS _ = _ by simp (disch := decide) only [candS, candInt, fld, extract_low, extract_high, extract_all, Nat.reduceSub, BitVec.reduceToNat]

theorem or {d a b} : Statement (.or d a b) := by
  intro w h hw
  obtain rfl := Option.some.inj h
  exact show candS _ = _ by simp (disch := decide) only [candS, candInt, fld, extract_low, extract_high, extract_all, Nat.reduceSub, BitVec.reduceToNat]

theorem xor {d a b} : Statement (.xor d a b) := by
  intro w h hw
  obtain rfl := Option.some.inj h
  exact show candS _ = _ by simp (disch := decide) only [candS, candInt, fld, extract_low, extract_high, extract_all, Nat.reduceSub, BitVec.reduceToNat]

theorem andn {d a b} : Statement (.andn d a b) := by
  intro w h hw
  obtain rfl := Option.some.inj h
  exact show candS _ = _ by simp (disch := decide) only [candS, candInt, fld, extract_low, extract_high, extract_all, Nat.reduceSub, BitVec.reduceToNat]

theorem orn {d a b} : Statement (.orn d a b) := by
  intro w h hw
  obtain rfl := Option.some.inj h
  exact show candS _ = _ by simp (disch := decide) only [candS, candInt, fld, extract_low, extract_high, extract_all, Nat.reduceSub, BitVec.reduceToNat]

theorem shl {d a b} : Statement (.shl d a b) := by
  intro w h hw
  obtain rfl := Option.some.inj h
  exact show candS _ = _ by simp (disch := decide) only [candS, candInt, fld, extract_low, extract_high, extract_all, Nat.reduceSub, BitVec.reduceToNat]

theorem shr {d a b} : Statement (.shr d a b) := by
  intro w h hw
  obtain rfl := Option.some.inj h
  exact show candS _ = _ by simp (disch := decide) only [candS, candInt, fld, extract_low, extract_high, extract_all, Nat.reduceSub, BitVec.reduceToNat]

theorem sar {d a b} : Statement (.sar d a b) := by
  intro w h hw
  obtain rfl := Option.some.inj h
  exact show candS _ = _ by simp (disch := decide) only [candS, candInt, fld, extract_low, extract_high, extract_all, Nat.reduceSub, BitVec.reduceToNat]

theorem ror {d a b} : Statement (.ror d a b) := by
  intro w h hw
  obtain rfl := Option.some.inj h
  exact show candS _ = _ by simp (disch := decide) only [candS, candInt, fld, extract_low, extract_high, extract_all, Nat.reduceSub, BitVec.reduceToNat]

theorem min {d a b} : Statement (.min d a b) := by
  intro w h hw
  obtain rfl := Option.some.inj h
  exact show candS _ = _ by simp (disch := decide) only [candS, candInt, fld, extract_low, extract_high, extract_all, Nat.reduceSub, BitVec.reduceToNat]

theorem max {d a b} : Statement (.max d a b) := by
  intro w h hw
  obtain rfl := Option.some.inj h
  exact show candS _ = _ by simp (disch := decide) only [candS, candInt, fld, extract_low, extract_high, extract_all, Nat.reduceSub, BitVec.reduceToNat]

theorem minu {d a b} : Statement (.minu d a b) := by
  intro w h hw
  obtain rfl := Option.some.inj h
  exact show candS _ = _ by simp (disch := decide) only [candS, candInt, fld, extract_low, extract_high, extract_all, Nat.reduceSub, BitVec.reduceToNat]

theorem maxu {d a b} : Statement (.maxu d a b) := by
  intro w h hw
  obtain rfl := Option.some.inj h
  exact show candS _ = _ by simp (disch := decide) only [candS, candInt, fld, extract_low, extract_high, extract_all, Nat.reduceSub, BitVec.reduceToNat]

theorem slt {d a b} : Statement (.slt d a b) := by
  intro w h hw
  obtain rfl := Option.some.inj h
  exact show candS _ = _ by simp (disch := decide) only [candS, candInt, fld, extract_low, extract_high, extract_all, Nat.reduceSub, BitVec.reduceToNat]

theorem sltu {d a b} : Statement (.sltu d a b) := by
  intro w h hw
  obtain rfl := Option.some.inj h
  exact show candS _ = _ by simp (disch := decide) only [candS, candInt, fld, extract_low, extract_high, extract_all, Nat.reduceSub, BitVec.reduceToNat]

theorem seq {d a b} : Statement (.seq d a b) := by
  intro w h hw
  obtain rfl := Option.some.inj h
  exact show candS _ = _ by simp (disch := decide) only [candS, candInt, fld, extract_low, extract_high, extract_all, Nat.reduceSub, BitVec.reduceToNat]

theorem sne {d a b} : Statement (.sne d a b) := by
  intro w h hw
  obtain rfl := Option.some.inj h
  exact show candS _ = _ by simp (disch := decide) only [candS, candInt, fld, extract_low, extract_high, extract_all, Nat.reduceSub, BitVec.reduceToNat]

theorem addW {d a b} : Statement (.addW d a b) := by
  intro w h hw
  obtain rfl := Option.some.inj h
  exact show candS _ = _ by simp (disch := decide) only [candS, candIntW, fld, extract_low, extract_high, extract_all, Nat.reduceSub, BitVec.reduceToNat]

theorem subW {d a b} : Statement (.subW d a b) := by
  intro w h hw
  obtain rfl := Option.some.inj h
  exact show candS _ = _ by simp (disch := decide) only [candS, candIntW, fld, extract_low, extract_high, extract_all, Nat.reduceSub, BitVec.reduceToNat]

theorem mulW {d a b} : Statement (.mulW d a b) := by
  intro w h hw
  obtain rfl := Option.some.inj h
  exact show candS _ = _ by simp (disch := decide) only [candS, candIntW, fld, extract_low, extract_high, extract_all, Nat.reduceSub, BitVec.reduceToNat]

theorem mulhW {d a b} : Statement (.mulhW d a b) := by
  intro w h hw
  obtain rfl := Option.some.inj h
  exact show candS _ = _ by simp (disch := decide) only [candS, candIntW, fld, extract_low, extract_high, extract_all, Nat.reduceSub, BitVec.reduceToNat]

theorem mulhuW {d a b} : Statement (.mulhuW d a b) := by
  intro w h hw
  obtain rfl := Option.some.inj h
  exact show candS _ = _ by simp (disch := decide) only [candS, candIntW, fld, extract_low, extract_high, extract_all, Nat.reduceSub, BitVec.reduceToNat]

theorem divW {d a b} : Statement (.divW d a b) := by
  intro w h hw
  obtain rfl := Option.some.inj h
  exact show candS _ = _ by simp (disch := decide) only [candS, candIntW, fld, extract_low, extract_high, extract_all, Nat.reduceSub, BitVec.reduceToNat]

theorem divuW {d a b} : Statement (.divuW d a b) := by
  intro w h hw
  obtain rfl := Option.some.inj h
  exact show candS _ = _ by simp (disch := decide) only [candS, candIntW, fld, extract_low, extract_high, extract_all, Nat.reduceSub, BitVec.reduceToNat]

theorem remW {d a b} : Statement (.remW d a b) := by
  intro w h hw
  obtain rfl := Option.some.inj h
  exact show candS _ = _ by simp (disch := decide) only [candS, candIntW, fld, extract_low, extract_high, extract_all, Nat.reduceSub, BitVec.reduceToNat]

theorem remuW {d a b} : Statement (.remuW d a b) := by
  intro w h hw
  obtain rfl := Option.some.inj h
  exact show candS _ = _ by simp (disch := decide) only [candS, candIntW, fld, extract_low, extract_high, extract_all, Nat.reduceSub, BitVec.reduceToNat]

theorem andW {d a b} : Statement (.andW d a b) := by
  intro w h hw
  obtain rfl := Option.some.inj h
  exact show candS _ = _ by simp (disch := decide) only [candS, candIntW, fld, extract_low, extract_high, extract_all, Nat.reduceSub, BitVec.reduceToNat]

theorem orW {d a b} : Statement (.orW d a b) := by
  intro w h hw
  obtain rfl := Option.some.inj h
  exact show candS _ = _ by simp (disch := decide) only [candS, candIntW, fld, extract_low, extract_high, extract_all, Nat.reduceSub, BitVec.reduceToNat]

theorem xorW {d a b} : Statement (.xorW d a b) := by
  intro w h hw
  obtain rfl := Option.some.inj h
  exact show candS _ = _ by simp (disch := decide) only [candS, candIntW, fld, extract_low, extract_high, extract_all, Nat.reduceSub, BitVec.reduceToNat]

theorem andnW {d a b} : Statement (.andnW d a b) := by
  intro w h hw
  obtain rfl := Option.some.inj h
  exact show candS _ = _ by simp (disch := decide) only [candS, candIntW, fld, extract_low, extract_high, extract_all, Nat.reduceSub, BitVec.reduceToNat]

theorem ornW {d a b} : Statement (.ornW d a b) := by
  intro w h hw
  obtain rfl := Option.some.inj h
  exact show candS _ = _ by simp (disch := decide) only [candS, candIntW, fld, extract_low, extract_high, extract_all, Nat.reduceSub, BitVec.reduceToNat]

theorem shlW {d a b} : Statement (.shlW d a b) := by
  intro w h hw
  obtain rfl := Option.some.inj h
  exact show candS _ = _ by simp (disch := decide) only [candS, candIntW, fld, extract_low, extract_high, extract_all, Nat.reduceSub, BitVec.reduceToNat]

theorem shrW {d a b} : Statement (.shrW d a b) := by
  intro w h hw
  obtain rfl := Option.some.inj h
  exact show candS _ = _ by simp (disch := decide) only [candS, candIntW, fld, extract_low, extract_high, extract_all, Nat.reduceSub, BitVec.reduceToNat]

theorem sarW {d a b} : Statement (.sarW d a b) := by
  intro w h hw
  obtain rfl := Option.some.inj h
  exact show candS _ = _ by simp (disch := decide) only [candS, candIntW, fld, extract_low, extract_high, extract_all, Nat.reduceSub, BitVec.reduceToNat]

theorem rorW {d a b} : Statement (.rorW d a b) := by
  intro w h hw
  obtain rfl := Option.some.inj h
  exact show candS _ = _ by simp (disch := decide) only [candS, candIntW, fld, extract_low, extract_high, extract_all, Nat.reduceSub, BitVec.reduceToNat]

theorem minW {d a b} : Statement (.minW d a b) := by
  intro w h hw
  obtain rfl := Option.some.inj h
  exact show candS _ = _ by simp (disch := decide) only [candS, candIntW, fld, extract_low, extract_high, extract_all, Nat.reduceSub, BitVec.reduceToNat]

theorem maxW {d a b} : Statement (.maxW d a b) := by
  intro w h hw
  obtain rfl := Option.some.inj h
  exact show candS _ = _ by simp (disch := decide) only [candS, candIntW, fld, extract_low, extract_high, extract_all, Nat.reduceSub, BitVec.reduceToNat]

theorem minuW {d a b} : Statement (.minuW d a b) := by
  intro w h hw
  obtain rfl := Option.some.inj h
  exact show candS _ = _ by simp (disch := decide) only [candS, candIntW, fld, extract_low, extract_high, extract_all, Nat.reduceSub, BitVec.reduceToNat]

theorem maxuW {d a b} : Statement (.maxuW d a b) := by
  intro w h hw
  obtain rfl := Option.some.inj h
  exact show candS _ = _ by simp (disch := decide) only [candS, candIntW, fld, extract_low, extract_high, extract_all, Nat.reduceSub, BitVec.reduceToNat]

theorem sltW {d a b} : Statement (.sltW d a b) := by
  intro w h hw
  obtain rfl := Option.some.inj h
  exact show candS _ = _ by simp (disch := decide) only [candS, candIntW, fld, extract_low, extract_high, extract_all, Nat.reduceSub, BitVec.reduceToNat]

theorem sltuW {d a b} : Statement (.sltuW d a b) := by
  intro w h hw
  obtain rfl := Option.some.inj h
  exact show candS _ = _ by simp (disch := decide) only [candS, candIntW, fld, extract_low, extract_high, extract_all, Nat.reduceSub, BitVec.reduceToNat]

theorem seqW {d a b} : Statement (.seqW d a b) := by
  intro w h hw
  obtain rfl := Option.some.inj h
  exact show candS _ = _ by simp (disch := decide) only [candS, candIntW, fld, extract_low, extract_high, extract_all, Nat.reduceSub, BitVec.reduceToNat]

theorem sneW {d a b} : Statement (.sneW d a b) := by
  intro w h hw
  obtain rfl := Option.some.inj h
  exact show candS _ = _ by simp (disch := decide) only [candS, candIntW, fld, extract_low, extract_high, extract_all, Nat.reduceSub, BitVec.reduceToNat]

theorem addi {d a i} : Statement (.addi d a i) := by
  intro w h hw
  obtain rfl := Option.some.inj h
  exact show candS _ = _ by simp (disch := decide) only [candS, fld, extract_low, extract_high, extract_all, Nat.reduceSub, BitVec.reduceToNat]

theorem andi {d a i} : Statement (.andi d a i) := by
  intro w h hw
  obtain rfl := Option.some.inj h
  exact show candS _ = _ by simp (disch := decide) only [candS, fld, extract_low, extract_high, extract_all, Nat.reduceSub, BitVec.reduceToNat]

theorem ori {d a i} : Statement (.ori d a i) := by
  intro w h hw
  obtain rfl := Option.some.inj h
  exact show candS _ = _ by simp (disch := decide) only [candS, fld, extract_low, extract_high, extract_all, Nat.reduceSub, BitVec.reduceToNat]

theorem xori {d a i} : Statement (.xori d a i) := by
  intro w h hw
  obtain rfl := Option.some.inj h
  exact show candS _ = _ by simp (disch := decide) only [candS, fld, extract_low, extract_high, extract_all, Nat.reduceSub, BitVec.reduceToNat]

theorem shli {d a k} : Statement (.shli d a k) := by
  intro w h hw
  obtain rfl := Option.some.inj h
  exact show candS _ = _ by simp (disch := decide) only [candS, fld, extract_low, extract_high, extract_all, Nat.reduceSub, BitVec.reduceToNat]

theorem shri {d a k} : Statement (.shri d a k) := by
  intro w h hw
  obtain rfl := Option.some.inj h
  exact show candS _ = _ by simp (disch := decide) only [candS, fld, extract_low, extract_high, extract_all, Nat.reduceSub, BitVec.reduceToNat]

theorem sari {d a k} : Statement (.sari d a k) := by
  intro w h hw
  obtain rfl := Option.some.inj h
  exact show candS _ = _ by simp (disch := decide) only [candS, fld, extract_low, extract_high, extract_all, Nat.reduceSub, BitVec.reduceToNat]

theorem rori {d a k} : Statement (.rori d a k) := by
  intro w h hw
  obtain rfl := Option.some.inj h
  exact show candS _ = _ by simp (disch := decide) only [candS, fld, extract_low, extract_high, extract_all, Nat.reduceSub, BitVec.reduceToNat]

theorem slti {d a i} : Statement (.slti d a i) := by
  intro w h hw
  obtain rfl := Option.some.inj h
  exact show candS _ = _ by simp (disch := decide) only [candS, fld, extract_low, extract_high, extract_all, Nat.reduceSub, BitVec.reduceToNat]

theorem sltui {d a i} : Statement (.sltui d a i) := by
  intro w h hw
  obtain rfl := Option.some.inj h
  exact show candS _ = _ by simp (disch := decide) only [candS, fld, extract_low, extract_high, extract_all, Nat.reduceSub, BitVec.reduceToNat]

theorem muli {d a i} : Statement (.muli d a i) := by
  intro w h hw
  obtain rfl := Option.some.inj h
  exact show candS _ = _ by simp (disch := decide) only [candS, fld, extract_low, extract_high, extract_all, Nat.reduceSub, BitVec.reduceToNat]

theorem imm {d i} : Statement (.imm d i) := by
  intro w h hw
  obtain rfl := Option.some.inj h
  exact show candS _ = _ by simp (disch := decide) only [candS, fld, extract_low, extract_high, extract_all, Nat.reduceSub, BitVec.reduceToNat]

theorem immh {d i} : Statement (.immh d i) := by
  intro w h hw
  obtain rfl := Option.some.inj h
  exact show candS _ = _ by simp (disch := decide) only [candS, fld, extract_low, extract_high, extract_all, Nat.reduceSub, BitVec.reduceToNat]

theorem immt {d i} : Statement (.immt d i) := by
  intro w h hw
  obtain rfl := Option.some.inj h
  exact show candS _ = _ by simp (disch := decide) only [candS, fld, extract_low, extract_high, extract_all, Nat.reduceSub, BitVec.reduceToNat]

theorem clz {d a} : Statement (.clz d a) := by
  intro w h hw
  obtain rfl := Option.some.inj h
  exact show candS _ = _ by simp (disch := decide) only [candS, candBitu, fld, extract_low, extract_high, extract_all, Nat.reduceSub, BitVec.reduceToNat, BitVec.reduceExtractLsb']

theorem ctz {d a} : Statement (.ctz d a) := by
  intro w h hw
  obtain rfl := Option.some.inj h
  exact show candS _ = _ by simp (disch := decide) only [candS, candBitu, fld, extract_low, extract_high, extract_all, Nat.reduceSub, BitVec.reduceToNat, BitVec.reduceExtractLsb']

theorem popc {d a} : Statement (.popc d a) := by
  intro w h hw
  obtain rfl := Option.some.inj h
  exact show candS _ = _ by simp (disch := decide) only [candS, candBitu, fld, extract_low, extract_high, extract_all, Nat.reduceSub, BitVec.reduceToNat, BitVec.reduceExtractLsb']

theorem brev {d a} : Statement (.brev d a) := by
  intro w h hw
  obtain rfl := Option.some.inj h
  exact show candS _ = _ by simp (disch := decide) only [candS, candBitu, fld, extract_low, extract_high, extract_all, Nat.reduceSub, BitVec.reduceToNat, BitVec.reduceExtractLsb']

theorem bswap {d a} : Statement (.bswap d a) := by
  intro w h hw
  obtain rfl := Option.some.inj h
  exact show candS _ = _ by simp (disch := decide) only [candS, candBitu, fld, extract_low, extract_high, extract_all, Nat.reduceSub, BitVec.reduceToNat, BitVec.reduceExtractLsb']

theorem bset {d a b} : Statement (.bset d a b) := by
  intro w h hw
  obtain rfl := Option.some.inj h
  exact show candS _ = _ by simp (disch := decide) only [candS, candBitu, fld, extract_low, extract_high, extract_all, Nat.reduceSub, BitVec.reduceToNat]

theorem bclr {d a b} : Statement (.bclr d a b) := by
  intro w h hw
  obtain rfl := Option.some.inj h
  exact show candS _ = _ by simp (disch := decide) only [candS, candBitu, fld, extract_low, extract_high, extract_all, Nat.reduceSub, BitVec.reduceToNat]

theorem bext {d a o w1} : Statement (.bext d a o w1) := by
  intro w h hw
  obtain rfl := Option.some.inj h
  exact show candS _ = _ by simp (disch := decide) only [candS, candBf, fld, extract_low, extract_high, extract_all, Nat.reduceSub, BitVec.reduceToNat]

theorem bextu {d a o w1} : Statement (.bextu d a o w1) := by
  intro w h hw
  obtain rfl := Option.some.inj h
  exact show candS _ = _ by simp (disch := decide) only [candS, candBf, fld, extract_low, extract_high, extract_all, Nat.reduceSub, BitVec.reduceToNat]

theorem bins {d a o w1} : Statement (.bins d a o w1) := by
  intro w h hw
  obtain rfl := Option.some.inj h
  exact show candS _ = _ by simp (disch := decide) only [candS, candBf, fld, extract_low, extract_high, extract_all, Nat.reduceSub, BitVec.reduceToNat]

theorem lea {d a b s1 i} : Statement (.lea d a b s1 i) := by
  intro w h hw
  obtain rfl := Option.some.inj h
  exact show candS _ = _ by simp (disch := decide) only [candS, fld, extract_low, extract_high, extract_all, Nat.reduceSub, BitVec.reduceToNat]

theorem sel {d a b} : Statement (.sel d a b) := by
  intro w h hw
  obtain rfl := Option.some.inj h
  exact show candS _ = _ by simp (disch := decide) only [candS, candSelp, fld, extract_low, extract_high, extract_all, Nat.reduceSub, BitVec.reduceToNat]

theorem part {d a b} : Statement (.part d a b) := by
  intro w h hw
  obtain rfl := Option.some.inj h
  exact show candS _ = _ by simp (disch := decide) only [candS, candSelp, fld, extract_low, extract_high, extract_all, Nat.reduceSub, BitVec.reduceToNat]

theorem coord {d l} : Statement (.coord d l) := by
  intro w h hw
  obtain rfl := Option.some.inj h
  exact show candS _ = _ by simp (disch := decide) only [candS, candSelp, fld, extract_low, extract_high, extract_all, Nat.reduceSub, BitVec.reduceToNat, BitVec.reduceExtractLsb']

theorem beq {a b i} : Statement (.beq a b i) := by
  intro w h hw
  obtain rfl := Option.some.inj h
  exact show candS _ = _ by simp (disch := decide) only [candS, fld, extract_low, extract_high, extract_all, Nat.reduceSub, BitVec.reduceToNat]

theorem bne {a b i} : Statement (.bne a b i) := by
  intro w h hw
  obtain rfl := Option.some.inj h
  exact show candS _ = _ by simp (disch := decide) only [candS, fld, extract_low, extract_high, extract_all, Nat.reduceSub, BitVec.reduceToNat]

theorem blt {a b i} : Statement (.blt a b i) := by
  intro w h hw
  obtain rfl := Option.some.inj h
  exact show candS _ = _ by simp (disch := decide) only [candS, fld, extract_low, extract_high, extract_all, Nat.reduceSub, BitVec.reduceToNat]

theorem bge {a b i} : Statement (.bge a b i) := by
  intro w h hw
  obtain rfl := Option.some.inj h
  exact show candS _ = _ by simp (disch := decide) only [candS, fld, extract_low, extract_high, extract_all, Nat.reduceSub, BitVec.reduceToNat]

theorem bltu {a b i} : Statement (.bltu a b i) := by
  intro w h hw
  obtain rfl := Option.some.inj h
  exact show candS _ = _ by simp (disch := decide) only [candS, fld, extract_low, extract_high, extract_all, Nat.reduceSub, BitVec.reduceToNat]

theorem bgeu {a b i} : Statement (.bgeu a b i) := by
  intro w h hw
  obtain rfl := Option.some.inj h
  exact show candS _ = _ by simp (disch := decide) only [candS, fld, extract_low, extract_high, extract_all, Nat.reduceSub, BitVec.reduceToNat]

theorem loop {a i} : Statement (.loop a i) := by
  intro w h hw
  obtain rfl := Option.some.inj h
  exact show candS _ = _ by simp (disch := decide) only [candS, fld, extract_low, extract_high, extract_all, Nat.reduceSub, BitVec.reduceToNat]

theorem jmp {i} : Statement (.jmp i) := by
  intro w h hw
  obtain rfl := Option.some.inj h
  exact show candS _ = _ by simp (disch := decide) only [candS, fld, extract_low, extract_high, extract_all, Nat.reduceSub, BitVec.reduceToNat]

theorem jal {i} : Statement (.jal i) := by
  intro w h hw
  obtain rfl := Option.some.inj h
  exact show candS _ = _ by simp (disch := decide) only [candS, fld, extract_low, extract_high, extract_all, Nat.reduceSub, BitVec.reduceToNat]

theorem jr {d a} : Statement (.jr d a) := by
  intro w h hw
  obtain rfl := Option.some.inj h
  exact show candS _ = _ by simp (disch := decide) only [candS, fld, extract_low, extract_high, extract_all, Nat.reduceSub, BitVec.reduceToNat]

theorem ld {d a i m} : Statement (.ld d a i m) := by
  intro w h hw
  obtain rfl := Option.some.inj h
  exact show candS _ = _ by simp (disch := decide) only [candS, fld, extract_low, extract_high, extract_all, Nat.reduceSub, BitVec.reduceToNat]

theorem ldU {d a i m} : Statement (.ldU d a i m) := by
  intro w h hw
  obtain rfl := Option.some.inj h
  exact show candS _ = _ by simp (disch := decide) only [candS, fld, extract_low, extract_high, extract_all, Nat.reduceSub, BitVec.reduceToNat]

theorem st {t a i m} : Statement (.st t a i m) := by
  intro w h hw
  obtain rfl := Option.some.inj h
  exact show candS _ = _ by simp (disch := decide) only [candS, fld, extract_low, extract_high, extract_all, Nat.reduceSub, BitVec.reduceToNat]

theorem ldx {d a b z u} : Statement (.ldx d a b z u) := by
  intro w h hw
  obtain rfl := Option.some.inj h
  exact show candS _ = _ by simp (disch := decide) only [candS, candLsx, fld, extract_low, extract_high, extract_all, Nat.reduceSub, BitVec.reduceToNat, BitVec.reduceExtractLsb']

theorem stx {t a b z} : Statement (.stx t a b z) := by
  intro w h hw
  obtain rfl := Option.some.inj h
  exact show candS _ = _ by simp (disch := decide) only [candS, candLsx, fld, extract_low, extract_high, extract_all, Nat.reduceSub, BitVec.reduceToNat, BitVec.reduceExtractLsb']

theorem lds {d a i} : Statement (.lds d a i) := by
  intro w h hw
  obtain rfl := Option.some.inj h
  exact show candS _ = _ by simp (disch := decide) only [candS, fld, extract_low, extract_high, extract_all, Nat.reduceSub, BitVec.reduceToNat]

theorem ldc {d a i} : Statement (.ldc d a i) := by
  intro w h hw
  obtain rfl := Option.some.inj h
  exact show candS _ = _ by simp (disch := decide) only [candS, fld, extract_low, extract_high, extract_all, Nat.reduceSub, BitVec.reduceToNat]

theorem stf {t a i} : Statement (.stf t a i) := by
  intro w h hw
  obtain rfl := Option.some.inj h
  exact show candS _ = _ by simp (disch := decide) only [candS, fld, extract_low, extract_high, extract_all, Nat.reduceSub, BitVec.reduceToNat]

theorem feset {a} : Statement (.feset a) := by
  intro w h hw
  obtain rfl := Option.some.inj h
  exact show candS _ = _ by simp (disch := decide) only [candS, candFeop, fld, extract_low, extract_high, extract_all, Nat.reduceSub, BitVec.reduceToNat, BitVec.reduceExtractLsb']

theorem feclr {a} : Statement (.feclr a) := by
  intro w h hw
  obtain rfl := Option.some.inj h
  exact show candS _ = _ by simp (disch := decide) only [candS, candFeop, fld, extract_low, extract_high, extract_all, Nat.reduceSub, BitVec.reduceToNat, BitVec.reduceExtractLsb']

theorem fetst {d a} : Statement (.fetst d a) := by
  intro w h hw
  obtain rfl := Option.some.inj h
  exact show candS _ = _ by simp (disch := decide) only [candS, candFeop, fld, extract_low, extract_high, extract_all, Nat.reduceSub, BitVec.reduceToNat, BitVec.reduceExtractLsb']

theorem amo {d a b o z c} : Statement (.amo d a b o z c) := by
  intro w h hw
  obtain rfl := Option.some.inj h
  exact show candS _ = _ by simp (disch := decide) only [candS, fld, extract_low, extract_high, extract_all, Nat.reduceSub, BitVec.reduceToNat]

theorem cas {d a b z} : Statement (.cas d a b z) := by
  intro w h hw
  obtain rfl := Option.some.inj h
  exact show candS _ = _ by simp (disch := decide) only [candS, fld, extract_low, extract_high, extract_all, Nat.reduceSub, BitVec.reduceToNat]

theorem famo {d a b o p} : Statement (.famo d a b o p) := by
  intro w h hw
  obtain rfl := Option.some.inj h
  exact show candS _ = _ by simp (disch := decide) only [candS, fld, extract_low, extract_high, extract_all, Nat.reduceSub, BitVec.reduceToNat]

theorem lock {d a} : Statement (.lock d a) := by
  intro w h hw
  obtain rfl := Option.some.inj h
  exact show candS _ = _ by simp (disch := decide) only [candS, candLockop, fld, extract_low, extract_high, extract_all, Nat.reduceSub, BitVec.reduceToNat, BitVec.reduceExtractLsb']

theorem unlk {d a} : Statement (.unlk d a) := by
  intro w h hw
  obtain rfl := Option.some.inj h
  exact show candS _ = _ by simp (disch := decide) only [candS, candLockop, fld, extract_low, extract_high, extract_all, Nat.reduceSub, BitVec.reduceToNat, BitVec.reduceExtractLsb']

theorem fence {f} : Statement (.fence f) := by
  intro w h hw
  obtain rfl := Option.some.inj h
  have hf : (0#5 ++ f : BitVec 8) ≠ 8#8 := by revert f; decide
  exact show candS _ = _ by simp (disch := decide) only [candS, candOrd, fld, extract_low, extract_high, extract_all, Nat.reduceSub, BitVec.reduceToNat, BitVec.reduceExtractLsb']; exact if_neg hf

theorem pfx {f} : Statement (.pfx f) := by
  intro w h hw
  obtain rfl := Option.some.inj h
  exact show candS _ = _ by simp (disch := decide) only [candS, fld, extract_low, extract_high, extract_all, Nat.reduceSub, BitVec.reduceToNat]

theorem trap {c} : Statement (.trap c) := by
  intro w h hw
  obtain rfl := Option.some.inj h
  exact show candS _ = _ by simp (disch := decide) only [candS, candSys, fld, extract_low, extract_high, extract_all, Nat.reduceSub, BitVec.reduceToNat, BitVec.reduceExtractLsb']

theorem time {d} : Statement (.time d) := by
  intro w h hw
  obtain rfl := Option.some.inj h
  exact show candS _ = _ by simp (disch := decide) only [candS, candSys, fld, extract_low, extract_high, extract_all, Nat.reduceSub, BitVec.reduceToNat, BitVec.reduceExtractLsb']

theorem cyc {d} : Statement (.cyc d) := by
  intro w h hw
  obtain rfl := Option.some.inj h
  exact show candS _ = _ by simp (disch := decide) only [candS, candSys, fld, extract_low, extract_high, extract_all, Nat.reduceSub, BitVec.reduceToNat, BitVec.reduceExtractLsb']

theorem launch {d a} : Statement (.launch d a) := by
  intro w h hw
  obtain rfl := Option.some.inj h
  exact show candS _ = _ by simp (disch := decide) only [candS, candSys, fld, extract_low, extract_high, extract_all, Nat.reduceSub, BitVec.reduceToNat, BitVec.reduceExtractLsb']

theorem crd {d n} : Statement (.crd d n) := by
  intro w h hw
  obtain rfl := Option.some.inj h
  exact show candS _ = _ by simp (disch := decide) only [candS, candCreg, fld, extract_low, extract_high, extract_all, Nat.reduceSub, BitVec.reduceToNat]

theorem cwr {a n} : Statement (.cwr a n) := by
  intro w h hw
  obtain rfl := Option.some.inj h
  exact show candS _ = _ by simp (disch := decide) only [candS, candCreg, fld, extract_low, extract_high, extract_all, Nat.reduceSub, BitVec.reduceToNat, BitVec.reduceExtractLsb']

theorem cswp {d a n} : Statement (.cswp d a n) := by
  intro w h hw
  obtain rfl := Option.some.inj h
  exact show candS _ = _ by simp (disch := decide) only [candS, candCreg, fld, extract_low, extract_high, extract_all, Nat.reduceSub, BitVec.reduceToNat]

theorem tnext {d a} : Statement (.tnext d a) := by
  intro w h hw
  obtain rfl := Option.some.inj h
  exact show candS _ = _ by simp (disch := decide) only [candS, candTask, fld, extract_low, extract_high, extract_all, Nat.reduceSub, BitVec.reduceToNat, BitVec.reduceExtractLsb']

theorem tpost {d a b} : Statement (.tpost d a b) := by
  intro w h hw
  obtain rfl := Option.some.inj h
  exact show candS _ = _ by simp (disch := decide) only [candS, candTask, fld, extract_low, extract_high, extract_all, Nat.reduceSub, BitVec.reduceToNat]

theorem send {r a b} : Statement (.send r a b) := by
  intro w h hw
  obtain rfl := Option.some.inj h
  exact show candS _ = _ by simp (disch := decide) only [candS, candTask, fld, extract_low, extract_high, extract_all, Nat.reduceSub, BitVec.reduceToNat]

theorem epid {d a} : Statement (.epid d a) := by
  intro w h hw
  obtain rfl := Option.some.inj h
  exact show candS _ = _ by simp (disch := decide) only [candS, candTask, fld, extract_low, extract_high, extract_all, Nat.reduceSub, BitVec.reduceToNat, BitVec.reduceExtractLsb']

theorem mig {a} : Statement (.mig a) := by
  intro w h hw
  obtain rfl := Option.some.inj h
  exact show candS _ = _ by simp (disch := decide) only [candS, candTask, fld, extract_low, extract_high, extract_all, Nat.reduceSub, BitVec.reduceToNat, BitVec.reduceExtractLsb']

theorem qbind {r a b} : Statement (.qbind r a b) := by
  intro w h hw
  obtain rfl := Option.some.inj h
  exact show candS _ = _ by simp (disch := decide) only [candS, candTask, fld, extract_low, extract_high, extract_all, Nat.reduceSub, BitVec.reduceToNat]

theorem lwait {d a} : Statement (.lwait d a) := by
  intro w h hw
  obtain rfl := Option.some.inj h
  exact show candS _ = _ by simp (disch := decide) only [candS, candTask, fld, extract_low, extract_high, extract_all, Nat.reduceSub, BitVec.reduceToNat, BitVec.reduceExtractLsb']

theorem fadd {d a b w1} : Statement (.fadd d a b w1) := by
  intro w h hw
  obtain rfl := Option.some.inj h
  exact show candS _ = _ by simp (disch := decide) only [candS, candFp, fld, extract_low, extract_high, extract_all, Nat.reduceSub, BitVec.reduceToNat]

theorem fsub {d a b w1} : Statement (.fsub d a b w1) := by
  intro w h hw
  obtain rfl := Option.some.inj h
  exact show candS _ = _ by simp (disch := decide) only [candS, candFp, fld, extract_low, extract_high, extract_all, Nat.reduceSub, BitVec.reduceToNat]

theorem fmul {d a b w1} : Statement (.fmul d a b w1) := by
  intro w h hw
  obtain rfl := Option.some.inj h
  exact show candS _ = _ by simp (disch := decide) only [candS, candFp, fld, extract_low, extract_high, extract_all, Nat.reduceSub, BitVec.reduceToNat]

theorem fdiv {d a b w1} : Statement (.fdiv d a b w1) := by
  intro w h hw
  obtain rfl := Option.some.inj h
  exact show candS _ = _ by simp (disch := decide) only [candS, candFp, fld, extract_low, extract_high, extract_all, Nat.reduceSub, BitVec.reduceToNat]

theorem fma {d a b w1 v} : Statement (.fma d a b w1 v) := by
  intro w h hw
  obtain rfl := Option.some.inj h
  exact show candS _ = _ by simp (disch := decide) only [candS, candFp, fld, extract_low, extract_high, extract_all, Nat.reduceSub, BitVec.reduceToNat]

theorem fsqrt {d a w1} : Statement (.fsqrt d a w1) := by
  intro w h hw
  obtain rfl := Option.some.inj h
  exact show candS _ = _ by simp (disch := decide) only [candS, candFp, fld, extract_low, extract_high, extract_all, Nat.reduceSub, BitVec.reduceToNat, BitVec.reduceExtractLsb']

theorem fmin {d a b w1} : Statement (.fmin d a b w1) := by
  intro w h hw
  obtain rfl := Option.some.inj h
  exact show candS _ = _ by simp (disch := decide) only [candS, candFp, fld, extract_low, extract_high, extract_all, Nat.reduceSub, BitVec.reduceToNat]

theorem fmax {d a b w1} : Statement (.fmax d a b w1) := by
  intro w h hw
  obtain rfl := Option.some.inj h
  exact show candS _ = _ by simp (disch := decide) only [candS, candFp, fld, extract_low, extract_high, extract_all, Nat.reduceSub, BitVec.reduceToNat]

theorem fcmp {d a b w1 c} : Statement (.fcmp d a b w1 c) := by
  intro w h hw
  obtain rfl := Option.some.inj h
  exact show candS _ = _ by simp (disch := decide) only [candS, candFp, fld, extract_low, extract_high, extract_all, Nat.reduceSub, BitVec.reduceToNat]

theorem fcvt {d a w1 v} : Statement (.fcvt d a w1 v) := by
  intro w h hw
  obtain rfl := Option.some.inj h
  exact show candS _ = _ by simp (disch := decide) only [candS, candFp, fld, extract_low, extract_high, extract_all, Nat.reduceSub, BitVec.reduceToNat, BitVec.reduceExtractLsb']

theorem fclass {d a w1} : Statement (.fclass d a w1) := by
  intro w h hw
  obtain rfl := Option.some.inj h
  exact show candS _ = _ by simp (disch := decide) only [candS, candFp, fld, extract_low, extract_high, extract_all, Nat.reduceSub, BitVec.reduceToNat, BitVec.reduceExtractLsb']

theorem fsgn {d a b w1 v} : Statement (.fsgn d a b w1 v) := by
  intro w h hw
  obtain rfl := Option.some.inj h
  exact show candS _ = _ by simp (disch := decide) only [candS, candFp, fld, extract_low, extract_high, extract_all, Nat.reduceSub, BitVec.reduceToNat]

theorem qnum {d a w1} : Statement (.qnum d a w1) := by
  intro w h hw
  obtain rfl := Option.some.inj h
  exact show candS _ = _ by simp (disch := decide) only [candS, candQop, fld, extract_low, extract_high, extract_all, Nat.reduceSub, BitVec.reduceToNat, BitVec.reduceExtractLsb']

theorem qden {d a w1} : Statement (.qden d a w1) := by
  intro w h hw
  obtain rfl := Option.some.inj h
  exact show candS _ = _ by simp (disch := decide) only [candS, candQop, fld, extract_low, extract_high, extract_all, Nat.reduceSub, BitVec.reduceToNat, BitVec.reduceExtractLsb']

theorem qmake {d a b w1} : Statement (.qmake d a b w1) := by
  intro w h hw
  obtain rfl := Option.some.inj h
  exact show candS _ = _ by simp (disch := decide) only [candS, candQop, fld, extract_low, extract_high, extract_all, Nat.reduceSub, BitVec.reduceToNat, BitVec.reduceExtractLsb']

theorem qgcd {d a b} : Statement (.qgcd d a b) := by
  intro w h hw
  obtain rfl := Option.some.inj h
  exact show candS _ = _ by simp (disch := decide) only [candS, candQop, fld, extract_low, extract_high, extract_all, Nat.reduceSub, BitVec.reduceToNat, BitVec.reduceExtractLsb']

theorem qbnd {d a b w1} : Statement (.qbnd d a b w1) := by
  intro w h hw
  obtain rfl := Option.some.inj h
  exact show candS _ = _ by simp (disch := decide) only [candS, candQop, fld, extract_low, extract_high, extract_all, Nat.reduceSub, BitVec.reduceToNat, BitVec.reduceExtractLsb']

theorem padd {d a b s1} : Statement (.padd d a b s1) := by
  intro w h hw
  obtain rfl := Option.some.inj h
  exact show candS _ = _ by simp (disch := decide) only [candS, candPack, fld, extract_low, extract_high, extract_all, Nat.reduceSub, BitVec.reduceToNat]

theorem psub {d a b s1} : Statement (.psub d a b s1) := by
  intro w h hw
  obtain rfl := Option.some.inj h
  exact show candS _ = _ by simp (disch := decide) only [candS, candPack, fld, extract_low, extract_high, extract_all, Nat.reduceSub, BitVec.reduceToNat]

theorem pmul {d a b s1} : Statement (.pmul d a b s1) := by
  intro w h hw
  obtain rfl := Option.some.inj h
  exact show candS _ = _ by simp (disch := decide) only [candS, candPack, fld, extract_low, extract_high, extract_all, Nat.reduceSub, BitVec.reduceToNat]

theorem pmax {d a b s1} : Statement (.pmax d a b s1) := by
  intro w h hw
  obtain rfl := Option.some.inj h
  exact show candS _ = _ by simp (disch := decide) only [candS, candPack, fld, extract_low, extract_high, extract_all, Nat.reduceSub, BitVec.reduceToNat]

theorem pmin {d a b s1} : Statement (.pmin d a b s1) := by
  intro w h hw
  obtain rfl := Option.some.inj h
  exact show candS _ = _ by simp (disch := decide) only [candS, candPack, fld, extract_low, extract_high, extract_all, Nat.reduceSub, BitVec.reduceToNat]

theorem pdot {d a b s1} : Statement (.pdot d a b s1) := by
  intro w h hw
  obtain rfl := Option.some.inj h
  exact show candS _ = _ by simp (disch := decide) only [candS, candPack, fld, extract_low, extract_high, extract_all, Nat.reduceSub, BitVec.reduceToNat]

theorem pcdot {d a b s1} : Statement (.pcdot d a b s1) := by
  intro w h hw
  obtain rfl := Option.some.inj h
  exact show candS _ = _ by simp (disch := decide) only [candS, candPack, fld, extract_low, extract_high, extract_all, Nat.reduceSub, BitVec.reduceToNat]

theorem pcvt {d a b s1} : Statement (.pcvt d a b s1) := by
  intro w h hw
  obtain rfl := Option.some.inj h
  exact show candS _ = _ by simp (disch := decide) only [candS, candPack, fld, extract_low, extract_high, extract_all, Nat.reduceSub, BitVec.reduceToNat]

theorem vld {v a k} : Statement (.vld v a k) := by
  intro w h hw
  obtain rfl := Option.some.inj h
  exact show candS _ = _ by simp (disch := decide) only [candS, candVmem, fld, extract_low, extract_high, extract_all, Nat.reduceSub, BitVec.reduceToNat, BitVec.reduceExtractLsb']

theorem vst {v a k} : Statement (.vst v a k) := by
  intro w h hw
  obtain rfl := Option.some.inj h
  exact show candS _ = _ by simp (disch := decide) only [candS, candVmem, fld, extract_low, extract_high, extract_all, Nat.reduceSub, BitVec.reduceToNat, BitVec.reduceExtractLsb']

theorem vlds {v a b k z} : Statement (.vlds v a b k z) := by
  intro w h hw
  obtain rfl := Option.some.inj h
  exact show candS _ = _ by simp (disch := decide) only [candS, candVmem, fld, extract_low, extract_high, extract_all, Nat.reduceSub, BitVec.reduceToNat]

theorem vsts {v a b k z} : Statement (.vsts v a b k z) := by
  intro w h hw
  obtain rfl := Option.some.inj h
  exact show candS _ = _ by simp (disch := decide) only [candS, candVmem, fld, extract_low, extract_high, extract_all, Nat.reduceSub, BitVec.reduceToNat]

theorem vgth {v a x k z} : Statement (.vgth v a x k z) := by
  intro w h hw
  obtain rfl := Option.some.inj h
  exact show candS _ = _ by simp (disch := decide) only [candS, candVmem, fld, extract_low, extract_high, extract_all, Nat.reduceSub, BitVec.reduceToNat]

theorem vsct {v a x k z} : Statement (.vsct v a x k z) := by
  intro w h hw
  obtain rfl := Option.some.inj h
  exact show candS _ = _ by simp (disch := decide) only [candS, candVmem, fld, extract_low, extract_high, extract_all, Nat.reduceSub, BitVec.reduceToNat]

theorem cpy {d a b h1 f c} : Statement (.cpy d a b h1 f c) := by
  intro w h hw
  obtain rfl := Option.some.inj h
  exact show candS _ = _ by simp (disch := decide) only [candS, candCopy, fld, extract_low, extract_high, extract_all, Nat.reduceSub, BitVec.reduceToNat]

theorem cpw {d a} : Statement (.cpw d a) := by
  intro w h hw
  obtain rfl := Option.some.inj h
  exact show candS _ = _ by simp (disch := decide) only [candS, candCopy, fld, extract_low, extract_high, extract_all, Nat.reduceSub, BitVec.reduceToNat, BitVec.reduceExtractLsb']

theorem cpq {d a} : Statement (.cpq d a) := by
  intro w h hw
  obtain rfl := Option.some.inj h
  exact show candS _ = _ by simp (disch := decide) only [candS, candCopy, fld, extract_low, extract_high, extract_all, Nat.reduceSub, BitVec.reduceToNat, BitVec.reduceExtractLsb']

theorem sbind {d a s1} : Statement (.sbind d a s1) := by
  intro w h hw
  obtain rfl := Option.some.inj h
  exact show candS _ = _ by simp (disch := decide) only [candS, candCopy, fld, extract_low, extract_high, extract_all, Nat.reduceSub, BitVec.reduceToNat, BitVec.reduceExtractLsb']

theorem tseal {d a} : Statement (.tseal d a) := by
  intro w h hw
  obtain rfl := Option.some.inj h
  exact show candS _ = _ by simp (disch := decide) only [candS, candCopy, fld, extract_low, extract_high, extract_all, Nat.reduceSub, BitVec.reduceToNat, BitVec.reduceExtractLsb']

theorem tfree {d a} : Statement (.tfree d a) := by
  intro w h hw
  obtain rfl := Option.some.inj h
  exact show candS _ = _ by simp (disch := decide) only [candS, candCopy, fld, extract_low, extract_high, extract_all, Nat.reduceSub, BitVec.reduceToNat, BitVec.reduceExtractLsb']

theorem hmovToH {a h1} : Statement (.hmovToH a h1) := by
  intro w h hw
  obtain rfl := Option.some.inj h
  exact show candS _ = _ by simp (disch := decide) only [candS, candCopy, fld, extract_low, extract_high, extract_all, Nat.reduceSub, BitVec.reduceToNat, BitVec.reduceExtractLsb', if_true]

theorem hmovFromH {d h1} : Statement (.hmovFromH d h1) := by
  intro w h hw
  obtain rfl := Option.some.inj h
  exact show candS _ = _ by simp (disch := decide) only [candS, candCopy, fld, extract_low, extract_high, extract_all, Nat.reduceSub, BitVec.reduceToNat, BitVec.reduceExtractLsb']; exact if_neg (by simpa [Instr.wf] using hw)

theorem mslot {d w1} : Statement (.mslot d w1) := by
  intro w h hw
  obtain rfl := Option.some.inj h
  exact show candS _ = _ by simp (disch := decide) only [candS, candMat, fld, extract_low, extract_high, extract_all, Nat.reduceSub, BitVec.reduceToNat, BitVec.reduceExtractLsb']

theorem mfree {a} : Statement (.mfree a) := by
  intro w h hw
  obtain rfl := Option.some.inj h
  exact show candS _ = _ by simp (disch := decide) only [candS, candMat, fld, extract_low, extract_high, extract_all, Nat.reduceSub, BitVec.reduceToNat, BitVec.reduceExtractLsb']

theorem mlda {d a b h1} : Statement (.mlda d a b h1) := by
  intro w h hw
  obtain rfl := Option.some.inj h
  exact show candS _ = _ by simp (disch := decide) only [candS, candMat, fld, extract_low, extract_high, extract_all, Nat.reduceSub, BitVec.reduceToNat, BitVec.reduceExtractLsb']

theorem mma {a b t j} : Statement (.mma a b t j) := by
  intro w h hw
  obtain rfl := Option.some.inj h
  exact show candS _ = _ by simp (disch := decide) only [candS, candMat, fld, extract_low, extract_high, extract_all, Nat.reduceSub, BitVec.reduceToNat, BitVec.reduceExtractLsb']

theorem mcfg {d a t} : Statement (.mcfg d a t) := by
  intro w h hw
  obtain rfl := Option.some.inj h
  exact show candS _ = _ by simp (disch := decide) only [candS, candMat, fld, extract_low, extract_high, extract_all, Nat.reduceSub, BitVec.reduceToNat, BitVec.reduceExtractLsb']

theorem mzero {t} : Statement (.mzero t) := by
  intro w h hw
  obtain rfl := Option.some.inj h
  exact show candS _ = _ by simp (disch := decide) only [candS, candMat, fld, extract_low, extract_high, extract_all, Nat.reduceSub, BitVec.reduceToNat, BitVec.reduceExtractLsb']

theorem msta {d a t h1} : Statement (.msta d a t h1) := by
  intro w h hw
  obtain rfl := Option.some.inj h
  exact show candS _ = _ by simp (disch := decide) only [candS, candMat, fld, extract_low, extract_high, extract_all, Nat.reduceSub, BitVec.reduceToNat, BitVec.reduceExtractLsb']

theorem jopen {d a} : Statement (.jopen d a) := by
  intro w h hw
  obtain rfl := Option.some.inj h
  exact show candS _ = _ by simp (disch := decide) only [candS, candKey, fld, extract_low, extract_high, extract_all, Nat.reduceSub, BitVec.reduceToNat, BitVec.reduceExtractLsb']

theorem jbind {d a t} : Statement (.jbind d a t) := by
  intro w h hw
  obtain rfl := Option.some.inj h
  exact show candS _ = _ by simp (disch := decide) only [candS, candKey, fld, extract_low, extract_high, extract_all, Nat.reduceSub, BitVec.reduceToNat, BitVec.reduceExtractLsb']

theorem jarr {d a b v} : Statement (.jarr d a b v) := by
  intro w h hw
  obtain rfl := Option.some.inj h
  exact show candS _ = _ by simp (disch := decide) only [candS, candKey, fld, extract_low, extract_high, extract_all, Nat.reduceSub, BitVec.reduceToNat, BitVec.reduceExtractLsb']

theorem jwait {d a s1} : Statement (.jwait d a s1) := by
  intro w h hw
  obtain rfl := Option.some.inj h
  exact show candS _ = _ by simp (disch := decide) only [candS, candKey, fld, extract_low, extract_high, extract_all, Nat.reduceSub, BitVec.reduceToNat, BitVec.reduceExtractLsb']

theorem jclose {d a} : Statement (.jclose d a) := by
  intro w h hw
  obtain rfl := Option.some.inj h
  exact show candS _ = _ by simp (disch := decide) only [candS, candKey, fld, extract_low, extract_high, extract_all, Nat.reduceSub, BitVec.reduceToNat, BitVec.reduceExtractLsb']

theorem jqry {d a} : Statement (.jqry d a) := by
  intro w h hw
  obtain rfl := Option.some.inj h
  exact show candS _ = _ by simp (disch := decide) only [candS, candKey, fld, extract_low, extract_high, extract_all, Nat.reduceSub, BitVec.reduceToNat, BitVec.reduceExtractLsb']

theorem shrd {d a} : Statement (.shrd d a) := by
  intro w h hw
  obtain rfl := Option.some.inj h
  exact show candS _ = _ by simp (disch := decide) only [candS, candTruss, fld, extract_low, extract_high, extract_all, Nat.reduceSub, BitVec.reduceToNat, BitVec.reduceExtractLsb']

theorem shcap {d a} : Statement (.shcap d a) := by
  intro w h hw
  obtain rfl := Option.some.inj h
  exact show candS _ = _ by simp (disch := decide) only [candS, candTruss, fld, extract_low, extract_high, extract_all, Nat.reduceSub, BitVec.reduceToNat, BitVec.reduceExtractLsb']

theorem wedge {d a} : Statement (.wedge d a) := by
  intro w h hw
  obtain rfl := Option.some.inj h
  exact show candS _ = _ by simp (disch := decide) only [candS, candTruss, fld, extract_low, extract_high, extract_all, Nat.reduceSub, BitVec.reduceToNat, BitVec.reduceExtractLsb']

theorem wclr {d} : Statement (.wclr d) := by
  intro w h hw
  obtain rfl := Option.some.inj h
  exact show candS _ = _ by simp (disch := decide) only [candS, candTruss, fld, extract_low, extract_high, extract_all, Nat.reduceSub, BitVec.reduceToNat, BitVec.reduceExtractLsb']

theorem copen {d a b k} : Statement (.copen d a b k) := by
  intro w h hw
  obtain rfl := Option.some.inj h
  exact show candS _ = _ by simp (disch := decide) only [candS, candColl, fld, extract_low, extract_high, extract_all, Nat.reduceSub, BitVec.reduceToNat, BitVec.reduceExtractLsb']

theorem cclose {d k} : Statement (.cclose d k) := by
  intro w h hw
  obtain rfl := Option.some.inj h
  exact show candS _ = _ by simp (disch := decide) only [candS, candColl, fld, extract_low, extract_high, extract_all, Nat.reduceSub, BitVec.reduceToNat, BitVec.reduceExtractLsb']

theorem cwait {d k} : Statement (.cwait d k) := by
  intro w h hw
  obtain rfl := Option.some.inj h
  exact show candS _ = _ by simp (disch := decide) only [candS, candColl, fld, extract_low, extract_high, extract_all, Nat.reduceSub, BitVec.reduceToNat, BitVec.reduceExtractLsb']

theorem vclaim {g} : Statement (.vclaim g) := by
  intro w h hw
  obtain rfl := Option.some.inj h
  exact show candV _ = _ by simp (disch := decide) only [candV, candLane, fld, extract_low, extract_high, extract_all, Nat.reduceSub, BitVec.reduceToNat, BitVec.reduceExtractLsb']

theorem vadd {d a b k t} : Statement (.vadd d a b k t) := by
  intro w h hw
  obtain rfl := Option.some.inj h
  exact show candV _ = _ by simp (disch := decide) only [candV, fld, extract_low, extract_high, extract_all, Nat.reduceSub, BitVec.reduceToNat]

theorem vsub {d a b k t} : Statement (.vsub d a b k t) := by
  intro w h hw
  obtain rfl := Option.some.inj h
  exact show candV _ = _ by simp (disch := decide) only [candV, fld, extract_low, extract_high, extract_all, Nat.reduceSub, BitVec.reduceToNat]

theorem vmul {d a b k t} : Statement (.vmul d a b k t) := by
  intro w h hw
  obtain rfl := Option.some.inj h
  exact show candV _ = _ by simp (disch := decide) only [candV, fld, extract_low, extract_high, extract_all, Nat.reduceSub, BitVec.reduceToNat]

theorem vmulh {d a b k t} : Statement (.vmulh d a b k t) := by
  intro w h hw
  obtain rfl := Option.some.inj h
  exact show candV _ = _ by simp (disch := decide) only [candV, fld, extract_low, extract_high, extract_all, Nat.reduceSub, BitVec.reduceToNat]

theorem vmac {d a b c k t} : Statement (.vmac d a b c k t) := by
  intro w h hw
  obtain rfl := Option.some.inj h
  exact show candV _ = _ by simp (disch := decide) only [candV, fld, extract_low, extract_high, extract_all, Nat.reduceSub, BitVec.reduceToNat]

theorem vand {d a b k t} : Statement (.vand d a b k t) := by
  intro w h hw
  obtain rfl := Option.some.inj h
  exact show candV _ = _ by simp (disch := decide) only [candV, fld, extract_low, extract_high, extract_all, Nat.reduceSub, BitVec.reduceToNat]

theorem vor {d a b k t} : Statement (.vor d a b k t) := by
  intro w h hw
  obtain rfl := Option.some.inj h
  exact show candV _ = _ by simp (disch := decide) only [candV, fld, extract_low, extract_high, extract_all, Nat.reduceSub, BitVec.reduceToNat]

theorem vxor {d a b k t} : Statement (.vxor d a b k t) := by
  intro w h hw
  obtain rfl := Option.some.inj h
  exact show candV _ = _ by simp (disch := decide) only [candV, fld, extract_low, extract_high, extract_all, Nat.reduceSub, BitVec.reduceToNat]

theorem vshl {d a b k t} : Statement (.vshl d a b k t) := by
  intro w h hw
  obtain rfl := Option.some.inj h
  exact show candV _ = _ by simp (disch := decide) only [candV, fld, extract_low, extract_high, extract_all, Nat.reduceSub, BitVec.reduceToNat]

theorem vshr {d a b k t} : Statement (.vshr d a b k t) := by
  intro w h hw
  obtain rfl := Option.some.inj h
  exact show candV _ = _ by simp (disch := decide) only [candV, fld, extract_low, extract_high, extract_all, Nat.reduceSub, BitVec.reduceToNat]

theorem vsar {d a b k t} : Statement (.vsar d a b k t) := by
  intro w h hw
  obtain rfl := Option.some.inj h
  exact show candV _ = _ by simp (disch := decide) only [candV, fld, extract_low, extract_high, extract_all, Nat.reduceSub, BitVec.reduceToNat]

theorem vmin {d a b k t} : Statement (.vmin d a b k t) := by
  intro w h hw
  obtain rfl := Option.some.inj h
  exact show candV _ = _ by simp (disch := decide) only [candV, fld, extract_low, extract_high, extract_all, Nat.reduceSub, BitVec.reduceToNat]

theorem vmax {d a b k t} : Statement (.vmax d a b k t) := by
  intro w h hw
  obtain rfl := Option.some.inj h
  exact show candV _ = _ by simp (disch := decide) only [candV, fld, extract_low, extract_high, extract_all, Nat.reduceSub, BitVec.reduceToNat]

theorem vabs {d a k t} : Statement (.vabs d a k t) := by
  intro w h hw
  obtain rfl := Option.some.inj h
  exact show candV _ = _ by simp (disch := decide) only [candV, fld, extract_low, extract_high, extract_all, Nat.reduceSub, BitVec.reduceToNat]

theorem vcmp {d a b c k t} : Statement (.vcmp d a b c k t) := by
  intro w h hw
  obtain rfl := Option.some.inj h
  exact show candV _ = _ by simp (disch := decide) only [candV, fld, extract_low, extract_high, extract_all, Nat.reduceSub, BitVec.reduceToNat]

theorem vsel {d a b k} : Statement (.vsel d a b k) := by
  intro w h hw
  obtain rfl := Option.some.inj h
  exact show candV _ = _ by simp (disch := decide) only [candV, fld, extract_low, extract_high, extract_all, Nat.reduceSub, BitVec.reduceToNat]

theorem vfadd {d a b k t} : Statement (.vfadd d a b k t) := by
  intro w h hw
  obtain rfl := Option.some.inj h
  exact show candV _ = _ by simp (disch := decide) only [candV, fld, extract_low, extract_high, extract_all, Nat.reduceSub, BitVec.reduceToNat]

theorem vfsub {d a b k t} : Statement (.vfsub d a b k t) := by
  intro w h hw
  obtain rfl := Option.some.inj h
  exact show candV _ = _ by simp (disch := decide) only [candV, fld, extract_low, extract_high, extract_all, Nat.reduceSub, BitVec.reduceToNat]

theorem vfmul {d a b k t} : Statement (.vfmul d a b k t) := by
  intro w h hw
  obtain rfl := Option.some.inj h
  exact show candV _ = _ by simp (disch := decide) only [candV, fld, extract_low, extract_high, extract_all, Nat.reduceSub, BitVec.reduceToNat]

theorem vfma {d a b c k t} : Statement (.vfma d a b c k t) := by
  intro w h hw
  obtain rfl := Option.some.inj h
  exact show candV _ = _ by simp (disch := decide) only [candV, fld, extract_low, extract_high, extract_all, Nat.reduceSub, BitVec.reduceToNat]

theorem vfmin {d a b k t} : Statement (.vfmin d a b k t) := by
  intro w h hw
  obtain rfl := Option.some.inj h
  exact show candV _ = _ by simp (disch := decide) only [candV, fld, extract_low, extract_high, extract_all, Nat.reduceSub, BitVec.reduceToNat]

theorem vfmax {d a b k t} : Statement (.vfmax d a b k t) := by
  intro w h hw
  obtain rfl := Option.some.inj h
  exact show candV _ = _ by simp (disch := decide) only [candV, fld, extract_low, extract_high, extract_all, Nat.reduceSub, BitVec.reduceToNat]

theorem vfcmp {d a b c k} : Statement (.vfcmp d a b c k) := by
  intro w h hw
  obtain rfl := Option.some.inj h
  exact show candV _ = _ by simp (disch := decide) only [candV, fld, extract_low, extract_high, extract_all, Nat.reduceSub, BitVec.reduceToNat]

theorem vfsgn {d a b c k t} : Statement (.vfsgn d a b c k t) := by
  intro w h hw
  obtain rfl := Option.some.inj h
  exact show candV _ = _ by simp (disch := decide) only [candV, fld, extract_low, extract_high, extract_all, Nat.reduceSub, BitVec.reduceToNat]

theorem vfcvt {d a g s1 o p} : Statement (.vfcvt d a g s1 o p) := by
  intro w h hw
  obtain rfl := Option.some.inj h
  exact show candV _ = _ by simp (disch := decide) only [candV, fld, extract_low, extract_high, extract_all, Nat.reduceSub, BitVec.reduceToNat]

theorem vfscl {d a g t} : Statement (.vfscl d a g t) := by
  intro w h hw
  obtain rfl := Option.some.inj h
  exact show candV _ = _ by simp (disch := decide) only [candV, fld, extract_low, extract_high, extract_all, Nat.reduceSub, BitVec.reduceToNat]

theorem vcmac {d a b c k t} : Statement (.vcmac d a b c k t) := by
  intro w h hw
  obtain rfl := Option.some.inj h
  exact show candV _ = _ by simp (disch := decide) only [candV, fld, extract_low, extract_high, extract_all, Nat.reduceSub, BitVec.reduceToNat]

theorem vcconj {d a k t} : Statement (.vcconj d a k t) := by
  intro w h hw
  obtain rfl := Option.some.inj h
  exact show candV _ = _ by simp (disch := decide) only [candV, fld, extract_low, extract_high, extract_all, Nat.reduceSub, BitVec.reduceToNat]

theorem vdot4 {d a b c k t} : Statement (.vdot4 d a b c k t) := by
  intro w h hw
  obtain rfl := Option.some.inj h
  exact show candV _ = _ by simp (disch := decide) only [candV, fld, extract_low, extract_high, extract_all, Nat.reduceSub, BitVec.reduceToNat]

theorem vdot8 {d a b c k t} : Statement (.vdot8 d a b c k t) := by
  intro w h hw
  obtain rfl := Option.some.inj h
  exact show candV _ = _ by simp (disch := decide) only [candV, fld, extract_low, extract_high, extract_all, Nat.reduceSub, BitVec.reduceToNat]

theorem vbcast {d g w1} : Statement (.vbcast d g w1) := by
  intro w h hw
  obtain rfl := Option.some.inj h
  exact show candV _ = _ by simp (disch := decide) only [candV, fld, extract_low, extract_high, extract_all, Nat.reduceSub, BitVec.reduceToNat]

theorem vextr {a g l} : Statement (.vextr a g l) := by
  intro w h hw
  obtain rfl := Option.some.inj h
  exact show candV _ = _ by simp (disch := decide) only [candV, fld, extract_low, extract_high, extract_all, Nat.reduceSub, BitVec.reduceToNat, BitVec.reduceExtractLsb']

theorem vins {d g l} : Statement (.vins d g l) := by
  intro w h hw
  obtain rfl := Option.some.inj h
  exact show candV _ = _ by simp (disch := decide) only [candV, fld, extract_low, extract_high, extract_all, Nat.reduceSub, BitVec.reduceToNat]

theorem vperm {d a b k e} : Statement (.vperm d a b k e) := by
  intro w h hw
  obtain rfl := Option.some.inj h
  exact show candV _ = _ by simp (disch := decide) only [candV, fld, extract_low, extract_high, extract_all, Nat.reduceSub, BitVec.reduceToNat]

theorem vslide {d a i} : Statement (.vslide d a i) := by
  intro w h hw
  obtain rfl := Option.some.inj h
  exact show candV _ = _ by simp (disch := decide) only [candV, fld, extract_low, extract_high, extract_all, Nat.reduceSub, BitVec.reduceToNat]

theorem vzip {d a b h1 k e} : Statement (.vzip d a b h1 k e) := by
  intro w h hw
  obtain rfl := Option.some.inj h
  exact show candV _ = _ by simp (disch := decide) only [candV, fld, extract_low, extract_high, extract_all, Nat.reduceSub, BitVec.reduceToNat]

theorem vunzip {d a b h1 k e} : Statement (.vunzip d a b h1 k e) := by
  intro w h hw
  obtain rfl := Option.some.inj h
  exact show candV _ = _ by simp (disch := decide) only [candV, fld, extract_low, extract_high, extract_all, Nat.reduceSub, BitVec.reduceToNat]

theorem vmov {d a k e} : Statement (.vmov d a k e) := by
  intro w h hw
  obtain rfl := Option.some.inj h
  exact show candV _ = _ by simp (disch := decide) only [candV, fld, extract_low, extract_high, extract_all, Nat.reduceSub, BitVec.reduceToNat]

theorem vrsum {a g t k} : Statement (.vrsum a g t k) := by
  intro w h hw
  obtain rfl := Option.some.inj h
  exact show candV _ = _ by simp (disch := decide) only [candV, candVred, fld, extract_low, extract_high, extract_all, Nat.reduceSub, BitVec.reduceToNat, BitVec.reduceExtractLsb']

theorem vrmax {a g t k} : Statement (.vrmax a g t k) := by
  intro w h hw
  obtain rfl := Option.some.inj h
  exact show candV _ = _ by simp (disch := decide) only [candV, candVred, fld, extract_low, extract_high, extract_all, Nat.reduceSub, BitVec.reduceToNat, BitVec.reduceExtractLsb']

theorem vrmin {a g t k} : Statement (.vrmin a g t k) := by
  intro w h hw
  obtain rfl := Option.some.inj h
  exact show candV _ = _ by simp (disch := decide) only [candV, candVred, fld, extract_low, extract_high, extract_all, Nat.reduceSub, BitVec.reduceToNat, BitVec.reduceExtractLsb']

theorem vfrsum {a g t k} : Statement (.vfrsum a g t k) := by
  intro w h hw
  obtain rfl := Option.some.inj h
  exact show candV _ = _ by simp (disch := decide) only [candV, candVred, fld, extract_low, extract_high, extract_all, Nat.reduceSub, BitVec.reduceToNat, BitVec.reduceExtractLsb']

theorem vexp {d a k} : Statement (.vexp d a k) := by
  intro w h hw
  obtain rfl := Option.some.inj h
  exact show candV _ = _ by simp (disch := decide) only [candV, candVsfu, fld, extract_low, extract_high, extract_all, Nat.reduceSub, BitVec.reduceToNat, BitVec.reduceExtractLsb']

theorem vlog {d a k} : Statement (.vlog d a k) := by
  intro w h hw
  obtain rfl := Option.some.inj h
  exact show candV _ = _ by simp (disch := decide) only [candV, candVsfu, fld, extract_low, extract_high, extract_all, Nat.reduceSub, BitVec.reduceToNat, BitVec.reduceExtractLsb']

theorem vrcp {d a k} : Statement (.vrcp d a k) := by
  intro w h hw
  obtain rfl := Option.some.inj h
  exact show candV _ = _ by simp (disch := decide) only [candV, candVsfu, fld, extract_low, extract_high, extract_all, Nat.reduceSub, BitVec.reduceToNat, BitVec.reduceExtractLsb']

theorem vrsq {d a k} : Statement (.vrsq d a k) := by
  intro w h hw
  obtain rfl := Option.some.inj h
  exact show candV _ = _ by simp (disch := decide) only [candV, candVsfu, fld, extract_low, extract_high, extract_all, Nat.reduceSub, BitVec.reduceToNat, BitVec.reduceExtractLsb']

theorem vsigm {d a k} : Statement (.vsigm d a k) := by
  intro w h hw
  obtain rfl := Option.some.inj h
  exact show candV _ = _ by simp (disch := decide) only [candV, candVsfu, fld, extract_low, extract_high, extract_all, Nat.reduceSub, BitVec.reduceToNat, BitVec.reduceExtractLsb']

theorem vtanh {d a k} : Statement (.vtanh d a k) := by
  intro w h hw
  obtain rfl := Option.some.inj h
  exact show candV _ = _ by simp (disch := decide) only [candV, candVsfu, fld, extract_low, extract_high, extract_all, Nat.reduceSub, BitVec.reduceToNat, BitVec.reduceExtractLsb']

theorem vsin {d a k} : Statement (.vsin d a k) := by
  intro w h hw
  obtain rfl := Option.some.inj h
  exact show candV _ = _ by simp (disch := decide) only [candV, candVsfu, fld, extract_low, extract_high, extract_all, Nat.reduceSub, BitVec.reduceToNat, BitVec.reduceExtractLsb']

theorem vcos {d a k} : Statement (.vcos d a k) := by
  intro w h hw
  obtain rfl := Option.some.inj h
  exact show candV _ = _ by simp (disch := decide) only [candV, candVsfu, fld, extract_low, extract_high, extract_all, Nat.reduceSub, BitVec.reduceToNat, BitVec.reduceExtractLsb']

theorem mand {d a b} : Statement (.mand d a b) := by
  intro w h hw
  obtain rfl := Option.some.inj h
  exact show candV _ = _ by simp (disch := decide) only [candV, candMask, fld, extract_low, extract_high, extract_all, Nat.reduceSub, BitVec.reduceToNat, BitVec.reduceExtractLsb']

theorem mor {d a b} : Statement (.mor d a b) := by
  intro w h hw
  obtain rfl := Option.some.inj h
  exact show candV _ = _ by simp (disch := decide) only [candV, candMask, fld, extract_low, extract_high, extract_all, Nat.reduceSub, BitVec.reduceToNat, BitVec.reduceExtractLsb']

theorem mxor {d a b} : Statement (.mxor d a b) := by
  intro w h hw
  obtain rfl := Option.some.inj h
  exact show candV _ = _ by simp (disch := decide) only [candV, candMask, fld, extract_low, extract_high, extract_all, Nat.reduceSub, BitVec.reduceToNat, BitVec.reduceExtractLsb']

theorem mnot {d a} : Statement (.mnot d a) := by
  intro w h hw
  obtain rfl := Option.some.inj h
  exact show candV _ = _ by simp (disch := decide) only [candV, candMask, fld, extract_low, extract_high, extract_all, Nat.reduceSub, BitVec.reduceToNat, BitVec.reduceExtractLsb']

theorem mpop {a g} : Statement (.mpop a g) := by
  intro w h hw
  obtain rfl := Option.some.inj h
  exact show candV _ = _ by simp (disch := decide) only [candV, fld, extract_low, extract_high, extract_all, Nat.reduceSub, BitVec.reduceToNat, BitVec.reduceExtractLsb']

theorem mrdr {d g t} : Statement (.mrdr d g t) := by
  intro w h hw
  obtain rfl := Option.some.inj h
  exact show candV _ = _ by simp (disch := decide) only [candV, candAcc, fld, extract_low, extract_high, extract_all, Nat.reduceSub, BitVec.reduceToNat]

theorem mrdc {d g t} : Statement (.mrdc d g t) := by
  intro w h hw
  obtain rfl := Option.some.inj h
  exact show candV _ = _ by simp (disch := decide) only [candV, candAcc, fld, extract_low, extract_high, extract_all, Nat.reduceSub, BitVec.reduceToNat]

theorem mwrr {a g t} : Statement (.mwrr a g t) := by
  intro w h hw
  obtain rfl := Option.some.inj h
  exact show candV _ = _ by simp (disch := decide) only [candV, candAcc, fld, extract_low, extract_high, extract_all, Nat.reduceSub, BitVec.reduceToNat, BitVec.reduceExtractLsb']

theorem mwrc {a g t} : Statement (.mwrc a g t) := by
  intro w h hw
  obtain rfl := Option.some.inj h
  exact show candV _ = _ by simp (disch := decide) only [candV, candAcc, fld, extract_low, extract_high, extract_all, Nat.reduceSub, BitVec.reduceToNat, BitVec.reduceExtractLsb']

theorem ifence : Statement .ifence := fun _ h _ => by cases h; rfl

theorem eret : Statement .eret := fun _ h _ => by cases h; rfl

theorem brk : Statement .brk := fun _ h _ => by cases h; rfl

theorem exit : Statement .exit := fun _ h _ => by cases h; rfl

theorem yield : Statement .yield := fun _ h _ => by cases h; rfl

theorem tend : Statement .tend := fun _ h _ => by cases h; rfl

theorem khold : Statement .khold := fun _ h _ => by cases h; rfl

theorem klet : Statement .klet := fun _ h _ => by cases h; rfl

theorem snop : Statement .snop := fun _ h _ => by cases h; rfl

theorem vnop : Statement .vnop := fun _ h _ => by cases h; rfl

theorem vrel : Statement .vrel := fun _ h _ => by cases h; rfl

theorem streamRegisterRead : Statement (.streamRegisterRead) := fun _ h _ => nomatch h

theorem groupContribute : Statement (.groupContribute) := fun _ h _ => nomatch h

theorem groupResultRead : Statement (.groupResultRead) := fun _ h _ => nomatch h

theorem queuePop : Statement (.queuePop) := fun _ h _ => nomatch h

theorem queuePush : Statement (.queuePush) := fun _ h _ => nomatch h

theorem entryEnd : Statement (.entryEnd) := fun _ h _ => nomatch h

theorem parkResume : Statement (.parkResume) := fun _ h _ => nomatch h

theorem extmigSlotRetry : Statement (.extmigSlotRetry) := fun _ h _ => nomatch h

theorem migrationArrival : Statement (.migrationArrival) := fun _ h _ => nomatch h

theorem migSlotRetry : Statement (.migSlotRetry) := fun _ h _ => nomatch h

theorem antiPingpongEnd : Statement (.antiPingpongEnd) := fun _ h _ => nomatch h

theorem watchdogExpiry : Statement (.watchdogExpiry) := fun _ h _ => nomatch h

theorem kholdlong : Statement (.kholdlong) := fun _ h _ => nomatch h

theorem swapRequest : Statement (.swapRequest) := fun _ h _ => nomatch h

theorem swapStart : Statement (.swapStart) := fun _ h _ => nomatch h

theorem swapOutDone : Statement (.swapOutDone) := fun _ h _ => nomatch h

theorem swapInDone : Statement (.swapInDone) := fun _ h _ => nomatch h

theorem owedResultWrite : Statement (.owedResultWrite) := fun _ h _ => nomatch h

theorem timeSliceEnd : Statement (.timeSliceEnd) := fun _ h _ => nomatch h

theorem debugHalt : Statement (.debugHalt) := fun _ h _ => nomatch h

theorem debugRegisterWrite : Statement (.debugRegisterWrite) := fun _ h _ => nomatch h

theorem debugResume : Statement (.debugResume) := fun _ h _ => nomatch h

theorem messageDelivery : Statement (.messageDelivery) := fun _ h _ => nomatch h

theorem inboxRetry : Statement (.inboxRetry) := fun _ h _ => nomatch h

theorem sendForward : Statement (.sendForward) := fun _ h _ => nomatch h

theorem movedResend : Statement (.movedResend) := fun _ h _ => nomatch h

theorem stubExpiry : Statement (.stubExpiry) := fun _ h _ => nomatch h

theorem memoryReply : Statement (.memoryReply) := fun _ h _ => nomatch h

theorem relaxedReply : Statement (.relaxedReply) := fun _ h _ => nomatch h

theorem remoteRequest : Statement (.remoteRequest) := fun _ h _ => nomatch h

theorem waitReply : Statement (.waitReply) := fun _ h _ => nomatch h

theorem requestReissue : Statement (.requestReissue) := fun _ h _ => nomatch h

theorem requestLost : Statement (.requestLost) := fun _ h _ => nomatch h

theorem replyCacheExpiry : Statement (.replyCacheExpiry) := fun _ h _ => nomatch h

theorem combineMerge : Statement (.combineMerge) := fun _ h _ => nomatch h

theorem combineSplit : Statement (.combineSplit) := fun _ h _ => nomatch h

theorem linkDown : Statement (.linkDown) := fun _ h _ => nomatch h

theorem linkUp : Statement (.linkUp) := fun _ h _ => nomatch h

theorem tlbWalkDone : Statement (.tlbWalkDone) := fun _ h _ => nomatch h

theorem translationDropDone : Statement (.translationDropDone) := fun _ h _ => nomatch h

theorem handleCacheFill : Statement (.handleCacheFill) := fun _ h _ => nomatch h

theorem tfreeDropDone : Statement (.tfreeDropDone) := fun _ h _ => nomatch h

theorem hver : Statement (.hver) := fun _ h _ => nomatch h

theorem ptebits : Statement (.ptebits) := fun _ h _ => nomatch h

theorem pteget : Statement (.pteget) := fun _ h _ => nomatch h

theorem sfuServiceStart : Statement (.sfuServiceStart) := fun _ h _ => nomatch h

theorem sfuComplete : Statement (.sfuComplete) := fun _ h _ => nomatch h

theorem copyChunk : Statement (.copyChunk) := fun _ h _ => nomatch h

theorem mldaService : Statement (.mldaService) := fun _ h _ => nomatch h

theorem mmaStart : Statement (.mmaStart) := fun _ h _ => nomatch h

theorem mmaComplete : Statement (.mmaComplete) := fun _ h _ => nomatch h

theorem mzeroService : Statement (.mzeroService) := fun _ h _ => nomatch h

theorem mstaService : Statement (.mstaService) := fun _ h _ => nomatch h

theorem lazySave : Statement (.lazySave) := fun _ h _ => nomatch h

theorem accumulatorRestore : Statement (.accumulatorRestore) := fun _ h _ => nomatch h

theorem joinBindRequest : Statement (.joinBindRequest) := fun _ h _ => nomatch h

theorem joinArrival : Statement (.joinArrival) := fun _ h _ => nomatch h

theorem joinWaitRequest : Statement (.joinWaitRequest) := fun _ h _ => nomatch h

theorem joinCloseRequest : Statement (.joinCloseRequest) := fun _ h _ => nomatch h

theorem joinQuery : Statement (.joinQuery) := fun _ h _ => nomatch h

theorem joinDeparture : Statement (.joinDeparture) := fun _ h _ => nomatch h

theorem killDelivery : Statement (.killDelivery) := fun _ h _ => nomatch h

theorem killTaken : Statement (.killTaken) := fun _ h _ => nomatch h

theorem retractionEnd : Statement (.retractionEnd) := fun _ h _ => nomatch h

theorem crewBlockedChange : Statement (.crewBlockedChange) := fun _ h _ => nomatch h

theorem shareCredit : Statement (.shareCredit) := fun _ h _ => nomatch h

theorem pointStepDone : Statement (.pointStepDone) := fun _ h _ => nomatch h

theorem tileRestart : Statement (.tileRestart) := fun _ h _ => nomatch h

theorem cycleDetect : Statement (.cycleDetect) := fun _ h _ => nomatch h

theorem slackLend : Statement (.slackLend) := fun _ h _ => nomatch h

theorem slackReclaim : Statement (.slackReclaim) := fun _ h _ => nomatch h

theorem collectiveRoundComplete : Statement (.collectiveRoundComplete) := fun _ h _ => nomatch h

theorem launchCheck : Statement (.launchCheck) := fun _ h _ => nomatch h

theorem launchClaim : Statement (.launchClaim) := fun _ h _ => nomatch h

theorem launchComplete : Statement (.launchComplete) := fun _ h _ => nomatch h

theorem eventRingWrite : Statement (.eventRingWrite) := fun _ h _ => nomatch h

theorem partitionReset : Statement (.partitionReset) := fun _ h _ => nomatch h

theorem lmdoor : Statement (.lmdoor) := fun _ h _ => nomatch h

theorem hpdoor : Statement (.hpdoor) := fun _ h _ => nomatch h

theorem tqclose : Statement (.tqclose) := fun _ h _ => nomatch h

theorem preset : Statement (.preset) := fun _ h _ => nomatch h

theorem ercons : Statement (.ercons) := fun _ h _ => nomatch h

theorem registerWrite : Statement (.registerWrite) := fun _ h _ => nomatch h

theorem hostRead : Statement (.hostRead) := fun _ h _ => nomatch h

theorem hostWrite : Statement (.hostWrite) := fun _ h _ => nomatch h

theorem hostFillWrite : Statement (.hostFillWrite) := fun _ h _ => nomatch h

theorem frameReceive : Statement (.frameReceive) := fun _ h _ => nomatch h

theorem ingestRecordWrite : Statement (.ingestRecordWrite) := fun _ h _ => nomatch h

theorem streamResume : Statement (.streamResume) := fun _ h _ => nomatch h

theorem pauseRefresh : Statement (.pauseRefresh) := fun _ h _ => nomatch h

theorem droopTrip : Statement (.droopTrip) := fun _ h _ => nomatch h

theorem droopSequenceEnd : Statement (.droopSequenceEnd) := fun _ h _ => nomatch h

theorem softError : Statement (.softError) := fun _ h _ => nomatch h

theorem marginReplan : Statement (.marginReplan) := fun _ h _ => nomatch h

theorem powerSample : Statement (.powerSample) := fun _ h _ => nomatch h

theorem deviceReset : Statement (.deviceReset) := fun _ h _ => nomatch h

theorem deviceReady : Statement (.deviceReady) := fun _ h _ => nomatch h

theorem pcreate : Statement (.pcreate) := fun _ h _ => nomatch h

theorem pdestroy : Statement (.pdestroy) := fun _ h _ => nomatch h

theorem pset : Statement (.pset) := fun _ h _ => nomatch h

theorem pget : Statement (.pget) := fun _ h _ => nomatch h

theorem qassign : Statement (.qassign) := fun _ h _ => nomatch h

theorem hdmset : Statement (.hdmset) := fun _ h _ => nomatch h

theorem streamset : Statement (.streamset) := fun _ h _ => nomatch h

theorem streamget : Statement (.streamget) := fun _ h _ => nomatch h

theorem portset : Statement (.portset) := fun _ h _ => nomatch h

theorem portcnt : Statement (.portcnt) := fun _ h _ => nomatch h

theorem clkset : Statement (.clkset) := fun _ h _ => nomatch h

theorem clkget : Statement (.clkget) := fun _ h _ => nomatch h

theorem drpset : Statement (.drpset) := fun _ h _ => nomatch h

theorem replan : Statement (.replan) := fun _ h _ => nomatch h

theorem retread : Statement (.retread) := fun _ h _ => nomatch h

theorem telem : Statement (.telem) := fun _ h _ => nomatch h

theorem linkcnt : Statement (.linkcnt) := fun _ h _ => nomatch h

theorem dreset : Statement (.dreset) := fun _ h _ => nomatch h

theorem mgmtCommandDone : Statement (.mgmtCommandDone) := fun _ h _ => nomatch h

theorem getVersion : Statement (.getVersion) := fun _ h _ => nomatch h

theorem getCapabilities : Statement (.getCapabilities) := fun _ h _ => nomatch h

theorem negotiateAlgorithms : Statement (.negotiateAlgorithms) := fun _ h _ => nomatch h

theorem getDigests : Statement (.getDigests) := fun _ h _ => nomatch h

theorem getCertificate : Statement (.getCertificate) := fun _ h _ => nomatch h

theorem challenge : Statement (.challenge) := fun _ h _ => nomatch h

theorem getMeasurements : Statement (.getMeasurements) := fun _ h _ => nomatch h

theorem bmcTelemetryRead : Statement (.bmcTelemetryRead) := fun _ h _ => nomatch h

theorem bmcRetireRead : Statement (.bmcRetireRead) := fun _ h _ => nomatch h

theorem bmcReplanRequest : Statement (.bmcReplanRequest) := fun _ h _ => nomatch h

theorem bmcResetRequest : Statement (.bmcResetRequest) := fun _ h _ => nomatch h

theorem linkEvent : Statement (.linkEvent) := fun _ h _ => nomatch h

theorem ersize : Statement (.ersize) := fun _ h _ => nomatch h

theorem mgdoor : Statement (.mgdoor) := fun _ h _ => nomatch h

theorem sequenceNumberRelease : Statement (.sequenceNumberRelease) := fun _ h _ => nomatch h

theorem tileQueueAssign : Statement (.tileQueueAssign) := fun _ h _ => nomatch h

theorem swapInRequest : Statement (.swapInRequest) := fun _ h _ => nomatch h


end Sys2Proof.Laws.Encodes
end

