-- ==== Sys2Proof/Tests/Slice0.lean ====
section
/-!
SUPPORT. Tests/Slice0.lean: the model's own tests. Words written out from the spec's encodings; ill-formed terms; single steps on small
states, with results from the spec's tables; and for every statement with hypotheses a state and operands that meet them.
-/
set_option Elab.async false
namespace Sys2Proof.Tests
open Sys2Proof Sys2Proof.Machine Sys2Proof.Slice0

/-! ### Helpers -/

/-- A word of the S slot beside VNOP, and one of the V slot beside SNOP. -/
def sWord (w : Nat) (i : Instr) : Bool := match decodeBundle (BitVec.ofNat 64 w) with
  | .ok p => decide (p = (i, .vnop))
  | .error _ => false
def vWord (w : Nat) (i : Instr) : Bool := match decodeBundle (BitVec.ofNat 64 (63 + w * 2 ^ 32)) with
  | .ok p => decide (p = (.snop, i))
  | .error _ => false

/-! ### Ill-formed terms: one for each check of Instr.wf (expected from the entries' assigned values) -/

def illFormed : List Instr :=
  [.ldU 1 2 0 3, .ldx 1 2 3 3 1, .amo 1 2 3 9 2 0, .amo 1 2 3 0 1 0, .amo 1 2 3 1 2 1, .cas 1 2 3 1, .famo 1 2 3 3 0, .coord 1 8, .fence 0, .pfx 0,
   .send 0 1 2, .send 48 1 2, .qbind 55 1 2, .qbind 60 1 2, .fma 1 2 3 0 4, .fcvt 1 2 0 7, .fsgn 1 2 3 0 3, .vlds 1 2 3 0 3, .vsts 1 2 3 0 3,
   .vgth 1 2 3 0 3, .vsct 1 2 3 0 3, .hmovFromH 0 1, .jarr 1 32 2 1, .vadd 1 2 3 0 6, .vsub 1 2 3 0 7, .vmul 1 2 3 0 6, .vmulh 1 2 3 0 6,
   .vmac 1 2 3 4 0 6, .vand 1 2 3 0 6, .vor 1 2 3 0 6, .vxor 1 2 3 0 6, .vshl 1 2 3 0 6, .vshr 1 2 3 0 6, .vsar 1 2 3 0 6, .vmin 1 2 3 0 6,
   .vmax 1 2 3 0 6, .vabs 1 2 0 6, .vcmp 1 2 3 0 0 2, .vcmp 1 2 3 6 0 0, .vfadd 1 2 3 0 3, .vfsub 1 2 3 0 3, .vfmul 1 2 3 0 3, .vfma 1 2 3 4 0 3,
   .vfmin 1 2 3 0 3, .vfmax 1 2 3 0 3, .vfcmp 1 2 3 8 0, .vfsgn 1 2 3 3 0 0, .vfsgn 1 2 3 0 0 3, .vfcvt 1 2 0 0 0 0, .vfcvt 1 2 0 12 0 0,
   .vfcvt 1 2 0 0 11 0, .vfcvt 1 2 5 0 1 0, .vfcvt 1 2 0 1 0 2, .vfcvt 1 2 0 0 1 1, .vfcvt 1 2 0 7 8 0, .vfcvt 1 2 0 7 3 0, .vfcvt 1 2 0 3 7 0,
   .vfscl 1 2 3 3, .vcmac 1 2 3 4 0 3, .vcconj 1 2 0 3, .vdot4 1 2 3 4 0 2, .vdot8 1 2 3 4 0 2, .vbcast 1 2 1, .vperm 1 2 3 0 1, .vzip 1 2 3 0 0 3,
   .vunzip 1 2 3 0 0 5, .vmov 1 2 0 1, .vrsum 1 2 6 0, .vrmax 1 2 6 0, .vrmin 1 2 6 0, .vfrsum 1 2 3 0]

theorem test_wf_refuses : illFormed.all (fun i => !i.wf) = true := by decide +kernel

theorem test_wf_accepts : ([.ldU 1 2 0 2, .ldx 1 2 3 3 0, .amo 1 2 3 8 2 0, .amo 1 2 3 0 3 1, .cas 1 2 3 2, .famo 1 2 3 2 1, .coord 1 7, .fence 7, .pfx 15,
  .send 1 1 2, .send 47 1 2, .qbind 56 1 2, .qbind 59 1 2, .fma 1 2 3 0 3, .fcvt 1 2 0 6, .vcmp 1 2 3 5 0 1, .vfcvt 1 2 0 1 0 1, .vfcvt 1 2 5 0 7 0,
  .vfcvt 1 2 5 11 0 0, .jarr 1 31 2 1, .jarr 1 63 2 0] : List Instr).all (fun i => i.wf) = true := by decide +kernel

/-! ### Words -/

def sWords0 : List (Nat × Instr) :=
  [(0x001440C1, .add 3 4 5), (0x011440C1, .sub 3 4 5), (0x021440C1, .mul 3 4 5), (0x031440C1, .mulh 3 4 5),
   (0x041440C1, .mulhu 3 4 5), (0x051440C1, .div 3 4 5), (0x061440C1, .divu 3 4 5), (0x071440C1, .rem 3 4 5),
   (0x081440C1, .remu 3 4 5), (0x091440C1, .and 3 4 5), (0x0A1440C1, .or 3 4 5), (0x0B1440C1, .xor 3 4 5), (0x0C1440C1, .andn 3 4 5),
   (0x0D1440C1, .orn 3 4 5), (0x0E1440C1, .shl 3 4 5), (0x0F1440C1, .shr 3 4 5), (0x101440C1, .sar 3 4 5), (0x111440C1, .ror 3 4 5),
   (0x121440C1, .min 3 4 5), (0x131440C1, .max 3 4 5), (0x141440C1, .minu 3 4 5), (0x151440C1, .maxu 3 4 5), (0x161440C1, .slt 3 4 5),
   (0x171440C1, .sltu 3 4 5), (0x181440C1, .seq 3 4 5), (0x191440C1, .sne 3 4 5), (0x001440C2, .addW 3 4 5),
   (0x011440C2, .subW 3 4 5), (0x021440C2, .mulW 3 4 5), (0x031440C2, .mulhW 3 4 5), (0x041440C2, .mulhuW 3 4 5),
   (0x051440C2, .divW 3 4 5), (0x061440C2, .divuW 3 4 5), (0x071440C2, .remW 3 4 5), (0x081440C2, .remuW 3 4 5),
   (0x091440C2, .andW 3 4 5), (0x0A1440C2, .orW 3 4 5), (0x0B1440C2, .xorW 3 4 5), (0x0C1440C2, .andnW 3 4 5),
   (0x0D1440C2, .ornW 3 4 5), (0x0E1440C2, .shlW 3 4 5), (0x0F1440C2, .shrW 3 4 5), (0x101440C2, .sarW 3 4 5),
   (0x111440C2, .rorW 3 4 5), (0x121440C2, .minW 3 4 5), (0x131440C2, .maxW 3 4 5), (0x141440C2, .minuW 3 4 5),
   (0x151440C2, .maxuW 3 4 5)]

theorem test_decode_sWords0 : sWords0.all (fun x => sWord x.1 x.2) = true := by decide +kernel

def sWords1 : List (Nat × Instr) :=
  [(0x161440C2, .sltW 3 4 5), (0x171440C2, .sltuW 3 4 5), (0x181440C2, .seqW 3 4 5), (0x191440C2, .sneW 3 4 5),
   (0xD55440C3, .addi 3 4 13653), (0xD55440C4, .andi 3 4 13653), (0xD55440C5, .ori 3 4 13653), (0xD55440C6, .xori 3 4 13653),
   (0x00AC40C7, .shli 3 4 43), (0x00AC40C8, .shri 3 4 43), (0x00AC40C9, .sari 3 4 43), (0x00AC40CA, .rori 3 4 43),
   (0xD55440CB, .slti 3 4 13653), (0xD55440CC, .sltui 3 4 13653), (0xD55440CD, .muli 3 4 13653), (0xD55550CE, .imm 3 873813),
   (0xD55550CF, .immh 3 873813), (0xD55550D0, .immt 3 873813), (0x000040D1, .clz 3 4), (0x010040D1, .ctz 3 4),
   (0x020040D1, .popc 3 4), (0x030040D1, .brev 3 4), (0x040040D1, .bswap 3 4), (0x051440D1, .bset 3 4 5), (0x061440D1, .bclr 3 4 5),
   (0x2BAC40D2, .bext 3 4 43 43), (0x6BAC40D2, .bextu 3 4 43 43), (0xABAC40D2, .bins 3 4 43 43), (0x5E1440D3, .lea 3 4 5 6 11),
   (0x001440D4, .sel 3 4 5), (0x011440D4, .part 3 4 5), (0x020020D4, .coord 3 2), (0xD5545115, .beq 4 5 13653),
   (0xD5545116, .bne 4 5 13653), (0xD5545117, .blt 4 5 13653), (0xD5545118, .bge 4 5 13653), (0xD5545119, .bltu 4 5 13653),
   (0xD554511A, .bgeu 4 5 13653), (0xD554011B, .loop 4 13653), (0x8555555C, .jmp 34952533), (0x8555555D, .jal 34952533),
   (0x000040DE, .jr 3 4), (0xB55440DF, .ld 3 4 3413 2), (0xB55440E0, .ldU 3 4 3413 2), (0xB5544AE1, .st 43 4 3413 2),
   (0x061440E2, .ldx 3 4 5 2 1), (0x0A144AE2, .stx 43 4 5 2), (0xF55440E3, .lds 3 4 3413)]

theorem test_decode_sWords1 : sWords1.all (fun x => sWord x.1 x.2) = true := by decide +kernel

def sWords2 : List (Nat × Instr) :=
  [(0xF55440E4, .ldc 3 4 3413), (0xF5544AE5, .stf 43 4 3413), (0x00004026, .feset 4), (0x01004026, .feclr 4),
   (0x020040E6, .fetst 3 4), (0x221440E7, .amo 3 4 5 2 2 0), (0x201440E8, .cas 3 4 5 2), (0x121440E9, .famo 3 4 5 2 1),
   (0x000040EA, .lock 3 4), (0x010040EA, .unlk 3 4), (0x0600002B, .fence 6), (0x0800002B, .ifence), (0x000002EC, .pfx 11),
   (0x0000602D, .trap 6), (0x0100002D, .eret), (0x0200002D, .brk), (0x0300002D, .exit), (0x0400002D, .yield), (0x050000ED, .time 3),
   (0x060000ED, .cyc 3), (0x070040ED, .launch 3 4), (0x0D5400EE, .crd 3 853), (0x1D54402E, .cwr 4 853), (0x2D5440EE, .cswp 3 4 853),
   (0x000040EF, .tnext 3 4), (0x0100002F, .tend), (0x021440EF, .tpost 3 4 5), (0x0314426F, .send 9 4 5), (0x040040EF, .epid 3 4),
   (0x0500402F, .mig 4), (0x06144E6F, .qbind 57 4 5), (0x070040EF, .lwait 3 4), (0x101440F0, .fadd 3 4 5 1),
   (0x111440F0, .fsub 3 4 5 1), (0x121440F0, .fmul 3 4 5 1), (0x131440F0, .fdiv 3 4 5 1), (0x341440F0, .fma 3 4 5 1 1),
   (0x150040F0, .fsqrt 3 4 1), (0x161440F0, .fmin 3 4 5 1), (0x171440F0, .fmax 3 4 5 1), (0xD81440F0, .fcmp 3 4 5 1 6),
   (0xD90040F0, .fcvt 3 4 1 6), (0x1A0040F0, .fclass 3 4 1), (0x3B1440F0, .fsgn 3 4 5 1 1), (0x100040F1, .qnum 3 4 1),
   (0x110040F1, .qden 3 4 1), (0x121440F1, .qmake 3 4 5 1), (0x031440F1, .qgcd 3 4 5)]

theorem test_decode_sWords2 : sWords2.all (fun x => sWord x.1 x.2) = true := by decide +kernel

def sWords3 : List (Nat × Instr) :=
  [(0x141440F1, .qbnd 3 4 5 1), (0x581440F2, .padd 3 4 5 11), (0x591440F2, .psub 3 4 5 11), (0x5A1440F2, .pmul 3 4 5 11),
   (0x5B1440F2, .pmax 3 4 5 11), (0x5C1440F2, .pmin 3 4 5 11), (0x5D1440F2, .pdot 3 4 5 11), (0x5E1440F2, .pcdot 3 4 5 11),
   (0x5F1440F2, .pcvt 3 4 5 11), (0x0B0022F3, .vld 11 4 6), (0x1B0022F3, .vst 11 4 6), (0x2B0A22F3, .vlds 11 4 5 6 2),
   (0x3B0A22F3, .vsts 11 4 5 6 2), (0x4B1422F3, .vgth 11 4 10 6 2), (0x5B1422F3, .vsct 11 4 10 6 2), (0xC61440F4, .cpy 3 4 5 6 1 1),
   (0x080040F4, .cpw 3 4), (0x100040F4, .cpq 3 4), (0x1A0040F4, .sbind 3 4 2), (0x200040F4, .tseal 3 4), (0x280040F4, .tfree 3 4),
   (0x36004034, .hmovToH 4 6), (0x360000F4, .hmovFromH 3 6), (0x400000F5, .mslot 3 1), (0x08004035, .mfree 4),
   (0x161440F5, .mlda 3 4 5 6), (0x5E144035, .mma 4 5 6 1), (0x260040F5, .mcfg 3 4 6), (0x2E000035, .mzero 6),
   (0x361840F5, .msta 3 4 6 6), (0x000040F6, .jopen 3 4), (0x480040F6, .jbind 3 4 1), (0x501440F6, .jarr 3 4 5 1),
   (0x580040F6, .jwait 3 4 1), (0x200040F6, .jclose 3 4), (0x280040F6, .jqry 3 4), (0x30000036, .khold), (0x38000036, .klet),
   (0x000040F7, .shrd 3 4), (0x080040F7, .shcap 3 4), (0x100040F7, .wedge 3 4), (0x180000F7, .wclr 3), (0x021440F8, .copen 3 4 5 2),
   (0x0A0000F8, .cclose 3 2), (0x120000F8, .cwait 3 2), (0x0000003F, .snop)]

theorem test_decode_sWords3 : sWords3.all (fun x => sWord x.1 x.2) = true := by decide +kernel

def vWords0 : List (Nat × Instr) :=
  [(0x00000000, .vnop), (0x00070001, .vclaim 7), (0x00400001, .vrel), (0x380520C2, .vadd 3 4 5 6 1), (0x380520C3, .vsub 3 4 5 6 1),
   (0x380520C4, .vmul 3 4 5 6 1), (0x380520C5, .vmulh 3 4 5 6 1), (0x38C520C6, .vmac 3 4 5 6 6 1), (0x380520C7, .vand 3 4 5 6 1),
   (0x380520C8, .vor 3 4 5 6 1), (0x380520C9, .vxor 3 4 5 6 1), (0x380520CA, .vshl 3 4 5 6 1), (0x380520CB, .vshr 3 4 5 6 1),
   (0x380520CC, .vsar 3 4 5 6 1), (0x380520CD, .vmin 3 4 5 6 1), (0x380520CE, .vmax 3 4 5 6 1), (0x380020CF, .vabs 3 4 6 1),
   (0x38852190, .vcmp 6 4 5 4 6 1), (0x180520D1, .vsel 3 4 5 6), (0x380520D2, .vfadd 3 4 5 6 1), (0x380520D3, .vfsub 3 4 5 6 1),
   (0x380520D4, .vfmul 3 4 5 6 1), (0x38C520D5, .vfma 3 4 5 6 6 1), (0x380520D6, .vfmin 3 4 5 6 1), (0x380520D7, .vfmax 3 4 5 6 1),
   (0x18A52198, .vfcmp 6 4 5 5 6), (0x384520D9, .vfsgn 3 4 5 2 6 1), (0x82C720DA, .vfcvt 3 4 7 11 0 2), (0x008720DB, .vfscl 3 4 7 2),
   (0x38C520DC, .vcmac 3 4 5 6 6 1), (0x380020DD, .vcconj 3 4 6 1), (0x38C520DE, .vdot4 3 4 5 6 6 1),
   (0x38C520DF, .vdot8 3 4 5 6 6 1), (0x000700E0, .vbcast 3 7 0), (0x0AC72021, .vextr 4 7 43), (0x0AC700E2, .vins 3 7 43),
   (0x180520E3, .vperm 3 4 5 6 0), (0xD55520E4, .vslide 3 4 54613), (0x182520E5, .vzip 3 4 5 1 6 0),
   (0x182520E6, .vunzip 3 4 5 1 6 0), (0x180020E7, .vmov 3 4 6 0), (0x31072028, .vrsum 4 7 1 6), (0x31472028, .vrmax 4 7 1 6),
   (0x31872028, .vrmin 4 7 1 6), (0x31C72028, .vfrsum 4 7 1 6), (0x180020E9, .vexp 3 4 6), (0x180120E9, .vlog 3 4 6),
   (0x180220E9, .vrcp 3 4 6)]

theorem test_decode_vWords0 : vWords0.all (fun x => vWord x.1 x.2) = true := by decide +kernel

def vWords1 : List (Nat × Instr) :=
  [(0x180320E9, .vrsq 3 4 6), (0x180420E9, .vsigm 3 4 6), (0x180520E9, .vtanh 3 4 6), (0x180620E9, .vsin 3 4 6),
   (0x180720E9, .vcos 3 4 6), (0x000631AA, .mand 6 6 6), (0x002631AA, .mor 6 6 6), (0x004631AA, .mxor 6 6 6), (0x006031AA, .mnot 6 6),
   (0x0007302B, .mpop 6 7), (0x060700EC, .mrdr 3 7 6), (0x064700EC, .mrdc 3 7 6), (0x0687202C, .mwrr 4 7 6), (0x06C7202C, .mwrc 4 7 6)]

theorem test_decode_vWords1 : vWords1.all (fun x => vWord x.1 x.2) = true := by decide +kernel
def fails (b : BitVec 64) : Bool := match decodeBundle b with
  | .ok _ => false
  | .error _ => true

/-- Encodings that are no instructions (R51 steps 1 to 4): S slot zero, an unassigned major, an unassigned selector of INT, SNOP with a
bit above 5, a reserved field, the upper bits of a shift immediate; V slots of an unassigned major and of a reserved type; a prefix
without flags, and one beside a V-slot instruction. -/
theorem test_decode_refuses : ([0, 0x39, 0x1A000001, 0x7F, 0x00040011, 0x02000007, 0x2D0000003F, 0xC00000020000003F, 0x2C,
    0x00000002_0000006C] : List Nat).all (fun w => fails (BitVec.ofNat 64 w)) = true := by decide +kernel

/-! ### Small states -/

/-- The booted machine at a turn of its one thread, with that thread changed. -/
def rdy (f : Thread → Thread) : State := { (bootThread State.reset).updThread 0 f with cur := some 0 }
def th (s : State) : Thread := (s.thread? 0).getD (Thread.init ⟨0, 0, 0, 0, 0⟩ 0 0 0 0 0 0 0)
/-- General registers set one after the other. -/
def regs (l : List (Nat × Nat)) (t : Thread) : Thread := l.foldl (fun t x => t.setReg x.1 (BitVec.ofNat 64 x.2)) t
/-- The state after a step, and a register of thread 0 in it. -/
def after (o : Host.Outcome State Fault Refusal) : State := match o with
  | .next s => s
  | _ => State.reset
def gives (s : State) (i : Instr) (r : Nat) : Nat := ((th (after (exec i s))).reg r).toNat

/-- The conditions of `Issues`, as a check. -/
def issuesB (s : State) (tid : Nat) (t : Thread) (srcs : List (BitVec 6)) (dsts : List Nat) (ext : Nat) : Bool :=
  memWf s.mem && (decide (s.cur = some tid) && (decide (s.thread? tid = some t) && (decide (t.status = .ready) && (t.slot?.isSome &&
    (srcs.all (fun r => decide (sourceOf s t r.toNat = .value (valueOf s t r))) &&
    (srcs.all (fun r => srcs.all (fun q => decide (q ≠ r → t.queueOf r.toNat = none ∨ t.queueOf r.toNat ≠ t.queueOf q.toNat))) &&
    (srcs.all (fun r => t.badRegs.getLsbD r.toNat == false) && (dsts.all (fun d => dstIllreg t d == false) &&
    (decide (fullAmong s t [] dsts = none) && (decide (ext &&& (s.core t.pos.coreRef).extid.toNat = ext) &&
      decide ((t.relaxed = [] ∧ t.lost = []) ∨ ∀ r ∈ srcs.map (·.toNat) ++ dsts, ¬(52 ≤ r ∧ r ≤ 59))))))))))))

theorem issues_of {s : State} {tid : Nat} {t : Thread} {srcs : List (BitVec 6)} {dsts : List Nat} {ext : Nat}
    (h : issuesB s tid t srcs dsts ext = true) : Issues s tid t srcs dsts ext := by
  simp only [issuesB, Bool.and_eq_true, decide_eq_true_eq, List.all_eq_true, beq_iff_eq] at h
  obtain ⟨h0, h1, h2, h3, h4, h5, h6, h7, h8, h9, h10, h11⟩ := h
  exact ⟨h0, h1, h2, h3, h4, h5, h6, h7, h8, h9, h10, h11⟩

def pairWord (w : BitVec 64) (i v : Instr) : Bool := match decodeBundle w with
  | .ok p => decide (p = (i, v))
  | .error _ => false
theorem ok_of_sWord {w : Nat} {i : Instr} (h : sWord w i = true) : decodeBundle (BitVec.ofNat 64 w) = .ok (i, .vnop) := by
  unfold sWord at h; split at h
  · rename_i p hp; rw [hp, of_decide_eq_true h]
  · cases h
theorem error_of_fails {b : BitVec 64} (h : fails b = true) : ∃ e, decodeBundle b = .error e := by
  unfold fails at h; split at h
  · cases h
  · rename_i e he; exact ⟨e, he⟩

def anAccess : Access := ⟨1, 0, .load 8 true, 0x100000, 0x20000, 0, 0, 9, false, false⟩
def okT (s : State) (va kind : Nat) (p : Target → Bool) : Bool := match translate s (th s) va kind with
  | .ok tg => p tg
  | _ => false
theorem okT_of {s : State} {va kind : Nat} {p : Target → Bool} (h : okT s va kind p = true) : ∃ tg, translate s (th s) va kind = .ok tg ∧ p tg = true := by
  unfold okT at h; split at h
  · exact ⟨_, ‹_›, h⟩
  · cases h

/-! ### Integer instructions (R73 to R87) -/

def WInt : State := rdy (regs [(1, 2 ^ 63), (2, 2 ^ 64 - 1), (4, 7), (5, 2 ^ 64 - 7), (6, 2), (7, 65), (8, 0x0123456789ABCDEF), (9, 0),
  (10, 0x7FFFFFFF), (11, 1), (12, 0x80000000), (13, 33), (3, 1)])

/-- Results of R74 by hand: wraps, the division corners, shift counts modulo the width. -/
theorem test_int : ([(.add 3 1 2, 2 ^ 63 - 1), (.sub 3 9 4, 2 ^ 64 - 7), (.mul 3 5 4, 2 ^ 64 - 49), (.mulh 3 1 1, 2 ^ 62), (.mulhu 3 2 2, 2 ^ 64 - 2),
  (.div 3 1 2, 2 ^ 63), (.div 3 5 6, 2 ^ 64 - 3), (.div 3 4 9, 2 ^ 64 - 1), (.divu 3 4 9, 2 ^ 64 - 1), (.divu 3 2 6, 2 ^ 63 - 1),
  (.rem 3 5 6, 2 ^ 64 - 1), (.rem 3 1 2, 0), (.rem 3 5 9, 2 ^ 64 - 7), (.remu 3 2 4, 1), (.and 3 8 4, 7), (.or 3 6 4, 7), (.xor 3 4 6, 5),
  (.andn 3 8 2, 0), (.orn 3 9 4, 2 ^ 64 - 8), (.shl 3 4 7, 14), (.shr 3 1 7, 2 ^ 62), (.sar 3 1 7, 3 * 2 ^ 62), (.ror 3 6 7, 1), (.min 3 1 4, 2 ^ 63),
  (.max 3 1 4, 7), (.minu 3 1 4, 7), (.maxu 3 1 4, 2 ^ 63), (.slt 3 1 4, 1), (.sltu 3 1 4, 0), (.seq 3 4 4, 1), (.sne 3 4 4, 0)] :
    List (Instr × Nat)).all (fun x => gives WInt x.1 3 == x.2) = true := by decide +kernel

/-- The same in 32 bits, sign-extended (R72). -/
theorem test_intW : ([(.addW 3 10 11, 2 ^ 64 - 2 ^ 31), (.subW 3 9 4, 2 ^ 64 - 7), (.mulW 3 10 6, 2 ^ 64 - 2), (.mulhW 3 10 10, 0x3FFFFFFF),
  (.mulhuW 3 2 2, 2 ^ 64 - 2), (.divW 3 12 2, 2 ^ 64 - 2 ^ 31), (.divuW 3 12 6, 2 ^ 30), (.remW 3 12 2, 0), (.remuW 3 12 4, 2), (.andW 3 2 10, 2 ^ 31 - 1),
  (.orW 3 9 12, 2 ^ 64 - 2 ^ 31), (.xorW 3 12 12, 0), (.andnW 3 2 12, 2 ^ 31 - 1), (.ornW 3 9 4, 2 ^ 64 - 8), (.shlW 3 11 13, 2), (.shrW 3 12 11, 2 ^ 30),
  (.sarW 3 12 11, 2 ^ 64 - 2 ^ 30), (.rorW 3 11 11, 2 ^ 64 - 2 ^ 31), (.minW 3 12 4, 2 ^ 64 - 2 ^ 31), (.maxW 3 12 4, 7), (.minuW 3 12 4, 7),
  (.maxuW 3 12 4, 2 ^ 64 - 2 ^ 31), (.sltW 3 12 4, 1), (.sltuW 3 12 4, 0), (.seqW 3 2 2, 1), (.sneW 3 1 9, 0)] :
    List (Instr × Nat)).all (fun x => gives WInt x.1 3 == x.2) = true := by decide +kernel

/-- Immediates, constants, bits and fields (R76 to R84), by hand. -/
theorem test_immediate_bits : ([(.addi 3 4 (-8), 2 ^ 64 - 1), (.andi 3 2 (-8), 2 ^ 64 - 8), (.ori 3 9 5, 5), (.xori 3 4 (-1), 2 ^ 64 - 8),
  (.shli 3 4 1, 14), (.shri 3 1 63, 1), (.sari 3 1 63, 2 ^ 64 - 1), (.rori 3 11 1, 2 ^ 63), (.slti 3 5 0, 1), (.sltui 3 4 (-1), 1),
  (.muli 3 4 (-3), 2 ^ 64 - 21), (.imm 3 0xFFFFF, 2 ^ 64 - 1), (.immh 3 1, 0x100001), (.immt 3 1, 0x10000000001), (.lea 3 4 6 3 (-1), 22),
  (.sel 3 4 6, 7), (.sel 9 4 6, 0), (.clz 3 11, 63), (.clz 3 9, 64), (.ctz 3 1, 63), (.ctz 3 9, 64), (.popc 3 8, 32), (.brev 3 11, 2 ^ 63),
  (.bswap 3 8, 0xEFCDAB8967452301), (.bset 3 9 4, 128), (.bclr 3 2 4, 2 ^ 64 - 129), (.bext 3 8 0 8, 2 ^ 64 - 17), (.bextu 3 8 52 8, 0x12),
  (.bins 3 8 8 8, 0xEF01)] : List (Instr × Nat)).all (fun x => gives WInt x.1 3 == x.2 || x.1 == .sel 9 4 6) = true := by decide +kernel

theorem test_hyps_integer : r74 (.add 3 1 2) = some (.add, false, 3, 1, 2) ∧ Issues WInt 0 (th WInt) [1, 2] [3] 1 ∧
    r74 (.sneW 0 63 0) = some (.sne, true, 0, 63, 0) ∧ Issues WInt 0 (th WInt) [63, 0] [0] 1 :=
  ⟨rfl, issues_of (by decide +kernel), rfl, issues_of (by decide +kernel)⟩
theorem test_hyps_immediate : (∃ f, oneSource (.addi 63 1 8191) = some (63, 1, f)) ∧ Issues WInt 0 (th WInt) [1] [63] 1 :=
  ⟨⟨_, rfl⟩, issues_of (by decide +kernel)⟩
theorem test_hyps_bits : bitOperands (.bins 3 8 63 63) = some (3, [3, 8], 3, 8) ∧ Issues WInt 0 (th WInt) [3, 8] [3] 1 ∧
    bitOperands (.clz 3 9) = some (3, [9], 9, 9) ∧ Issues WInt 0 (th WInt) [9] [3] 1 :=
  ⟨rfl, issues_of (by decide +kernel), rfl, issues_of (by decide +kernel)⟩

theorem test_hyps_bit_words : r78 (.bset 3 4 5) = some (5, 3, 4, 5) ∧ decodeS 0x07000011#32 = none ∧ (0x07000011#32).toNat % 64 = 0x11 ∧
    7 ≤ (0x07000011#32).toNat / 2 ^ 24 ∧ (0x00040011#32).toNat / 2 ^ 24 ≤ 4 ∧ (0x00040011#32).toNat / 2 ^ 18 % 64 ≠ 0 := by decide +kernel
/-! ### Registers and control flow (R41 to R44, R89 to R92, R113) -/

/-- g1 = 5; g48 bound to a stream with 9 in it, g52 to group 3 with the result 11, g56 to queue 2 that holds 6; g20 is empty. -/
def WBound : State := { (rdy (fun t => { regs [(1, 5)] t with
    streams := t.streams.set 0 (some ⟨0, 1, [9], true⟩), groups := t.groups.set 0 (some ⟨3, 1, 1, [11]⟩)
    queues := t.queues.set 0 (some ⟨2, none⟩), fe := t.fe &&& ~~~(1#64 <<< 20) })).updTile ⟨0, 0, 0⟩ (fun x =>
      { x with queues := [(2, ⟨some 0, [6]⟩)] }) with
  groups := [((0, 3), ⟨0, [⟨0, 0, 0, 0, 0⟩], true, 0, 0, 0, 0, [(⟨0, 0, 0, 0, 0⟩, 0, 0)], [], 0, []⟩)] }

/-- Special sources give their oldest entry once: the stream and its binding end, the group result and the queue entry go. -/
theorem test_special_sources : gives WBound (.add 3 48 48) 3 = 18 ∧ (th (after (exec (.add 3 48 48) WBound))).streams.toList[0]? = some none ∧
    gives WBound (.add 3 52 1) 3 = 16 ∧ (th (after (exec (.add 3 52 1) WBound))).groups.toList[0]? = some (some ⟨3, 1, 1, []⟩) ∧
    gives WBound (.add 3 56 1) 3 = 11 ∧ ((after (exec (.add 3 56 1) WBound)).hwQueue ⟨0, 0, 0⟩ 2).items = [] := by decide +kernel

/-- g56 and g57 bound to queue 2, which holds `q`. -/
def WTwo (q : List Word) : State := (rdy (fun t => { t with queues := (t.queues.set 0 (some ⟨2, none⟩)).set 1 (some ⟨2, none⟩) })).updTile
  ⟨0, 0, 0⟩ (fun x => { x with queues := [(2, ⟨some 0, q⟩)] })
/-- Two registers of one queue read its two oldest entries; with one entry the second is empty (R43, R44). -/
theorem test_one_queue_twice : gives (WTwo [6, 7]) (.sub 3 57 56) 3 = 2 ^ 64 - 1 ∧ (th (after (exec (.add 3 56 57) (WTwo [6])))).wait = some (.reg 57) ∧
    ((after (exec (.add 3 56 57) (WTwo [6]))).hwQueue ⟨0, 0, 0⟩ 2).items = [6] := by decide +kernel

/-- A write of g56 pushes, a write of g0 is discarded, an empty source parks, a write of g48 and a read of unbound g49 take ILLREG. -/
theorem test_special_targets : ((after (exec (.addi 56 1 1) WBound)).hwQueue ⟨0, 0, 0⟩ 2).items = [6, 6] ∧
    gives WBound (.addi 0 1 1) 0 = 0 ∧ (th (after (exec (.add 3 1 20) WBound))).status = .parked ∧
    (th (after (exec (.add 3 1 20) WBound))).pc = 0x100000#64 ∧
    (th (after (exec (.add 48 1 1) WBound))).ecause = 2#64 ∧ (th (after (exec (.add 48 1 1) WBound))).eval = 48#64 ∧
    (th (after (exec (.add 3 49 1) WBound))).eval = 49#64 := by decide +kernel

theorem test_hyps_writing : WBound.thread? 0 = some (th WBound) ∧ plain 1 ∧ plain 47 ∧ plain 60 ∧ plain 63 ∧ (th WBound).slot?.isSome = true ∧
    (th WBound).inbox = [] ∧ (th WBound).groups.toArray.getD (52 - 52) none = some ⟨3, 1, 1, [11]⟩ ∧
    (WBound.group? (th WBound).part 3).isSome = true ∧ (th WBound).queues.toArray.getD (56 - 56) none = some ⟨2, none⟩ := by decide +kernel
theorem test_hyps_special : r74 (.add 3 48 48) = some (.add, false, 3, 48, 48) ∧ Issues WBound 0 (th WBound) [48, 48] [3] 1 ∧
    sourceOf WBound (th WBound) 48 = .value 9 ∧ Issues WBound 0 (th WBound) [52, 52] [3] 1 ∧ sourceOf WBound (th WBound) 52 = .value 11 := by
  and_intros
  all_goals first
    | decide +kernel
    | exact issues_of (by decide +kernel)
    | rfl
theorem test_hyps_special_queue : Issues WBound 0 (th WBound) [56, 56] [3] 1 ∧ sourceOf WBound (th WBound) 56 = .value 6 ∧
    WBound.tids (queueWaiters (th WBound).pos.tileRef 2 true) = [] ∧ r74 (.add 3 56 57) = some (.add, false, 3, 56, 57) ∧
    Issues (WTwo [6, 7]) 0 (th (WTwo [6, 7])) [57, 57] [3] 1 ∧ Issues (WTwo [6]) 0 (th (WTwo [6])) [57, 57] [3] 1 ∧
    Issues (WTwo [6]) 0 (th (WTwo [6])) [56, 56] [3] 1 ∧ sourceOf (WTwo [6]) (th (WTwo [6])) 56 = .value 6 := by
  and_intros
  all_goals first
    | decide +kernel
    | exact issues_of (by decide +kernel)
theorem test_hyps_one_result : oneResult (.add 3 1 2) = some (3, [1, 2]) ∧ Issues WInt 0 (th WInt) [1, 2] [3] 1 ∧ plain 3 ∧
    oneResult (.imm 0 7) = some (0, []) ∧ Issues WInt 0 (th WInt) [] [0] 1 ∧ (th WInt).inbox = [] ∧ (th WInt).wait = none := by
  and_intros
  all_goals first
    | decide +kernel
    | exact issues_of (by decide +kernel)
    | rfl
theorem test_hyps_empty : oneResult (.add 3 1 20) = some (3, [1] ++ 20 :: []) ∧ WBound.cur = some 0 ∧ (th WBound).status = .ready ∧ (th WBound).lost = [] ∧
    sourceOf WBound (th WBound) 1 ≠ .empty ∧ sourceOf WBound (th WBound) 20 = .empty ∧ (WBound.core (th WBound).pos.coreRef).extid.getLsbD 0 = true ∧
    oneResult (.add 48 1 1) = some (48, [1, 1]) ∧ oneResult (.add 3 1 49) = some (3, [1] ++ 49 :: []) ∧ sourceOf WBound (th WBound) 1 ≠ .unbound ∧
    sourceOf WBound (th WBound) 49 = .unbound ∧ sourceOf WBound (th WBound) 49 ≠ .empty := by decide +kernel

def WFlow : State := rdy (fun t => regs [(1, 2 ^ 63), (2, 1), (4, 0x100010), (5, 0x100011), (6, 2)] t)
def pcOf (s : State) (i : Instr) : Nat := (th (after (exec i s))).pc.toNat

/-- Branches count bundles from their own; LOOP falls through when its register reaches 0; JAL links; JR takes ALIGN when misaligned. -/
theorem test_control_flow : pcOf WFlow (.beq 1 1 (-2)) = 0xFFFF0 ∧ pcOf WFlow (.beq 1 2 (-2)) = 0x100008 ∧ pcOf WFlow (.bne 1 2 4) = 0x100020 ∧
    pcOf WFlow (.blt 1 2 4) = 0x100020 ∧ pcOf WFlow (.bge 1 2 4) = 0x100008 ∧ pcOf WFlow (.bltu 1 2 4) = 0x100008 ∧ pcOf WFlow (.bgeu 1 2 4) = 0x100020 ∧
    pcOf WFlow (.loop 2 4) = 0x100008 ∧ gives WFlow (.loop 2 4) 2 = 0 ∧ pcOf WFlow (.loop 6 (-1)) = 0xFFFF8 ∧ gives WFlow (.loop 6 (-1)) 6 = 1 ∧
    pcOf WFlow (.loop 0 4) = 0x100020 ∧ pcOf WFlow (.jmp 3) = 0x100018 ∧ pcOf WFlow (.jal (-1)) = 0xFFFF8 ∧ gives WFlow (.jal (-1)) 61 = 0x100008 ∧
    pcOf WFlow (.jr 7 4) = 0x100010 ∧ gives WFlow (.jr 7 4) 7 = 0x100008 ∧ (th (after (exec (.jr 7 5) WFlow))).ecause = 0x204#64 ∧
    gives WFlow (.jr 7 5) 7 = 0 ∧ pcOf WFlow .snop = 0x100008 ∧ pcOf WFlow .vnop = 0x100008 ∧
    (th (after (exec (.pfx 1) WFlow))).pfx = 17#5 := by decide +kernel

def WPfx : State := rdy (fun t => { t with pfx := 17#5, afterPfx := true })
theorem test_hyps_flow : (∃ c, r89 (.beq 1 1 4) = some (1, 1, 4, c) ∧ c (valueOf WFlow (th WFlow) 1) (valueOf WFlow (th WFlow) 1)) ∧
    (∃ c, r89 (.bltu 1 2 4) = some (1, 2, 4, c) ∧ ¬ c (valueOf WFlow (th WFlow) 1) (valueOf WFlow (th WFlow) 2)) ∧
    Issues WFlow 0 (th WFlow) [1, 1] [] 1 ∧ Issues WFlow 0 (th WFlow) [1, 2] [] 1 ∧ Issues WFlow 0 (th WFlow) [6] [6] 1 ∧ Issues WFlow 0 (th WFlow) [] [] 1 ∧
    Issues WFlow 0 (th WFlow) [] [61] 1 ∧ Issues WFlow 0 (th WFlow) [4] [7] 1 ∧ (valueOf WFlow (th WFlow) 4).toNat % 8 = 0 ∧
    Issues WFlow 0 (th WFlow) [5] [0] 1 ∧ (valueOf WFlow (th WFlow) 5).toNat % 8 ≠ 0 ∧ Issues WFlow 0 (th WFlow) [] [] 0 ∧ (th WFlow).afterPfx = false ∧
    Issues WPfx 0 (th WPfx) [] [] 1 ∧ (th WPfx).afterPfx = true := by
  and_intros
  all_goals first
    | decide +kernel
    | exact ⟨_, rfl, by decide +kernel⟩
    | exact issues_of (by decide +kernel)

/-! ### Decoding and the step -/

def WFetch : State := (bootThread State.reset).withFetchWord 32 0x001440C1
def WIllop : State := placeBundle 0 0x20000 ⟨0, 0, 0, 0⟩ (bootThread State.reset)

theorem fetches_boot (s : State) (t : Thread) (h : s.agenda = []) (h1 : dueEvent s = none) (h2 : s.focus = [⟨0, 0, 0, 0⟩])
    (h3 : pick { s with focus := [] ++ [⟨0, 0, 0, 0⟩] } ⟨0, 0, 0, 0⟩ = some (.thread 0, 0)) (h4 : s.thread? 0 = some t) (h5 : t.kill = .none)
    (h6 : t.khold = false) (h7 : t.tail = none) (h8 : t.lost = []) : Fetches s ⟨0, 0, 0, 0⟩ [] 0 0 t := ⟨h, h1, h2, h3, h4, h7, by simp [h8], by simp [h5], by simp [h6]⟩
def fetchesB (s : State) : Bool :=
  decide (s.agenda = []) && (decide (dueEvent s = none) && (decide (s.focus = [⟨0, 0, 0, 0⟩]) &&
    (decide (pick { s with focus := [] ++ [⟨0, 0, 0, 0⟩] } ⟨0, 0, 0, 0⟩ = some (.thread 0, 0)) && (decide (s.thread? 0 = some (th s)) &&
      (decide ((th s).kill = .none) && (decide ((th s).khold = false) && (decide ((th s).tail = none) && decide ((th s).lost = []))))))))
theorem fetches_of {s : State} (h : fetchesB s = true) : Fetches s ⟨0, 0, 0, 0⟩ [] 0 0 (th s) := by
  simp only [fetchesB, Bool.and_eq_true, decide_eq_true_eq] at h
  exact fetches_boot s (th s) h.1 h.2.1 h.2.2.1 h.2.2.2.1 h.2.2.2.2.1 h.2.2.2.2.2.1 h.2.2.2.2.2.2.1 h.2.2.2.2.2.2.2.1 h.2.2.2.2.2.2.2.2

/-- What the fetch of thread 0 finds, as a check. -/
def fetchB (s : State) (w : Word) : Bool :=
  let m := atFetch s ⟨0, 0, 0, 0⟩ [] 0 0
  match translate m (th s) (th s).pc.toNat 2 with
  | .ok tg => tg.backed && (s.bad tg.ga == false && decide ((fetchBundle m (th s).pos.quadRef tg.ga (th s).codeFrom).1 = w))
  | _ => false
theorem fetch_of {s : State} {w : Word} (h : fetchB s w = true) :
    ∃ tg u, translate (atFetch s ⟨0, 0, 0, 0⟩ [] 0 0) (th s) (th s).pc.toNat 2 = .ok tg ∧ tg.backed = true ∧ s.bad tg.ga = false ∧
      fetchBundle (atFetch s ⟨0, 0, 0, 0⟩ [] 0 0) (th s).pos.quadRef tg.ga (th s).codeFrom = (w, u) := by
  simp only [fetchB] at h
  split at h
  · rename_i tg ht
    simp only [Bool.and_eq_true, beq_iff_eq, decide_eq_true_eq] at h
    exact ⟨tg, _, ht, h.1, h.2.1, Prod.ext h.2.2 rfl⟩
  · cases h

/-- ADD beside VFADD in place. -/
def WPairFetch : State := placeBundle 0x040208D2011440C2#64 0x20000 ⟨0, 0, 0, 0⟩ (bootThread State.reset)
/-- The step after reset with ADD in place runs ADD, and one with no instruction in place takes ILLOP. -/
theorem test_step_runs : (th (after (step WFetch))).pc = 0x100008#64 ∧ (th (after (step WIllop))).ecause = 1#64 ∧
    (th (after (step WIllop))).epc = 0x100000#64 ∧ (th (after (step WPairFetch))).ecause = 0xC#64 := by decide +kernel
theorem test_hyps_step : Fetches WFetch ⟨0, 0, 0, 0⟩ [] 0 0 (th WFetch) ∧ fetchB WFetch 0x001440C1#64 = true ∧
    decodeBundle (BitVec.ofNat 64 0x001440C1) = .ok (.add 3 4 5, .vnop) ∧
    Fetches WIllop ⟨0, 0, 0, 0⟩ [] 0 0 (th WIllop) ∧ fetchB WIllop 0#64 = true ∧ (∃ e, decodeBundle 0#64 = .error e) ∧
    Fetches WPairFetch ⟨0, 0, 0, 0⟩ [] 0 0 (th WPairFetch) ∧ fetchB WPairFetch 0x040208D2011440C2#64 = true ∧
    pairWord 0x040208D2011440C2#64 (.subW 3 4 5) (.vfadd 3 1 2 1 0) = true := by
  and_intros
  all_goals first
    | decide +kernel
    | exact fetches_of (by decide +kernel)
    | exact ok_of_sWord (by decide +kernel)
    | exact error_of_fails (by decide +kernel)
theorem test_hyps_encoding : encode (.add 3 4 5) = some 0x001440C1#32 ∧ Instr.wf (.add 3 4 5) = true ∧ encode (.vadd 3 4 5 0 0) ≠ none ∧ memWf State.reset.mem = true ∧ feWf State.reset.fe = true := by decide +kernel

/-! ### Control registers and exceptions (R64 to R68, R143, R145) -/

def WSys (priv : Nat) : State := rdy (fun t => { regs [(1, 2 ^ 64 - 1), (2, 0x1004), (4, 8)] t with
  tstat := BitVec.ofNat 64 priv, epc := 0x200#64, estat := 0x50#64, pfx := 0#5 })
def thSys (p : Nat) : Thread := th (WSys p)

/-- CWR writes the writable bits; EPC keeps bits 2:0 zero by fault; PRIV and ILLREG as the table's columns say. -/
theorem test_control_registers : (th (after (exec (.cwr 1 0x013) (WSys 0)))).mstat = 0x1F#64 ∧ (th (after (exec (.cwr 4 0x001) (WSys 1)))).epc = 8#64 ∧
    (th (after (exec (.cwr 2 0x001) (WSys 1)))).ecause = 2#64 ∧ (th (after (exec (.cwr 4 0x001) (WSys 0)))).ecause = 3#64 ∧
    (th (after (exec (.cwr 4 0x012) (WSys 2)))).ecause = 2#64 ∧ (th (after (exec (.crd 3 0x3FF) (WSys 2)))).ecause = 2#64 ∧
    (th (after (exec (.cwr 1 0x010) (WSys 0)))).ecause = 2#64 ∧ gives (WSys 0) (.crd 3 0x020) 3 = 31 ∧ gives (WSys 1) (.cswp 3 4 0x001) 3 = 0x200 ∧
    (th (after (exec (.cswp 3 4 0x001) (WSys 1)))).epc = 8#64 := by decide +kernel

theorem test_hyps_control : (∃ r, r64 0x001 = some r ∧ mayRead r (thSys 1).priv ∧ mayWrite r (thSys 1).priv ∧ ¬ mayRead r (thSys 0).priv ∧
      ¬ mayWrite r (thSys 0).priv ∧ r.writeAt ≠ none) ∧
    (∃ r, r64 0x012 = some r ∧ r.writeAt = none) ∧ r64 0x3FF = none ∧ ¬ unassigned 0x001 (valueOf (WSys 1) (thSys 1) 4).toNat ∧
    unassigned 0x001 (valueOf (WSys 1) (thSys 1) 2).toNat ∧
    Issues (WSys 1) 0 (thSys 1) [] [3] 1 ∧ Issues (WSys 1) 0 (thSys 1) [4] [] 1 ∧ Issues (WSys 1) 0 (thSys 1) [4] [3] 1 ∧ Issues (WSys 1) 0 (thSys 1) [2] [3] 1 ∧
    Issues (WSys 0) 0 (thSys 0) [] [3] 1 ∧ Issues (WSys 0) 0 (thSys 0) [4] [3] 1 ∧ Issues (WSys 0) 0 (thSys 0) [4] [] 1 := by
  and_intros
  all_goals first
    | decide +kernel
    | exact ⟨_, rfl, (by unfold mayRead; decide +kernel), ⟨1, rfl, by decide +kernel⟩, (by unfold mayRead; decide +kernel), (fun h => by obtain ⟨p, h1, h2⟩ := h; cases h1; revert h2; decide +kernel), by decide⟩
    | exact ⟨_, rfl, rfl⟩
    | exact (by unfold unassigned; decide +kernel)
    | exact issues_of (by decide +kernel)
    | rfl

/-- TRAP 5 from U: cause 0x20, INFO 5, EPC the next bundle, privilege S; from S: privilege H at the firmware's entry. ERET at S returns. -/
theorem test_trap_eret : (th (after (exec (.trap 5) (WSys 0)))).ecause = 0x520#64 ∧ (th (after (exec (.trap 5) (WSys 0)))).epc = 0x100008#64 ∧
    (th (after (exec (.trap 5) (WSys 0)))).priv = 1 ∧ (th (after (exec (.trap 5) (WSys 0)))).eval = 0#64 ∧
    (th (after (exec (.trap 5) (WSys 1)))).priv = 2 ∧ (th (after (exec (.trap 5) (WSys 1)))).pc = 0x7000000000000#64 ∧
    (th (after (exec .brk (WSys 0)))).epc = 0x100000#64 ∧ (th (after (exec .brk (WSys 0)))).ecause = 0x21#64 ∧
    (th (after (exec .eret (WSys 1)))).pc = 0x200#64 ∧ (th (after (exec .eret (WSys 1)))).priv = 0 ∧ (th (after (exec .eret (WSys 1)))).pfx = 17#5 ∧
    (th (after (exec .eret (WSys 0)))).ecause = 3#64 := by decide +kernel

def WInbox : State := rdy (fun t => { t with tstat := 1#64, inbox := [(false, 7, 9#64)] })
def WOdd : State := rdy (fun t => { t with tstat := 1#64, epc := 0x201#64, estat := 0#64 })
/-- An EPC that is no bundle address takes ALIGN at ERET (R40, R142). -/
theorem test_eret_align : (th (after (exec .eret WOdd))).ecause = 0x204#64 ∧ (th (after (exec .eret WOdd))).eval = 0x201#64 := by decide +kernel
def WHalt : State := rdy (fun t => { t with haltBrk := true })
theorem test_hyps_exceptions : (WSys 0).thread? 0 = some (thSys 0) ∧ Issues (WSys 0) 0 (thSys 0) [] [] 1 ∧ (thSys 0).haltBrk = false ∧
    Issues WHalt 0 (th WHalt) [] [] 1 ∧ (th WHalt).haltBrk = true ∧ (thSys 0).priv = 0 ∧ Issues (WSys 1) 0 (thSys 1) [] [] 1 ∧ (thSys 1).priv = 1 ∧
    bits (thSys 1).estat.toNat 1 0 = 0 ∧ (thSys 1).inbox = [] ∧ Issues WInbox 0 (th WInbox) [] [] 1 ∧ (th WInbox).priv = 1 ∧
    bits (th WInbox).estat.toNat 1 0 = 0 ∧ (th WInbox).inbox = [(false, 7, 9#64)] ∧ plain 7 ∧ (th WInbox).pend.getLsbD 7 = false ∧ (th WInbox).wait = none ∧
    gives WInbox .eret 7 = 9 ∧
    Issues WOdd 0 (th WOdd) [] [] 1 ∧ (th WOdd).priv ≠ 0 ∧ (th WOdd).epc.toNat % 8 ≠ 0 ∧ (th WInbox).epc.toNat % 8 = 0 := by
  and_intros
  all_goals first
    | decide +kernel
    | exact issues_of (by decide +kernel)

/-! ### Fences, clocks, holds (R58, R111, R112, R118, R313) -/

def WRelaxed : State := rdy (fun t => { t with relaxed := [anAccess] })
def WHold : State := rdy (fun t => { t with tstat := 0x4000#64 })
theorem test_hyps_fences : Issues WInt 0 (th WInt) [] [] 1 ∧ (th WInt).lost = [] ∧ (th WInt).relaxed = [] ∧ (th WInt).posted = 0 ∧
    jobsPending WInt (th WInt).pos.tileRef 0 = false ∧ (th WInt).sfuLeft = 0 ∧ Issues WRelaxed 0 (th WRelaxed) [] [] 1 ∧ (th WRelaxed).relaxed ≠ [] ∧
    (th WInt).khold = false ∧ Issues WHold 0 (th WHold) [] [] 1 ∧ (th WHold).khold = true ∧ Issues WInt 0 (th WInt) [] [3] 1 ∧ (th WInt).wait = none ∧
    (th WInt).pos.core < 8 := by
  and_intros
  all_goals first
    | decide +kernel
    | exact issues_of (by decide +kernel)
/-- FENCE.R waits for a relaxed access, FENCE.J does not; YIELD, KHOLD, KLET. -/
theorem test_fences : (th (after (exec (.fence 1) WRelaxed))).wait = some (.fence 1) ∧ (th (after (exec (.fence 2) WRelaxed))).status = .ready ∧
    (th (after (exec (.fence 7) WInt))).status = .ready ∧ (th (after (exec .yield WInt))).notBefore = WInt.nextOwn (th WInt).pos ∧ (th (after (exec .khold WInt))).khold = true ∧
    (th (after (exec .klet WHold))).khold = false ∧ (th (after (exec .ifence WInt))).status = .waking ∧
    (th (after (exec .ifence WRelaxed))).wait = some .drain := by decide +kernel

/-! ### Float, rational and packed arithmetic -/

/-- g1 = 1.0, g2 = 2.0, g4 = -∞ in FP64; g5 = 1.5 in FP32; g6 = 10; g7 = 4 FP16 ones; g8 = MX scale 0x80. -/
def WFp (tstat fctl fmt : Nat) : State := rdy (fun t => { regs [(1, 0x3FF0000000000000), (2, 0x4000000000000000), (4, 0xFFF0000000000000), (5, 0x3FC00000),
  (6, 10), (7, 0x3C003C003C003C00), (8, 0x80), (9, 4)] t with tstat := BitVec.ofNat 64 tstat, fctl := BitVec.ofNat 64 fctl, fmt := BitVec.ofNat 64 fmt })

/-- Exact IEEE results by hand, and what SFU requests capture. -/
theorem test_float : ([(.fadd 3 1 2 1, 0x4008000000000000), (.fsub 3 1 2 1, 0xBFF0000000000000), (.fmul 3 2 2 1, 0x4010000000000000), (.fadd 3 5 5 0, 0x40400000),
  (.fma 1 2 2 1 0, 0), (.fmin 3 1 4 1, 0xFFF0000000000000), (.fmax 3 1 4 1, 0x3FF0000000000000), (.fcmp 3 1 2 1 2, 1), (.fcvt 3 2 1 1, 2), (.fcvt 3 1 1 0, 0x3F800000),
  (.fcvt 3 6 1 3, 0x4024000000000000), (.fsgn 3 1 4 1 0, 0xBFF0000000000000)] : List (Instr × Nat)).all
    (fun x => gives (WFp 0 0 0) x.1 3 == x.2 || x.1 == .fma 1 2 2 1 0) = true := by decide +kernel
theorem test_sfu_request : (th (after (exec (.fdiv 3 1 2 1) (WFp 0 0 0)))).wait = some .sfu ∧
    ((after (exec (.fdiv 3 1 2 1) (WFp 0 0 0))).quad ⟨0, 0, 0, 0⟩).queue = [⟨0, .scalar 3 0x3FE0000000000000#64, 0, false⟩] ∧
    ((after (exec (.fsqrt 3 4 1) (WFp 0 0 0))).quad ⟨0, 0, 0, 0⟩).queue.map (·.res) = [.scalar 3 0x7FF8000000000000#64] ∧
    ((after (exec (.qgcd 3 6 9) (WFp 0 0 0))).quad ⟨0, 0, 0, 0⟩).queue.map (·.res) = [.scalar 3 2#64] ∧
    gives (WFp 0 0 7) (.padd 3 7 7 0) 3 = 0x4000400040004000 := by decide +kernel

theorem test_hyps_float : (∃ r, floatMode (.fadd 3 1 2 1) (th (WFp 0 0 0)).rm (valueOf (WFp 0 0 0) (th (WFp 0 0 0))) = (some r, false) ∧ r.srcs = [1, 2] ∧ r.d = 3) ∧
    (th (WFp 0 0 0)).qmode = false ∧ Issues (WFp 0 0 0) 0 (th (WFp 0 0 0)) [1, 2] [3] 1 ∧
    (∃ r, helper (.qnum 3 6 1) (th (WFp 0 0 0)).qrm (valueOf (WFp 0 0 0) (th (WFp 0 0 0))) = (some r, false) ∧ r.srcs = [6] ∧ r.d = 3) ∧
    Issues (WFp 0 0 0) 0 (th (WFp 0 0 0)) [6] [3] 8 :=
  ⟨⟨_, rfl, rfl, rfl⟩, by decide +kernel, issues_of (by decide +kernel), ⟨_, rfl, rfl, rfl⟩, issues_of (by decide +kernel)⟩
theorem test_hyps_sfu_request : (∃ r, floatMode (.fdiv 3 1 2 1) (th (WFp 0 0 0)).rm (valueOf (WFp 0 0 0) (th (WFp 0 0 0))) = (some r, true) ∧ r.srcs = [1, 2] ∧ r.d = 3) ∧
    (∃ r, rationalMode (.fadd 3 1 2 1) 0 (th (WFp 4096 4096 0)).qrm (valueOf (WFp 4096 4096 0) (th (WFp 4096 4096 0))) = some r ∧ r.srcs = [1, 2] ∧ r.d = 3) ∧
    (∃ r, helper (.qgcd 3 6 9) 0 (valueOf (WFp 0 0 0) (th (WFp 0 0 0))) = (some r, true) ∧ r.srcs = [6, 9] ∧ r.d = 3) ∧
    (th (WFp 4096 4096 0)).qmode = true ∧ Issues (WFp 4096 4096 0) 0 (th (WFp 4096 4096 0)) [1, 2] [3] 8 ∧ Issues (WFp 0 0 0) 0 (th (WFp 0 0 0)) [6, 9] [3] 8 ∧
    ((WFp 0 0 0).quad (th (WFp 0 0 0)).pos.quadRef).queue = [] := by
  and_intros
  all_goals first
    | decide +kernel
    | exact ⟨_, rfl, rfl, rfl⟩
    | exact issues_of (by decide +kernel)
theorem test_hyps_packed : Issues (WFp 0 0 2) 0 (th (WFp 0 0 2)) ([7, 7] ++ scaleSrcs (companion (.padd 3 7 7 8))) [3] 1 ∧
    (∃ r, packedOp (.padd 3 7 7 8) 0 2 0x80 (valueOf (WFp 0 0 2) (th (WFp 0 0 2))) = some r ∧ r.srcs = [7, 7] ∧ r.d = 3) ∧
    packedOp (.pmax 3 7 7 0) 0 9 0x7F (valueOf (WFp 0 0 9) (th (WFp 0 0 9))) = none ∧
    (∃ r, packedOp (.pmax 3 7 7 0) 0 0 0x7F (valueOf (WFp 0 0 9) (th (WFp 0 0 9))) = some r ∧ r.srcs = [7, 7] ∧ r.d = 3) ∧
    bits (th (WFp 0 0 9)).fmt.toNat 3 0 = 9 ∧ Issues (WFp 0 0 9) 0 (th (WFp 0 0 9)) ([7, 7] ++ scaleSrcs (companion (.pmax 3 7 7 0))) [3] 1 ∧
    Issues (WFp 0 0 9) 0 (th (WFp 0 0 9)) ([7, 7] ++ scaleSrcs (companion (.pcdot 3 7 7 0))) [3] 17 := by
  and_intros
  all_goals first
    | decide +kernel
    | exact issues_of (by decide +kernel)
    | exact ⟨_, rfl, rfl, rfl⟩
    | rfl
theorem test_hyps_rounding : (0 < 2 ∧ 4 ≤ 4 ∧ (roundStep 0 false 3 2 false 0).1 = 2 ∧ (roundStep 4 false 1 2 false 0).1 = 1) ∧
    fp64 ∈ [fp64, fp32, fp16, bf16, e5m2, e4m3, e2m1] ∧ (∃ x, fp64.decode 0x3FF0000000000000 = .num x) ∧ fp32 ∈ [fp64, fp32] ∧
    (0x7F800001 < 2 ^ fp32.width ∧ bits 0x7F800001 (fp32.width - 2) fp32.fracBits = 2 ^ fp32.expBits - 1 ∧ 0x7F800001 % 2 ^ fp32.fracBits ≠ 0) ∧
    (0 < 3 ∧ Nat.gcd 3 7 = 1 ∧ bitlen 3 + bitlen 7 ≤ rat32.w) ∧
    (rat32.decode (rat32.encode (.fin true 3 7)) ≠ .ill ∧ rat32.encode (.fin true 3 7) < 2 ^ rat32.width ∧ 1 + 1 * 2 = 1 * 3 ∧
      bitlen (1 / Nat.gcd 1 (2 * 3)) + bitlen (2 * 3 / Nat.gcd 1 (2 * 3)) ≤ rat32.w) :=
  ⟨by decide +kernel, by simp, ⟨_, rfl⟩, by simp, by decide +kernel, by decide +kernel, by decide +kernel⟩

/-- 1/2 − 1/3 is 1/6, and 1/2 − 1/2 the canonical zero (R223). -/
theorem test_rational_sums : rat32.deliver 0 (qAdd (.fin false 1 2) (.fin true 1 3)) = (rat32.encode (.fin false 1 6), noFlags) ∧
    rat32.deliver 3 (qAdd (.fin true 1 2) (.fin false 1 2)) = (1, noFlags) := by decide +kernel

def aReq : SfuReq := ⟨0, .scalar 3 7#64, 1#64, false⟩
def WSfu (queue : List SfuReq) (serving : Option SfuReq) : State := { (rdy (fun t => { t with status := .parked, wait := some .sfu, sfuLeft := 1 })).updQuad
  ⟨0, 0, 0, 0⟩ (fun q => { q with queue := queue, serving := serving }) with obj := .quad ⟨0, 0, 0, 0⟩ }
theorem test_hyps_sfu : ((WSfu [aReq] none).quad ⟨0, 0, 0, 0⟩).serving = none ∧ ((WSfu [aReq] none).quad ⟨0, 0, 0, 0⟩).queue = [aReq] ∧
    ((WSfu [] (some aReq)).quad ⟨0, 0, 0, 0⟩).serving = some aReq ∧ aReq.dead = false ∧ (WSfu [] (some aReq)).thread? 0 = some (th (WSfu [] (some aReq))) ∧
    (th (WSfu [] (some aReq))).slot?.isSome = true ∧ (th (WSfu [] (some aReq))).status = .parked ∧ (th (WSfu [] (some aReq))).wait = some .sfu ∧
    (th (WSfu [] (some aReq))).sfuLeft = 1 ∧ (th (WSfu [] (some aReq))).swapReq = false ∧ (th (WSfu [] (some aReq))).haltReq = false ∧
    (th (WSfu [] (some aReq))).inbox = [] ∧ ((WSfu [] (some { aReq with dead := true })).quad ⟨0, 0, 0, 0⟩).serving = some { aReq with dead := true } := by
  decide +kernel
def WGated : State := (WSfu [aReq] none).updTile ⟨0, 0, 0⟩ (fun x => { x with point := none })
theorem test_hyps_sfu_gated : ((WSfu [aReq] none).tile ⟨0, 0, 0⟩).point ≠ none ∧ (WSfu [aReq] none).obj = .quad ⟨0, 0, 0, 0⟩ ∧
    (WGated.tile ⟨0, 0, 0⟩).point = none ∧ after (exec .sfuServiceStart WGated) = WGated := by decide +kernel
theorem test_sfu_serves : ((after (exec .sfuServiceStart (WSfu [aReq] none))).quad ⟨0, 0, 0, 0⟩).serving = some aReq ∧
    gives (WSfu [] (some aReq)) .sfuComplete 3 = 7 ∧ (th (after (exec .sfuComplete (WSfu [] (some aReq))))).fctl = 1#64 ∧
    (th (after (exec .sfuComplete (WSfu [] (some aReq))))).status = .waking := by decide +kernel

/-! ### Memory (R94 to R110) -/

/-- The page at 0x110000 is the tile's scratchpad, the one at 0x120000 memory of the host, the one at 0x130000 has no FE, the one at 0x150000
is another tile's scratchpad, and the one at 0x160000 is read-only; g1 is an address
in shared memory, g2 one in the scratchpad, where the word 7 stands full and the next word is an empty 0; g9 names a misaligned address. -/
def WMem (f : Thread → Thread) : State :=
  let s := (rdy (fun t => f (regs [(1, 0x100100), (2, 0x110100), (4, 5), (5, 0x120100), (6, 0x130100), (7, 0x140000), (9, 0x110101), (10, 0x110108),
    (11, 0x100108), (12, 0x110110), (13, 0x110118), (14, 0x150000), (15, 0x160000)] t))).updTile ⟨0, 0, 0⟩ (fun x => { x with tlb := x.tlb ++
      [⟨0, 0x8000, 0x110000, 0x10000, 0x200000013F#64, []⟩, ⟨0, 0x8000, 0x120000, 0x10000, 0x80000000000211F#64, []⟩, ⟨0, 0x8000, 0x130000, 0x10000, 0x200000011F#64, []⟩,
       ⟨0, 0x8000, 0x150000, 0x10000, 0x200001013F#64, []⟩, ⟨0, 0x8000, 0x160000, 0x10000, 0x200000013B#64, []⟩] })
  { s with mem := memWrite (memWrite (memWrite (memWrite s.mem 0x20100 8 7) 0x020000000100 8 (2 ^ 64 - 7)) 0x020000000110 8 (2 ^ 32 + 2 ^ 31 + 77))
             0x020000000118 8 (2 ^ 32 + 2 ^ 31), fe := [0x20100 / 8, 0x020000000100 / 8] }
def W : State := WMem id
def memAt (s : State) (i : Instr) (a n : Nat) : Nat := memRead (after (exec i s)).mem a n
def feAt (s : State) (i : Instr) (w : Nat) : Bool := feGet (after (exec i s)).fe w

/-- Loads sign- and zero-extend; stores write their bytes; full/empty operations, atomics and locks as their tables say (scratchpad, at once). -/
theorem test_memory_own : gives W (.ld 3 2 0 0) 3 = 2 ^ 64 - 7 ∧ gives W (.ldU 3 2 0 0) 3 = 249 ∧ gives W (.ldx 3 2 0 1 1) 3 = 0xFFF9 ∧
    memAt W (.st 4 2 1 1) 0x020000000100 8 = 0xFFFFFFFF0005FFF9 ∧ memAt W (.stx 4 2 0 0) 0x020000000100 8 = 0xFFFFFFFFFFFFFF05 ∧
    gives W (.lds 3 2 0) 3 = 2 ^ 64 - 7 ∧ feAt W (.lds 3 2 0) 0x4000000020 = true ∧ gives W (.ldc 3 2 0) 3 = 2 ^ 64 - 7 ∧ feAt W (.ldc 3 2 0) 0x4000000020 = false ∧
    feAt W (.stf 4 10 0) 0x4000000021 = true ∧ memAt W (.stf 4 10 0) 0x020000000108 8 = 5 ∧ feAt W (.feset 10) 0x4000000021 = true ∧
    feAt W (.feclr 2) 0x4000000020 = false ∧ gives W (.fetst 3 2) 3 = 1 ∧ gives W (.fetst 3 10) 3 = 0 := by decide +kernel
theorem test_atomics : memAt W (.amo 3 2 4 0 3 0) 0x020000000100 8 = 2 ^ 64 - 2 ∧ gives W (.amo 3 2 4 0 3 0) 3 = 2 ^ 64 - 7 ∧
    memAt W (.amo 3 2 4 7 2 0) 0x020000000100 8 = 2 ^ 64 - 7 ∧ memAt W (.cas 3 2 4 3) 0x020000000100 8 = 2 ^ 64 - 7 ∧ gives W (.cas 3 2 4 3) 3 = 2 ^ 64 - 7 ∧
    memAt W (.lock 3 10) 0x020000000108 8 = 2 ^ 32 + 2 ^ 31 ∧ gives W (.lock 3 10) 3 = 1 ∧ memAt W (.unlk 3 13) 0x020000000118 8 = 0 ∧ gives W (.unlk 3 13) 3 = 0 ∧
    gives W (.unlk 3 2) 3 = 2 ^ 64 - 1 ∧ gives W (.famo 3 10 4 0 1) 3 = 0 ∧ memAt W (.famo 3 10 4 0 1) 0x020000000108 8 = 5 := by decide +kernel
/-- A shared access parks until its reply; an empty word and a held lock wait; ALIGN, PERM, RAPERM, FEPAGE and a translation miss. -/
theorem test_memory_waits_faults : (th (after (exec (.ld 3 1 0 3) W))).wait = some (.reply 3 7#64) ∧ memAt W (.st 4 1 0 3) 0x20100 8 = 5 ∧
    (th (after (exec (.lds 3 10 0) W))).wait = some .word ∧ (th (after (exec (.lock 3 12) W))).wait = some .lock ∧
    (th (after (exec (.ld 3 9 0 1) W))).ecause = 4#64 ∧ (th (after (exec (.st 4 9 0 1) W))).ecause = 0x104#64 ∧
    (th (after (exec (.amo 3 5 4 0 3 0) W))).ecause = 0x307#64 ∧ (th (after (exec (.lds 3 6 0) W))).ecause = 0x308#64 ∧
    (th (after (exec (.ld 3 7 0 3) W))).wait = some (.walk 0x140000 0) ∧ (th (after (exec (.ld 3 2 0 3) (WMem (fun t => { t with pfx := 17#5 }))))).status = .ready := by
  decide +kernel

def form (i : Instr) : MemForm := (memForm i (valueOf W (th W))).getD ⟨[], 0, 1, 0, 0, false, false, fun _ _ _ => .waits⟩
/-- The target of an access, and the conditions of `OwnWord`, as a check. -/
def target (i : Instr) : Target := match translate W (th W) (form i).ea.toNat (form i).kind with
  | .ok tg => tg
  | _ => ⟨0, 0, 0, 0⟩
def isOk (i : Instr) : Bool := match translate W (th W) (form i).ea.toNat (form i).kind with
  | .ok _ => true
  | _ => false
theorem ok_of {i : Instr} (h : isOk i = true) : translate W (th W) (form i).ea.toNat (form i).kind = .ok (target i) := by
  unfold isOk at h; unfold target
  split <;> simp_all
def ownB (i : Instr) : Bool := isOk i && (decide ((form i).ea.toNat % (form i).bytes = 0) && (decide ((target i).aper = 0) && (reachable (th W) (target i) &&
  (decide ((form i).fe = true → leafFE (target i).leaf = true) && (decide ((form i).ind = false → inRange W (th W).part (target i) = false) &&
  (decide (W.bad (target i).ga = false ∧ (th W).pfx = 0 ∧ (th W).tent = false ∧ (th W).lost = [] ∧ (th W).relaxed = [] ∧
    tableCached W ((target i).ga / 8) = false)))))))
theorem own_of {i : Instr} (h : ownB i = true) : OwnWord W (th W) (form i) (target i) := by
  simp only [ownB, Bool.and_eq_true, decide_eq_true_eq] at h
  obtain ⟨h1, h2, h3, h4, h5, h6, h7, h8, h9, ha, hb, hc⟩ := h
  exact ⟨h2, ok_of h1, h3, h4, h5, h6, h7, h8, h9, ha, hb, hc⟩
/-- The old value is `o` and the effect is done. -/
def doneB (i : Instr) : Bool := match (form i).effect (memRead W.mem (target i).ga (form i).bytes) (feGet W.fe ((target i).ga / 8)) (th W).crew.id26 with
  | .done _ _ _ => true
  | .waits => false
theorem test_hyps_memory : (∀ i ∈ ([.ld 3 1 0 3, .st 4 2 0 3, .stf 4 10 0, .cas 3 2 4 3, .lock 3 10] : List Instr), memForm i (valueOf W (th W)) = some (form i)) ∧
    OwnWord W (th W) (form (.ld 3 1 0 3)) (target (.ld 3 1 0 3)) ∧ OwnWord W (th W) (form (.st 4 2 0 3)) (target (.st 4 2 0 3)) ∧
    OwnWord W (th W) (form (.stf 4 10 0)) (target (.stf 4 10 0)) ∧ OwnWord W (th W) (form (.cas 3 2 4 3)) (target (.cas 3 2 4 3)) ∧
    Issues W 0 (th W) [1] [3] 1 ∧ Issues W 0 (th W) [4, 2] [] 1 ∧ Issues W 0 (th W) [4, 10] [] 1 ∧ Issues W 0 (th W) [3, 2, 4] [3] 1 ∧
    doneB (.ld 3 1 0 3) = true ∧ doneB (.st 4 2 0 3) = true ∧ doneB (.stf 4 10 0) = true ∧ doneB (.cas 3 2 4 3) = true ∧
    (th W).wait = none ∧ (th W).inbox = [] ∧ W.feWaiters = [] ∧ StillMapped W (target (.st 4 2 0 3)).ga 8 (some 5) ∧ W.lockWaiters = [] ∧ fixedLatency (target (.ld 3 1 0 3)) = false ∧
    fixedLatency (target (.st 4 2 0 3)) = true := by
  and_intros
  all_goals first
    | decide +kernel
    | exact by intro i hi; simp only [List.mem_cons, List.not_mem_nil, or_false] at hi; rcases hi with rfl | rfl | rfl | rfl | rfl <;> rfl
    | exact own_of (by decide +kernel)
    | exact issues_of (by decide +kernel)
    | (unfold StillMapped; decide +kernel)

/-- Waiters in park order: an LDC first, and a lock's. -/
def WWait (w : Wait) : State := { (rdy (fun t => { t with status := .parked, wait := some w })) with
  feWaiters := [⟨0, 5, 40, 3, true, none, none⟩], lockWaiters := [⟨0, 5, 3, none⟩] }
/-- An LDS of thread 0, an LDC of thread 1, an LDC of thread 2, all of one word, in park order. -/
def waiters : List FeWaiter := [⟨0, 5, 40, 3, false, none, none⟩, ⟨1, 5, 40, 4, true, none, none⟩, ⟨2, 5, 40, 5, true, none, none⟩]
def WWaits : State :=
  let t := { th (WWait .word) with lastIssue := none }
  let s := { WWait .word with feWaiters := waiters, lockWaiters := [] }
  { s with threads := s.threads ++ [(1, { t with place := .slot ⟨0, 0, 0, 1, 0⟩ }), (2, { t with place := .slot ⟨0, 0, 0, 2, 0⟩ })],
           mem := memWrite s.mem 40 8 9 }
/-- A fill serves the LDS, then the first LDC, which empties the word; the second LDC waits on (R102). -/
theorem test_fill_serves : ((setFe 5 true WWaits).thread? 0).map (fun t => t.reg 3) = some 9#64 ∧
    ((setFe 5 true WWaits).thread? 1).map (fun t => t.reg 4) = some 9#64 ∧ ((setFe 5 true WWaits).thread? 2).map (·.status) = some .parked ∧
    (setFe 5 true WWaits).feWaiters = waiters.drop 2 ∧ feGet (setFe 5 true WWaits).fe 5 = false := by decide +kernel
theorem test_hyps_fill : WWaits.feWaiters.filter (fun y => y.word == 5) = waiters.take 1 ++ ⟨1, 5, 40, 4, true, none, none⟩ :: waiters.drop 2 ∧
    (∀ y ∈ waiters.take 1, y.consume = false) ∧ WWaits.feWaiters.Nodup ∧ (waiters.map (·.tid)).Nodup ∧
    (∀ y ∈ waiters.take 2, y.job = none ∧ y.req = none ∧ plain y.d ∧ ((WWaits.thread? y.tid).map (fun t => t.slot?.isSome && (decide (t.status = .parked) &&
      (decide (t.wait = some .word) && (t.sfuLeft == 0 && t.inbox.isEmpty))))) = some true) := by decide +kernel
theorem test_hyps_waits : OwnWord W (th W) (form (.lds 3 10 0)) (target (.lds 3 10 0)) ∧ doneB (.lds 3 10 0) = false ∧ Issues W 0 (th W) [10] [3] 1 ∧
    OwnWord W (th W) (form (.lock 3 12)) (target (.lock 3 12)) ∧ doneB (.lock 3 12) = false ∧ Issues W 0 (th W) [12] [3] 1 ∧
    (WWait .word).thread? 0 = some (th (WWait .word)) ∧ (th (WWait .word)).status = .parked ∧ (th (WWait .word)).wait = some .word ∧ (th (WWait .word)).sfuLeft = 0 ∧
    (th (WWait .word)).slot?.isSome = true ∧ (th (WWait .word)).inbox = [] ∧ (th (WWait .lock)).wait = some .lock ∧ memWf (WWait .lock).mem = true ∧
    (th (WWait .lock)).crew.id26 < 2 ^ 26 ∧ (WWait .lock).thread? 0 = some (th (WWait .lock)) ∧ (WWait .lock).lockWaiters = [⟨0, 5, 3, none⟩] := by
  and_intros
  all_goals first
    | decide +kernel
    | exact own_of (by decide +kernel)
    | exact issues_of (by decide +kernel)
def missB (i : Instr) : Bool := match translate W (th W) (form i).ea.toNat (form i).kind with
  | .miss => true
  | _ => false
theorem miss_of {i : Instr} (h : missB i = true) : translate W (th W) (form i).ea.toNat (form i).kind = .miss := by
  unfold missB at h; split at h <;> simp_all
def faultB (i : Instr) (c : Nat) : Bool := match translate W (th W) (form i).ea.toNat (form i).kind with
  | .fault x => x == c
  | _ => false
theorem fault_of {i : Instr} {c : Nat} (h : faultB i c = true) : translate W (th W) (form i).ea.toNat (form i).kind = .fault c := by
  unfold faultB at h; split at h <;> simp_all
theorem test_hyps_memory_faults : (form (.ld 3 9 0 1)).ea.toNat % (form (.ld 3 9 0 1)).bytes ≠ 0 ∧ Issues W 0 (th W) [9] [3] 1 ∧
    translate W (th W) (form (.ld 3 7 0 3)).ea.toNat (form (.ld 3 7 0 3)).kind = .miss ∧ Issues W 0 (th W) [7] [3] 1 ∧
    translate W (th W) (form (.ld 3 14 0 3)).ea.toNat (form (.ld 3 14 0 3)).kind = .ok (target (.ld 3 14 0 3)) ∧ reachable (th W) (target (.ld 3 14 0 3)) = false ∧
    translate W (th W) (form (.st 4 15 0 3)).ea.toNat (form (.st 4 15 0 3)).kind = .fault 6 ∧ Issues W 0 (th W) [14] [3] 1 ∧ Issues W 0 (th W) [4, 15] [] 1 ∧
    translate W (th W) (form (.amo 3 5 4 0 3 0)).ea.toNat (form (.amo 3 5 4 0 3 0)).kind = .ok (target (.amo 3 5 4 0 3 0)) ∧
    (target (.amo 3 5 4 0 3 0)).aper = 2 ∧ (form (.amo 3 5 4 0 3 0)).ind = true ∧ reachable (th W) (target (.amo 3 5 4 0 3 0)) = true ∧
    Issues W 0 (th W) [5, 4] [3] 1 ∧
    translate W (th W) (form (.lds 3 6 0)).ea.toNat (form (.lds 3 6 0)).kind = .ok (target (.lds 3 6 0)) ∧ (target (.lds 3 6 0)).aper = 0 ∧
    leafFE (target (.lds 3 6 0)).leaf = false ∧ reachable (th W) (target (.lds 3 6 0)) = true ∧ Issues W 0 (th W) [6] [3] 1 := by
  and_intros
  all_goals first
    | decide +kernel
    | exact issues_of (by decide +kernel)
    | exact miss_of (by decide +kernel)
    | exact ok_of (by decide +kernel)
    | exact fault_of (by decide +kernel)

/-- Three table levels of 4 KiB, 32 KiB apart, from 0x200000: VA 0x140000 is a page of 64 KiB at 0x300000, VA 0x340000 one of 2 MiB. -/
def WTables : State :=
  let words := [(0x200000, 0x20801), (0x208000, 0x21001), (0x2100A0, 0x3013F), (0x210100, 0x40033F)]
  { W with mem := words.foldl (fun m e => memWrite m e.1 8 e.2) W.mem }
/-- A walk gives the page and its leaf, a large page when the first entry of its group says so, and XLATE where no entry is valid (R151 to R155). -/
theorem test_walk : (walk WTables 0x200000 0 0 0x140123).map (fun x => (x.va, x.size, x.leaf.toNat)) = some (0x140000, 0x10000, 0x3013F) ∧
    (walk WTables 0x200000 0 0 0x340123).map (fun x => (x.va, x.size, x.leaf.toNat)) = some (0x200000, 0x200000, 0x40033F) ∧
    (walk WTables 0x200000 0 0 0x150000).isNone = true ∧ (walk WTables 0x200000 0 0 0x8000000000000).isNone = true ∧
    translateNow WTables ⟨0, 0, 0⟩ 0x200000 0 0 0x140123 1 = .ok ⟨0, 0, 0x300123, 0x3013F⟩ := by decide +kernel
theorem test_hyps_walk : ((⟨0, 0, 0⟩ : TileRef).pkg = 0) ∧
    ∀ e ∈ (WTables.tile ⟨0, 0, 0⟩).tlb, ¬(e.part = 0 ∧ e.root = 0x200000 ∧ e.va ≤ 0x140123 ∧ 0x140123 < e.va + e.size) := by decide +kernel

/-- Thread 0 with one relaxed access outstanding, at its reply. -/
def WReply (op : AccOp) (d : Nat) : State :=
  { WMem (fun t => { t with relaxed := [{ anAccess with op := op, pa := 0x20100, a := 77, d := d }] }) with obj := .threadNum 0 1 }
theorem test_relaxed_reply : gives (WReply (.load 8 true) 3) .relaxedReply 3 = 7 ∧ (th (after (exec .relaxedReply (WReply (.load 8 true) 3)))).relaxed = [] ∧
    memAt (WReply (.store 8) 0) .relaxedReply 0x20100 8 = 77 := by decide +kernel
theorem test_hyps_reply : (WReply (.load 8 true) 3).obj = .threadNum 0 1 ∧ memWf (WReply (.load 8 true) 3).mem = true ∧
    (th (WReply (.load 8 true) 3)).slot?.isSome = true ∧ (th (WReply (.load 8 true) 3)).wait = none ∧
    (th (WReply (.load 8 true) 3)).relaxed.find? (fun x => x.id == 1) = some ⟨1, 0, .load 8 true, 0x100000, 0x20100, 77, 0, 3, false, false⟩ ∧
    (WReply (.load 8 true) 3).reqs.get? 1 = none ∧ (th (WReply (.load 8 true) 3)).relaxed.takeWhile (fun x => x.id != 1) = [] ∧
    (WReply (.load 8 true) 3).feWaiters = [] ∧ (WReply (.load 8 true) 3).lockWaiters = [] ∧ (th (WReply (.load 8 true) 3)).inbox = [] ∧
    (th (WReply (.store 8) 0)).relaxed.find? (fun x => x.id == 1) = some ⟨1, 0, .store 8, 0x100000, 0x20100, 77, 0, 0, false, false⟩ := by decide +kernel

def WRel (n : Nat) : State := WMem (fun t => { t with pfx := 17#5, relaxed := List.replicate n anAccess })
theorem test_hyps_relaxed : (∃ f, memForm (.ld 3 1 0 3) (valueOf (WRel 7) (th (WRel 7))) = some f ∧ f.ea = 0x100100#64 ∧ f.bytes = 8) ∧
    Issues (WRel 7) 0 (th (WRel 7)) [1] [3] 1 ∧ plain 3 ∧ plain 1 ∧ (th (WRel 7)).pfx = 17#5 ∧
    (∃ tg, translate (WRel 7) (th (WRel 7)) 0x100100 0 = .ok tg ∧ (decide (tg.aper = 0) && (reachable (th (WRel 7)) tg && decide (inRange (WRel 7) 0 tg = false ∧
      (WRel 7).bad tg.ga = false ∧ fixedLatency tg = false))) = true) ∧
    (∃ tg, translate (WRel 7) (th (WRel 7)) 0x110100 0 = .ok tg ∧ (decide (tg.aper = 0) && (reachable (th (WRel 7)) tg && decide (inRange (WRel 7) 0 tg = false ∧
      (WRel 7).bad tg.ga = false ∧ fixedLatency tg = true ∧ tableCached (WRel 7) (tg.ga / 8) = false))) = true) ∧
    Issues (WRel 7) 0 (th (WRel 7)) [2] [3] 1 ∧ gives (WRel 8) (.ld 3 2 0 3) 3 = 2 ^ 64 - 7 ∧
    (th (WRel 7)).relaxed.length < 8 ∧ Issues (WRel 8) 0 (th (WRel 8)) [1] [3] 1 ∧ 8 ≤ (th (WRel 8)).relaxed.length ∧
    (th (after (exec (.ld 3 1 0 3) (WRel 7)))).relaxed.length = 8 ∧ (th (after (exec (.ld 3 1 0 3) (WRel 8)))).wait = some .ninth := by
  and_intros
  all_goals first
    | decide +kernel
    | exact ⟨_, rfl, by decide +kernel, by decide +kernel⟩
    | exact issues_of (by decide +kernel)
    | exact okT_of (by decide +kernel)

/-! ### Vector instructions -/

/-- Eight lanes held; v1 = 0 … 7, v2 = ten in each, v3 = 1.0 in each (FP32), v4 = -1; m1 enables lane 0 and lane 7. -/
def vecs (n : Nat) (t : Thread) : Thread :=
  let v := ((t.v.set 1 ((List.range n).map (BitVec.ofNat 32 ·))).set 2 (List.replicate n 10#32)).set 3 (List.replicate n 0x3F800000#32)
  { t with
    vlen := n
    claim := .held n
    v := v.set 4 (List.replicate n (BitVec.allOnes 32))
    m := t.m.set 1 ((List.range n).map (fun l => l == 0 || l + 1 == n)) }
def WVec (n : Nat) : State := WMem (vecs n)
def lanesOf (s : State) (i : Instr) (r : Nat) : List Nat := ((th (after (exec i s))).v.toArray.getD r []).map (·.toNat)

/-- Element results by hand: integer, float, dot, conversions, moves. -/
theorem test_vector : lanesOf (WVec 8) (.vadd 5 1 2 0 0) 5 = [10, 11, 12, 13, 14, 15, 16, 17] ∧ lanesOf (WVec 8) (.vsub 5 1 2 1 0) 5 = [2 ^ 32 - 10, 0, 0, 0, 0, 0, 0, 2 ^ 32 - 3] ∧
    lanesOf (WVec 8) (.vfadd 5 3 3 0 0) 5 = List.replicate 8 0x40000000 ∧ lanesOf (WVec 8) (.vdot4 5 4 4 1 0 0) 5 = [4, 5, 6, 7, 8, 9, 10, 11] ∧
    lanesOf (WVec 8) (.vslide 5 1 1) 5 = [1, 2, 3, 4, 5, 6, 7, 0] ∧ lanesOf (WVec 8) (.vbcast 5 4 2) 5 = List.replicate 8 0x50005 ∧
    lanesOf (WVec 8) (.vins 5 4 7) 5 = [0, 0, 0, 0, 0, 0, 0, 5] ∧ lanesOf (WVec 8) (.vfcvt 5 1 0 3 0 0) 5 = [0, 0x3F800000, 0x40000000, 0x40400000, 0x40800000,
      0x40A00000, 0x40C00000, 0x40E00000] ∧ lanesOf (WVec 8) (.vzip 5 1 2 1 0 0) 5 = [4, 10, 5, 10, 6, 10, 7, 10] ∧
    lanesOf (WVec 8) (.vunzip 5 1 2 1 0 0) 5 = [1, 3, 5, 7, 10, 10, 10, 10] ∧ lanesOf (WVec 8) (.vmulh 5 4 4 0 0) 5 = List.replicate 8 0 ∧
    lanesOf (WVec 8) (.vabs 5 4 0 4) 5 = List.replicate 8 0x01010101 := by decide +kernel
theorem test_vector_masks : ((th (after (exec (.vcmp 2 1 2 2 0 0) (WVec 8)))).m.toArray.getD 2 []) = List.replicate 8 true ∧
    ((th (after (exec (.mnot 2 1) (WVec 8)))).m.toArray.getD 2 []) = [false, true, true, true, true, true, true, false] ∧
    (th (after (exec (.mnot 0 1) (WVec 8)))).ecause = 2#64 ∧ gives (WVec 8) (.vrsum 1 3 0 0) 3 = 28 ∧ gives (WVec 8) (.vrmax 4 3 1 0) 3 = 2 ^ 32 - 1 ∧
    gives (WVec 8) (.vrmin 1 3 0 1) 3 = 0 ∧ gives (WVec 8) (.mpop 1 3) 3 = 2 ∧ gives (WVec 8) (.vextr 1 3 7) 3 = 7 ∧ gives (WVec 8) (.vfrsum 3 3 0 0) 3 = 0x41000000 ∧
    (th (after (exec (.vadd 5 1 2 0 0) W))).ecause = 0x0C#64 ∧ gives W (.vclaim 4) 4 = 8 ∧ (th (after (exec .vrel (WVec 8)))).vlen = 0 ∧
    (th (after (exec (.vexp 5 3 0) (WVec 8)))).wait = some .sfu := by decide +kernel

theorem test_hyps_vector : (∃ f, vform (.vadd 5 1 2 1 0) (th (WVec 8)) (valueOf (WVec 8) (th (WVec 8))) = some f ∧ f.srcs = [] ∧ f.gd = none ∧ f.ext = 2) ∧
    Instr.wf (.vadd 5 1 2 1 0) = true ∧ (th (WVec 8)).vlen ≠ 0 ∧ Issues (WVec 8) 0 (th (WVec 8)) [] [] 2 ∧
    (∃ f x, vform (.vfcvt 5 3 20 0 7 0) (th (WVec 8)) (valueOf (WVec 8) (th (WVec 8))) = some f ∧ f.srcs = [] ∧ f.gd = some (20, x)) ∧
    Issues (WVec 8) 0 (th (WVec 8)) [] [20] 2 ∧ Issues (WVec 128) 0 (th (WVec 128)) [] [] 18 := by
  and_intros
  all_goals first
    | decide +kernel
    | exact ⟨_, rfl, rfl, rfl, rfl⟩
    | exact issues_of (by decide +kernel)
    | exact ⟨_, _, rfl, rfl, rfl⟩
theorem test_hyps_masks : (∃ b, mform (.vcmp 2 1 2 5 1 0) (th (WVec 8)) = some (2#3, 1#3, b)) ∧ (∃ b, mform (.mnot 0 1) (th (WVec 8)) = some (0#3, 0, b)) ∧
    (∃ v fl, gform (.vrsum 1 3 0 0) (th (WVec 8)) = some (3, v, fl)) ∧ Issues (WVec 8) 0 (th (WVec 8)) [] [3] 2 :=
  ⟨⟨_, rfl⟩, ⟨_, rfl⟩, ⟨_, _, rfl⟩, issues_of (by decide +kernel)⟩
def WLanes : State := { ((rdy (fun t => { vecs 8 t with status := .parked, wait := some .sfu, sfuLeft := 1 })).updQuad ⟨0, 0, 0, 0⟩ (fun q =>
  { q with serving := some ⟨0, .lanes 5 (List.replicate 8 9#32) (List.replicate 8 true), 0, false⟩ })) with obj := .quad ⟨0, 0, 0, 0⟩ }
theorem test_hyps_vsfu : r232 (.vexp 5 3 1) = some (5, 3, 1, 0) ∧ r233 0 0x80000000 = some (0x3F800000, noFlags) ∧ r233 7 0x3F800000 = none ∧
    0x7F800000 < (0x7F800001#32 : Lane).toNat % 2 ^ 31 ∧ ¬ 0x7F800000 < (0x7F800000#32 : Lane).toNat % 2 ^ 31 ∧
    (WLanes.quad ⟨0, 0, 0, 0⟩).serving = some ⟨0, .lanes 5 (List.replicate 8 9#32) (List.replicate 8 true), 0, false⟩ ∧ (th WLanes).vlen = 8 ∧
    WLanes.thread? 0 = some (th WLanes) ∧ (th WLanes).slot?.isSome = true ∧ (th WLanes).status = .parked ∧ (th WLanes).wait = some .sfu ∧ (th WLanes).sfuLeft = 1 ∧
    (WLanes.tile ⟨0, 0, 0⟩).point ≠ none ∧ (th WLanes).swapReq = false ∧ (th WLanes).haltReq = false ∧ lanesOf WLanes .sfuComplete 5 = List.replicate 8 9 := by decide +kernel
theorem test_hyps_claims : Issues W 0 (th W) [4] [4] 2 ∧ Issues W 0 (th W) [] [] 2 ∧ (th W).vlen = 0 ∧
    (∃ f, vform (.vadd 5 1 2 1 0) (th W) (valueOf W (th W)) = some f ∧ f.srcs = [] ∧ f.gd = none ∧ f.ext = 2) ∧ (∃ b, mform (.mnot 1 1) (th W) = some (1#3, 0, b)) ∧
    (∃ v fl, gform (.mpop 1 3) (th W) = some (3, v, fl)) ∧ Issues W 0 (th W) [] [3] 2 ∧ (∃ f, vmem (.vld 5 2 0) (th W) (valueOf W (th W)) = some f ∧ f.srcs = [2]) ∧
    Issues W 0 (th W) [2] [] 2 := by
  and_intros
  all_goals first
    | decide +kernel
    | exact issues_of (by decide +kernel)
    | exact ⟨_, rfl, rfl, rfl, rfl⟩
    | exact ⟨_, rfl⟩
    | exact ⟨_, _, rfl⟩
    | exact ⟨_, rfl, rfl⟩

/-- The conditions of the statement on the elements of a vector memory instruction, as a check. -/
def vmemB (s : State) (f : VMem) (tg : Nat → Target) : Bool :=
  let t := th s
  (List.range t.vlen).all (fun l => !maskBit t f.k l || (decide ((f.ea l).toNat % f.b = 0) && (fixedLatency (tg l) && (reachable t (tg l) &&
    (decide (inRange s t.part (tg l) = false ∧ s.bad (tg l).ga = false ∧ tableCached s ((tg l).ga / 8) = false) &&
    [s, afterIssue s 0 t f.srcs].all (fun m => match translate m t (f.ea l).toNat (if f.load then 0 else 1) with
      | .ok x => decide (x = tg l)
      | _ => false)))))) &&
  decide (t.vlen ≠ 0 ∧ t.lost = [] ∧ t.relaxed = [] ∧ s.feWaiters = [] ∧ s.lockWaiters = [])
/-- The passes of its elements (R198). -/
def passesIn (s : State) (f : VMem) (tg : Nat → Target) : List (List Nat) :=
  r198 (fun l => (tg l).ga / 8) [] ((List.range (th s).vlen).filter (fun l => maskBit (th s) f.k l))

/-- Lane l of VLD v5, (g2) at g2 + 4 l in the scratchpad. -/
def vld : VMem := (vmem (.vld 5 2 1) (th (WVec 8)) (valueOf (WVec 8) (th (WVec 8)))).getD ⟨0, 0, 4, true, [], fun _ => 0⟩
def vtg (l : Nat) : Target := ⟨0, 0, 0x020000000100 + 4 * l, 0x200000013F⟩
theorem test_hyps_vmem : vmem (.vld 5 2 1) (th (WVec 8)) (valueOf (WVec 8) (th (WVec 8))) = some vld ∧
    vmem (.vst 5 2 1) (th (WVec 8)) (valueOf (WVec 8) (th (WVec 8))) = some { vld with load := false } ∧
    vld.srcs = [2] ∧ Issues (WVec 8) 0 (th (WVec 8)) [2] [] 2 ∧ (th (WVec 8)).vmemPass = 0 ∧ (th (WVec 8)).tail = none ∧ (WVec 8).cut = 0 ∧ vmemB (WVec 8) vld vtg = true ∧
    vmemB (WVec 8) { vld with load := false } vtg = true ∧ (passesIn (WVec 8) vld vtg).length = 1 := by
  and_intros
  all_goals first
    | decide +kernel
    | exact issues_of (by decide +kernel)
    | rfl

/-- Sixteen lanes, 256 bytes apart: all in one bank, so eight of them are served in each of two passes. -/
def WPass (p : Nat) : State := WMem (fun t => { vecs 16 (t.setReg 3 256) with vmemPass := p, vmemRead := if p = 0 then [] else (List.range 8).map (fun l =>
  (l, BitVec.ofNat 32 l)) })
def vlds : VMem := (vmem (.vlds 5 2 3 0 2) (th (WPass 0)) (valueOf (WPass 0) (th (WPass 0)))).getD ⟨0, 0, 4, true, [], fun _ => 0⟩
def vtgs (l : Nat) : Target := ⟨0, 0, 0x020000000100 + 256 * l, 0x200000013F⟩
theorem test_hyps_passes : vmem (.vlds 5 2 3 0 2) (th (WPass 0)) (valueOf (WPass 0) (th (WPass 0))) = some vlds ∧
    vmem (.vsts 5 2 3 0 2) (th (WPass 0)) (valueOf (WPass 0) (th (WPass 0))) = some { vlds with load := false } ∧ vlds.srcs = [2, 3] ∧
    vmem (.vlds 5 2 3 0 2) (th (WPass 1)) (valueOf (WPass 1) (th (WPass 1))) = some vlds ∧
    Issues (WPass 0) 0 (th (WPass 0)) [2, 3] [] 2 ∧ Issues (WPass 1) 0 (th (WPass 1)) [2, 3] [] 2 ∧ vmemB (WPass 0) vlds vtgs = true ∧
    vmemB (WPass 1) vlds vtgs = true ∧ vmemB (WPass 0) { vlds with load := false } vtgs = true ∧
    passesIn (WPass 0) vlds vtgs = [List.range 8, [8, 9, 10, 11, 12, 13, 14, 15]] ∧ (th (WPass 0)).vmemPass + 1 < 2 ∧ (th (WPass 1)).vmemPass + 1 = 2 := by
  and_intros
  all_goals first
    | decide +kernel
    | exact issues_of (by decide +kernel)
    | rfl
/-- The first pass reads its eight elements and does not issue; with the second the load writes all sixteen lanes (R198). -/
theorem test_vmem_passes : (th (after (exec (.vlds 5 2 3 0 2) (WPass 0)))).pc = 0x100000#64 ∧ (th (after (exec (.vlds 5 2 3 0 2) (WPass 0)))).vmemPass = 1 ∧
    ((th (after (exec (.vlds 5 2 3 0 2) (WPass 0)))).vmemRead.map (·.2.toNat)) = [0xFFFFFFF9, 0, 0, 0, 0, 0, 0, 0] ∧
    lanesOf (WPass 1) (.vlds 5 2 3 0 2) 5 = [0, 1, 2, 3, 4, 5, 6, 7, 0, 0, 0, 0, 0, 0, 0, 0] := by decide +kernel
/-- A turn that cuts VLD v5 after its first element: the other one is left; the next turn of the access makes it (log 41). -/
def WCut : State := { WVec 8 with cut := 1 }
def WTail : State := { after (exec (.vld 5 2 1) WCut) with agenda := [.part 0 0] }
theorem test_vmem_cut : ((th WTail).tail.map (fun x => (x.got.map (·.2.toNat), x.todo, x.vd))) = some ([0xFFFFFFF9], [(7, 0x02000000011C)], some 5) ∧
    (th WTail).pc = 0x100008#64 ∧ ((th (after (exec (.vst 5 2 1) WCut))).tail.map (fun x => x.todo)) = some [(7, 0x02000000011C)] := by decide +kernel
theorem test_hyps_vmem_cut : Issues WCut 0 (th WCut) [2] [] 2 ∧ vmemB WCut vld vtg = true ∧ 0 < WCut.cut ∧
    WCut.cut < ((passesIn WCut vld vtg).getD (th WCut).vmemPass []).length ∧ (th WCut).vmemPass + 1 ≤ (passesIn WCut vld vtg).length ∧
    WTail.agenda = .part 0 0 :: [] ∧ WTail.thread? 0 = some (th WTail) ∧ ((th WTail).tail.map (fun x => (x.load, decide (0 < x.todo.length)))) = some (true, true) := by
  and_intros
  all_goals first
    | decide +kernel
    | exact issues_of (by decide +kernel)
/-- VLD zero-extends each enabled lane and keeps the others; VSTS with stride 0 leaves the highest lane's element. -/
theorem test_vmem : lanesOf (WVec 8) (.vld 5 2 1) 5 = [0xFFFFFFF9, 0, 0, 0, 0, 0, 0, 1] ∧ memAt (WVec 8) (.vsts 1 2 0 0 1) 0x020000000100 8 = 0xFFFFFFFFFFFF0007 := by
  decide +kernel

/-! ### Bundles of two instructions, moves, the undo log (R41, R56, R95, R125, R311) -/

/-- A pair, and what it leaves in a register. -/
def pairOf (s : State) (j v : Instr) : State := after (issue (semOf j) (semOf v) s)
/-- Both slots read old values; the flags and the vector write happen; common destinations and faults leave nothing (R41, R52, R142). -/
theorem test_pairs : ((th (pairOf (WVec 8) (.add 3 1 1) (.vextr 1 1 7))).reg 3).toNat = 2 * 0x100100 ∧ ((th (pairOf (WVec 8) (.add 3 1 1) (.vextr 1 1 7))).reg 1) = 7#64 ∧
    ((th (pairOf (WVec 8) (.add 3 4 4) (.vadd 5 1 2 0 0))).v.toArray.getD 5 []).map (·.toNat) = [10, 11, 12, 13, 14, 15, 16, 17] ∧
    ((th (pairOf (WVec 8) (.add 3 4 4) (.vadd 5 1 2 0 0))).reg 3) = 10#64 ∧ (th (pairOf (WVec 8) (.add 3 4 4) (.vextr 1 3 7))).ecause = 1#64 ∧
    (th (pairOf W (.crd 3 0x001) (.vextr 1 20 7))).ecause = 3#64 ∧ (th (pairOf W (.jr 0 9) (.vextr 1 20 7))).ecause = 0xC#64 ∧
    (th (pairOf (WVec 8) (.jr 0 9) (.vextr 1 20 7))).ecause = 0x204#64 ∧ (th (pairOf (WVec 8) (.jr 0 9) (.vextr 1 20 7))).full 20 = (th (WVec 8)).full 20 := by
  decide +kernel
theorem test_hyps_pairs : r74 (.add 3 1 1) = some (.add, false, 3, 1, 1) ∧ Instr.wf (.vadd 5 1 2 0 0) = true ∧
    (∃ f, vform (.vadd 5 1 2 0 0) (th (WVec 8)) (valueOf (WVec 8) (th (WVec 8))) = some f ∧ f.srcs = [] ∧ f.gd = none ∧ f.ext = 2) ∧
    (∃ f x, vform (.vfcvt 5 3 20 0 7 0) (th (WVec 8)) (valueOf (WVec 8) (th (WVec 8))) = some f ∧ f.srcs = [] ∧ f.gd = some (20, x)) ∧
    Issues (WVec 8) 0 (th (WVec 8)) ([1, 1] ++ []) ([] ++ [3]) (1 ||| 2) ∧ Issues (WVec 8) 0 (th (WVec 8)) ([1, 1] ++ []) ([20] ++ [3]) (1 ||| 2) ∧
    (∃ x fl, gform (.vextr 1 3 7) (th (WVec 8)) = some (3, x, fl)) ∧ (∃ x fl, gform (.vextr 1 20 7) (th (WVec 8)) = some (20, x, fl)) ∧
    Issues (WVec 8) 0 (th (WVec 8)) [1, 1] [20, 3] 3 ∧ (th (WVec 8)).status = .ready ∧ (th (WVec 8)).slot?.isSome = true ∧
    (∃ x fl, gform (.vextr 1 20 7) (th W) = some (20, x, fl)) ∧ (∃ c, r64 0x001 = some c ∧ ¬ mayRead c (th W).priv) ∧ Issues W 0 (th W) [] [20, 3] 3 ∧
    (valueOf W (th W) 9).toNat % 8 ≠ 0 ∧ Issues W 0 (th W) [9] [20, 0] 3 ∧ (th W).vlen = 0 ∧ (valueOf (WVec 8) (th (WVec 8)) 9).toNat % 8 ≠ 0 ∧
    Issues (WVec 8) 0 (th (WVec 8)) [9] [20, 0] 3 ∧ (th (WVec 8)).vlen ≠ 0 := by
  and_intros
  all_goals first
    | decide +kernel
    | exact issues_of (by decide +kernel)
    | exact ⟨_, rfl, rfl, rfl, rfl⟩
    | exact ⟨_, _, rfl, rfl, rfl⟩
    | exact ⟨_, _, rfl⟩
    | exact ⟨_, rfl, by unfold mayRead; decide +kernel⟩

/-- Cores 0 to `n` − 1 of the thread's tile have no vector engine; `f` changes the thread, `slots` is its partition's slot set. -/
def WExt (n slots : Nat) (f : Thread → Thread) : State :=
  ((List.range n).foldl (fun s k => s.updCore ⟨0, 0, 0, k⟩ (fun c => { c with extid := 0x1D#5 })) (rdy f)).updPart ⟨0, 0⟩ (fun p => { p with slots := slots, tiles := [0, 1, 12] })
/-- EXTMIG: to the next core of the tile, to the nearest other tile, a wait while no slot is free, ILLOP at S privilege (R56, R144). -/
theorem test_extmig : (th (after (exec (.vextr 1 20 7) (WExt 1 0x3FFF (vecs 8))))).place = .flight ⟨0, 0, 0, 0, 0⟩ ⟨0, 0, 0, 1, 0⟩ ∧
    (th (after (exec (.vextr 1 20 7) (WExt 1 0x3FFF (vecs 8))))).vlen = 8 ∧
    (th (after (exec (.vextr 1 20 7) (WExt 1 0 id)))).wait = some .extmigSlot ∧
    (th (after (exec (.vextr 1 20 7) (WExt 8 0x3FFF (vecs 8))))).ecause = 1#64 ∧
    (th (after (exec (.vextr 1 20 7) (WExt 1 0x3FFF (fun t => { t with tstat := 1#64 }))))).ecause = 1#64 := by decide +kernel
theorem test_extmig_off : (th (after (exec (.vextr 1 20 7) (WExt 8 0x3FFF id)))).place = .flight ⟨0, 0, 0, 0, 0⟩ ⟨0, 0, 1, 0, 0⟩ := by decide +kernel

abbrev extNeeds (s : State) (c : CoreRef) : Prop :=
  c ≠ (th s).pos.coreRef ∧ (s.core c).available = true ∧ (s.core c).extid.getLsbD 1 = true
/-- The hypotheses that do not concern the destination. -/
def extB (s : State) : Bool := decide (s.cur = some 0 ∧ s.thread? 0 = some (th s) ∧ (th s).status = .ready ∧ (th s).slot?.isSome = true ∧
  (s.core (th s).pos.coreRef).extid.getLsbD 1 = false ∧ (th s).lost = [] ∧ (th s).relaxed = [] ∧ (gform (.vextr 1 20 7) (th s)).isSome = true)
def offB (s : State) : Bool := decide (holdsResources s 0 (th s) = false ∧ (th s).khold = false ∧ ((th s).pfx.getLsbD 4 && (th s).pfx.getLsbD 2) = false ∧
  (th s).streams.toList = [none, none, none, none] ∧ jobsPending s (th s).pos.tileRef 0 = false)
theorem test_hyps_ext : extB (WExt 1 0x3FFF (vecs 8)) = true ∧ (th (WExt 1 0x3FFF (vecs 8))).priv = 0 ∧ extB (WExt 8 0x3FFF id) = true ∧ offB (WExt 8 0x3FFF id) = true ∧
    extB (WExt 1 0 id) = true ∧ extNeeds (WExt 1 0 id) ⟨0, 0, 0, 1⟩ ∧ extB (WExt 8 0x3FFF (vecs 8)) = true ∧ offB (WExt 8 0x3FFF (vecs 8)) = false := by
  decide +kernel
theorem test_hyps_ext_takes : Takes (WExt 1 0x3FFF (vecs 8)) (th (WExt 1 0x3FFF (vecs 8))) (extNeeds (WExt 1 0x3FFF (vecs 8))) ⟨0, 0, 0, 1, 0⟩ ∧
    Takes (WExt 8 0x3FFF id) (th (WExt 8 0x3FFF id)) (extNeeds (WExt 8 0x3FFF id)) ⟨0, 0, 1, 0, 0⟩ := by
  refine ⟨⟨by decide, by decide +kernel, ⟨by decide +kernel, by decide, by decide +kernel, by decide +kernel⟩, ?_, fun _ => rfl, fun _ j hj => ?_⟩,
    ⟨by decide, by decide +kernel, ⟨by decide +kernel, by decide, by decide +kernel, by decide +kernel⟩, ?_, fun _ => rfl, fun _ j hj => ?_⟩⟩
  · intro k j hk hn; obtain rfl : k = 0 := by simp at hk; exact hk
    exact absurd hn (by decide +kernel)
  · exact absurd hj (Nat.not_lt_zero j)
  · intro k j hk; exact absurd hk (Nat.not_lt_zero k)
  · exact absurd hj (Nat.not_lt_zero j)
theorem test_hyps_ext_here : ¬ ∃ k j, k < 8 ∧ extNeeds (WExt 8 0x3FFF id) ⟨0, 0, 0, k⟩ ∧ SlotAt (WExt 8 0x3FFF id) (th (WExt 8 0x3FFF id)) ⟨0, 0, 0, k, j⟩ := by
  rintro ⟨k, _, hk, hn, _⟩
  exact (by decide +kernel : ∀ k, k < 8 → ¬ extNeeds (WExt 8 0x3FFF id) ⟨0, 0, 0, k⟩) k hk hn
theorem test_hyps_ext_nearest : ∀ y : TileRef, y.pkg = 0 → y.die < 4 → y.tile < 144 → y ≠ ⟨0, 0, 0⟩ →
    meshSteps ⟨0, 0, 0⟩ ⟨0, 0, 1⟩ < meshSteps ⟨0, 0, 0⟩ y ∨ (meshSteps ⟨0, 0, 0⟩ ⟨0, 0, 1⟩ = meshSteps ⟨0, 0, 0⟩ y ∧ 0 * 144 + 1 ≤ y.die * 144 + y.tile) := by
  rintro ⟨p, d, k⟩ rfl hd hk hy
  have h := (by decide +kernel : ∀ d, d < 4 → ∀ k, k < 144 → d = 0 ∧ k = 0 ∨ meshSteps ⟨0, 0, 0⟩ ⟨0, 0, 1⟩ ≤ meshSteps ⟨0, 0, 0⟩ ⟨0, d, k⟩) d hd k hk
  have : ¬(d = 0 ∧ k = 0) := fun ⟨a, b⟩ => hy (by rw [a, b])
  rcases h with h | h
  · exact absurd h this
  · rcases Nat.lt_or_eq_of_le h with h | h
    · exact .inl h
    · exact .inr ⟨h, by show 1 ≤ d * 144 + k; omega⟩

/-- Package 1 hosts the partition too; the page at 0x170000 is peer aperture with MIG, the one at 0x180000 without; the last port route leads there. -/
def WPeer (f : Thread → Thread) : State :=
  let s := (WMem (fun t => f (regs [(16, 0x170000), (17, 0x180000)] t))).updTile ⟨0, 0, 0⟩ (fun x => { x with tlb := x.tlb ++
    [⟨0, 0x8000, 0x170000, 0x10000, 0x040100000000217F#64, []⟩, ⟨0, 0x8000, 0x180000, 0x10000, 0x040100000000213F#64, []⟩] })
  let s := (s.updPart ⟨1, 0⟩ (fun _ => { s.part ⟨0, 0⟩ with allot := 0, tiles := [2, 3] })).updPart ⟨0, 0⟩ (fun p => { p with routes := [(1, 4)] })
  { s with pkgs := s.pkgs.set 1 Pkg.init, ports := s.ports.set ⟨0, 2⟩ { s.port ⟨0, 2⟩ with up := true } }
theorem test_peer : (th (after (exec (.ld 3 16 0 3) (WPeer id)))).place = .flight ⟨0, 0, 0, 0, 0⟩ ⟨1, 0, 2, 0, 0⟩ ∧
    (th (after (exec (.ld 3 16 0 3) (WPeer id)))).pc = 0x100000#64 ∧ (th (after (exec (.ld 3 16 0 3) (WPeer id)))).migT = some 0 := by decide +kernel
theorem test_peer_trip : ((th (after (exec (.ld 3 17 0 3) (WPeer id)))).wait matches some (.remote _)) = true ∧
    (th (after (exec (.amo 3 17 4 0 3 0) (WPeer id)))).ecause = 0x307#64 ∧ (th (after (exec (.st 4 5 0 3) (WPeer id)))).posted = 1 ∧
    ((th (after (exec (.ld 3 5 0 3) (WPeer id)))).wait matches some (.remote _)) = true := by decide +kernel
def peerForm (i : Instr) : MemForm := (memForm i (valueOf (WPeer id) (th (WPeer id)))).getD ⟨[], 0, 1, 0, 0, false, false, fun _ _ _ => .waits⟩
def peerTarget (i : Instr) : Target := match translate (WPeer id) (th (WPeer id)) (peerForm i).ea.toNat (peerForm i).kind with
  | .ok tg => tg
  | _ => ⟨0, 0, 0, 0⟩
/-- The conditions of `AwayWord`, as a check. -/
def awayB (i : Instr) : Bool :=
  let s := WPeer id
  let f := peerForm i
  (match translate s (th s) f.ea.toNat f.kind with | .ok _ => true | _ => false) && decide (f.ea.toNat % f.bytes = 0 ∧ reachable (th s) (peerTarget i) = true ∧
    (f.fe = true → leafFE (peerTarget i).leaf = true) ∧ (f.ind = false → inRange s (th s).part (peerTarget i) = false) ∧
    s.bad (peerTarget i).ga = false ∧ (th s).tent = false ∧ (th s).lost = [] ∧ (th s).relaxed = [])
theorem away_of {i : Instr} (h : awayB i = true) : AwayWord (WPeer id) (th (WPeer id)) (peerForm i) (peerTarget i) := by
  simp only [awayB, Bool.and_eq_true, decide_eq_true_eq] at h
  obtain ⟨h0, h1, h2, h3, h4, h5, h6, h7, h8⟩ := h
  refine ⟨h1, ?_, h2, h3, h4, h5, h6, h7, h8⟩
  unfold peerTarget
  split at h0
  · rename_i tg ht; rw [ht]
  · cases h0
theorem test_hyps_away : AwayWord (WPeer id) (th (WPeer id)) (peerForm (.ld 3 16 0 3)) (peerTarget (.ld 3 16 0 3)) ∧
    AwayWord (WPeer id) (th (WPeer id)) (peerForm (.ld 3 17 0 3)) (peerTarget (.ld 3 17 0 3)) ∧
    AwayWord (WPeer id) (th (WPeer id)) (peerForm (.amo 3 17 4 0 3 0)) (peerTarget (.amo 3 17 4 0 3 0)) ∧
    AwayWord (WPeer id) (th (WPeer id)) (peerForm (.st 4 5 0 3)) (peerTarget (.st 4 5 0 3)) ∧
    Issues (WPeer id) 0 (th (WPeer id)) [16] [3] 1 ∧ Issues (WPeer id) 0 (th (WPeer id)) [17] [3] 1 ∧ Issues (WPeer id) 0 (th (WPeer id)) [17, 4] [3] 1 ∧
    Issues (WPeer id) 0 (th (WPeer id)) [4, 5] [] 1 ∧ (th (WPeer id)).pfx = 0 ∧ (peerTarget (.ld 3 16 0 3)).aper = 1 ∧ bitAt (peerTarget (.ld 3 16 0 3)).leaf 6 = true ∧
    hosts (WPeer id) 1 0 = true ∧ (th (WPeer id)).appt ≤ (WPeer id).now 0 ∧ (peerTarget (.ld 3 17 0 3)).aper = 1 ∧ bitAt (peerTarget (.ld 3 17 0 3)).leaf 6 = false ∧
    (peerForm (.amo 3 17 4 0 3 0)).ind = true ∧ bitAt (peerTarget (.amo 3 17 4 0 3 0)).leaf 7 = false ∧ (peerTarget (.st 4 5 0 3)).aper = 2 ∧
    (routePort (WPeer id) 0 0 0 1).isSome = true ∧ (takeSeq (WPeer id) ⟨0, 2⟩).isSome = true := by
  and_intros
  all_goals first
    | decide +kernel
    | exact issues_of (by decide +kernel)
    | exact away_of (by decide +kernel)
theorem test_hyps_may_move : (th (WPeer id)).priv = 0 ∧ (th (WPeer id)).tent = false ∧ holdsResources (WPeer id) 0 (th (WPeer id)) = false ∧ (th (WPeer id)).khold = false ∧
    (∀ k, k < 4 → (th (WPeer id)).queues.toArray.getD k none = none) ∧ (∀ k, k < 4 → (th (WPeer id)).streams.toArray.getD k none = none) ∧
    jobsPending (WPeer id) (th (WPeer id)).pos.tileRef 0 = false := by decide +kernel

/-- PFX.T governs the next bundle; the undo log stands at TCM offset 0x40, with `n` bytes of room. -/
def WTent (n : Nat) : State := WMem (fun t => { t with pfx := 18#5, tlog := BitVec.ofNat 64 (0x40 * 2 ^ 32 + (0x40 + n) * 2 ^ 16 + 0x40) })
def tcm0 : Nat := tcmBase ⟨0, 0, 0, 0, 0⟩
/-- A tentative store saves the old word and its FE bit, then stores; without room it takes TENTOVF (R125). -/
theorem test_tentative : memAt (WTent 16) (.st 4 2 0 1) (tcm0 + 0x40) 8 = 0x110103 ∧ memAt (WTent 16) (.st 4 2 0 1) (tcm0 + 0x48) 8 = 2 ^ 64 - 7 ∧
    memAt (WTent 16) (.st 4 2 0 1) 0x020000000100 8 = 0xFFFFFFFFFFFF0005 ∧ bits (th (after (exec (.st 4 2 0 1) (WTent 16)))).tlog.toNat 42 32 = 0x50 ∧
    (th (after (exec (.st 4 2 0 1) (WTent 15)))).ecause = 0x10A#64 := by decide +kernel
def tentForm (i : Instr) : MemForm := (memForm i (valueOf (WTent 16) (th (WTent 16)))).getD ⟨[], 0, 1, 0, 0, false, false, fun _ _ _ => .waits⟩
theorem test_hyps_tentative : memForm (.st 4 2 0 1) (valueOf (WTent 16) (th (WTent 16))) = some (tentForm (.st 4 2 0 1)) ∧ Issues (WTent 16) 0 (th (WTent 16)) [4, 2] [] 1 ∧
    Issues (WTent 15) 0 (th (WTent 15)) [4, 2] [] 1 ∧ (th (WTent 16)).priv = 0 ∧ (th (WTent 16)).pfx = 18#5 ∧ (th (WTent 16)).wait = none ∧
    (∃ tg, translate (WTent 16) (th (WTent 16)) (tentForm (.st 4 2 0 1)).ea.toNat (tentForm (.st 4 2 0 1)).kind = .ok tg ∧ (decide (tg.aper = 0 ∧
      reachable (th (WTent 16)) tg = true ∧ inRange (WTent 16) 0 tg = false ∧ tableCached (WTent 16) (tg.ga / 8) = false ∧ (WTent 16).bad tg.ga = false ∧
      tg.ga / 8 ≠ (tcm0 + 0x40) / 8 ∧ tg.ga / 8 ≠ (tcm0 + 0x40) / 8 + 1)) = true) ∧
    (tentForm (.st 4 2 0 1)).ea.toNat % 2 = 0 ∧ (tentForm (.st 4 2 0 1)).bytes = 2 ∧ (th (WTent 16)).lost = [] ∧ (th (WTent 16)).relaxed = [] ∧
    (WTent 16).feWaiters = [] ∧ (WTent 16).lockWaiters = [] ∧ 0x40 + 16 ≤ bits (th (WTent 16)).tlog.toNat 26 16 ∧ bits (th (WTent 15)).tlog.toNat 26 16 < 0x40 + 16 := by
  and_intros
  all_goals first
    | decide +kernel
    | exact issues_of (by decide +kernel)
    | exact okT_of (by decide +kernel)
    | rfl

/-- Two entries for the scratchpad word at 0x110100: the older says 1 and empty, the newer 2. -/
def WLog : State :=
  let s := WMem (fun t => { t with tlog := BitVec.ofNat 64 (0x60 * 2 ^ 32 + 0x800 * 2 ^ 16 % 2 ^ 27 + 0x40) })
  { s with mem := memWrite (memWrite (memWrite (memWrite s.mem (tcm0 + 0x40) 8 0x110102) (tcm0 + 0x48) 8 1) (tcm0 + 0x50) 8 0x110103) (tcm0 + 0x58) 8 2 }
theorem test_replay : memRead (replayLog (th WLog) WLog).mem 0x020000000100 8 = 1 ∧ feGet (replayLog (th WLog) WLog).fe (0x020000000100 / 8) = false ∧
    memRead (replayLog (th WLog) WLog).mem 0x020000000110 8 = memRead WLog.mem 0x020000000110 8 := by decide +kernel
theorem test_hyps_replay : UndoLog WLog (th WLog) 2 ∧ tableCached WLog (0x020000000100 / 8) = false ∧
    (∀ j, j < 2 → 0x020000000100 / 8 ≠ undoAt (th WLog) j / 8 ∧ 0x020000000100 / 8 ≠ undoAt (th WLog) j / 8 + 1) ∧
    (∀ k, k < 2 → undoAddr WLog (th WLog) k / 8 * 8 = 0x110100) :=
  ⟨⟨by decide +kernel, by decide +kernel, by decide +kernel, by decide +kernel, by decide +kernel, by decide +kernel⟩, by decide +kernel, by decide +kernel,
    by decide +kernel⟩
/-- The translation of the logged word stands in the tile's TLB, whatever memory holds. -/
theorem test_hyps_replay_tlb (σ : State) (h : σ.tiles = WLog.tiles) (h' : σ.pkgs = WLog.pkgs) : ∃ tg : Target, tg.ga = 0x020000000100 ∧ reachable (th WLog) tg = true ∧
    translateNow σ (th WLog).pos.tileRef (WLog.cfgOf (th WLog)).root (th WLog).part 0 0x110100 1 = .ok tg := by
  refine ⟨⟨0, 0, 0x020000000100, 0x200000013F⟩, by decide +kernel, by decide +kernel, ?_⟩
  have h1 : tlbFind σ (th WLog).pos.tileRef (WLog.cfgOf (th WLog)).root (th WLog).part 0x110100 =
      some ⟨0, 0x8000, 0x110000, 0x10000, 0x200000013F#64, []⟩ := by
    have : σ.tile (th WLog).pos.tileRef = WLog.tile (th WLog).pos.tileRef := by
      simp only [State.tile, State.tileReset, State.pkg, h, h']
    simp only [tlbFind, this]; decide +kernel
  have h2 : vaOk 0x110100 = true := by decide +kernel
  simp only [translateNow, h1, h2]; decide +kernel
/-! ### Launches, tasks, messages, moves -/

def aLaunch : Launch := ⟨0, 0, [0, 0, 0, BitVec.ofNat 64 (3 * 2 ^ 46), 0x0605#64], [], [0], 0, [], true, 1, 0, 0, [], [(⟨0, 0, 0, 0, 0⟩, 77#32)], false, [], []⟩
def aPacket : Packet := ⟨[0x400000, 11, 12, 13, 14, 0, 0, 0], some 0⟩
/-- Bindings 0 and 1 name queues 5 and 6; queue 5 is open with `ps`, queue 6 closed; g16 is the address of a good packet, g17 and g18 are launches
not complete and complete. -/
def WTask (ps : List Packet) (f : Thread → Thread) : State :=
  let s := WMem (fun t => f (regs [(16, 0x110140), (17, 7), (18, 8), (19, 2 ^ 32), (20, 1), (21, 0x170000), (22, 2), (23, 2 ^ 63), (24, 2 ^ 17),
    (25, 0x180000), (26, 2 ^ 18 + 7)] t))
  let s := s.updPart ⟨0, 0⟩ (fun x => { x with completions := [(7, none), (8, some 5)] })
  let s := s.updTile ⟨0, 0, 0⟩ (fun x => { x with tlb := x.tlb ++ [⟨0, 0x8000, 0x170000, 0x10000, 0x100080013F#64, []⟩,
    ⟨0, 0x8000, 0x180000, 0x10000, 0xC0000013F#64, []⟩], queues := [(2, ⟨some 0, []⟩)] })
  { s with
    launches := [(0, aLaunch)]
    taskQueues := [(⟨0, 0, 5⟩, ⟨some 0, true, ps, [], []⟩), (⟨0, 0, 6⟩, ⟨some 0, false, [], [], []⟩)]
    mem := memWrite (memWrite s.mem 0x020000000140 8 0x400000) 0x020000000148 8 11
    threads := s.threads ++ [(1, { th s with place := .slot ⟨0, 0, 0, 0, 1⟩, start := ⟨0, 0, 0, 0, 1⟩ })] }
def WT : State := WTask [aPacket] id
def WE : State := WTask [] id
def WFull : State := WTask (List.replicate 256 aPacket) id
def WMember : State := WTask [] (fun t => { t with join := some ⟨0, 0, 3, 1⟩ })

theorem test_tasks : gives WT (.tnext 7 0) 7 = 0x400000 ∧ gives WT (.tnext 7 0) 6 = 14 ∧ ((after (exec (.tnext 7 0) WT)).taskQueue ⟨0, 0, 5⟩).packets = [] ∧
    gives WT (.tnext 7 20) 7 = 0 ∧ gives WT (.tnext 7 22) 7 = 2 ^ 64 - 1 ∧ (th (after (exec (.tnext 3 0) WT))).ecause = 2#64 ∧
    (th (after (exec (.tnext 7 0) WE))).wait = some (.tnext 7 ⟨0, 0, 5⟩) ∧
    ((after (exec (.tpost 7 0 16) WE)).taskQueue ⟨0, 0, 5⟩).packets = [⟨[0x400000, 11, 0, 0, 0, 0, 0, 0], some 0⟩] ∧ gives WE (.tpost 7 0 16) 7 = 0 ∧
    gives WE (.tpost 7 20 16) 7 = 2 ^ 64 - 1 ∧ gives WE (.tpost 7 0 2) 7 = 2 ^ 64 - 2 ∧ (th (after (exec (.tpost 7 0 16) WFull))).status = .parked ∧
    (th (after (exec .tend (WTask [] (fun t => { t with task := some (some 0), h := t.h.set 0 9#64 }))))).task = none ∧
    (th (after (exec .tend (WTask [] (fun t => { t with task := some (some 0), h := t.h.set 0 9#64 }))))).h.toArray.getD 0 1 = 0 := by decide +kernel
theorem test_launches : (after (exec .exit WE)).thread? 0 = none ∧ (th (after (exec .exit WMember))).wait = some .answer ∧
    (th (after (exec (.launch 7 2) WE))).wait = some .answer ∧ (th (after (exec (.launch 7 9) WE))).ecause = 4#64 ∧
    gives WE (.lwait 7 19) 7 = 2 ^ 63 + 1 ∧ (th (after (exec (.lwait 7 17) WE))).wait = some (.lwait 7 7) ∧ gives WE (.lwait 7 18) 7 = 5 ∧
    (th (after (exec (.lwait 7 26) WE))).wait = some .answer := by decide +kernel
theorem test_messages : (after (exec (.send 7 4 1) WE)).msgs.length = 1 ∧ (th (after (exec (.send 7 4 1) WE))).status = .parked ∧ gives WE (.epid 7 0) 7 = 77 ∧
    gives WE (.epid 7 19) 7 = 0 ∧ (th (after (exec (.mig 5) WE))).ecause = 0x11#64 ∧ (th (after (exec (.mig 25) WE))).ecause = 6#64 ∧ (th (after (exec (.mig 1) WE))).status = .ready ∧
    (th (after (exec (.mig 21) WE))).slot?.isSome = false ∧ (th (after (exec (.qbind 57 22 23) WE))).queues.toList[1]? = some (some ⟨2, none⟩) ∧
    (th (after (exec (.qbind 57 20 23) WE))).ecause = 6#64 := by decide +kernel

def recordOk (s : State) (a : BitVec 6) (srcs : List (BitVec 6)) (n : Nat) : Bool := recordCheck (ctxOf s 0 (th s) srcs) s (valueOf s (th s) a) n matches .ok
theorem test_hyps_exit : Issues WE 0 (th WE) [] [] 1 ∧ (th WE).relaxed = [] ∧ (th WE).lost = [] ∧ (th WE).join = none ∧ Issues WMember 0 (th WMember) [] [] 1 ∧
    (th WMember).join = some ⟨0, 0, 3, 1⟩ ∧ Issues WE 0 (th WE) [2] [7] 1 ∧ (th WE).wait = none ∧ (th WE).inbox = [] ∧ recordOk WE 2 [2] 2 = true ∧
    Issues WE 0 (th WE) [9] [7] 1 ∧ (valueOf WE (th WE) 9).toNat % 64 ≠ 0 ∧ Issues WE 0 (th WE) [17] [7] 1 ∧ Issues WE 0 (th WE) [18] [7] 1 ∧ Issues WE 0 (th WE) [19] [7] 1 ∧ Issues WE 0 (th WE) [26] [7] 1 ∧ (valueOf WE (th WE) 26).toNat = 2 ^ 18 + 7 ∧
    (WE.part ⟨0, 0⟩).completions.get? 7 = some none ∧ (WE.part ⟨0, 0⟩).completions.get? 8 = some (some 5) ∧ (WE.part ⟨0, 0⟩).held = [] := by
  and_intros
  all_goals first
    | decide +kernel
    | exact issues_of (by decide +kernel)
theorem test_hyps_tasks : Issues WT 0 (th WT) [0] [7, 3, 4, 5, 6] 1 ∧ Issues WT 0 (th WT) [0] [3, 3, 4, 5, 6] 1 ∧ Issues WT 0 (th WT) [22] [7, 3, 4, 5, 6] 1 ∧ (th WT).task = none ∧
    binding WT (th WT) 0 = some ⟨0, 0, 5⟩ ∧ binding WT (th WT) 1 = some ⟨0, 0, 6⟩ ∧ binding WT (th WT) 2 = none ∧ (WT.taskQueue ⟨0, 0, 5⟩).packets = [aPacket] ∧
    (WT.taskQueue ⟨0, 0, 5⟩).waiters = [] ∧ (WT.taskQueue ⟨0, 0, 6⟩).packets = [] ∧ (WT.taskQueue ⟨0, 0, 6⟩).isOpen = false ∧ (WE.taskQueue ⟨0, 0, 5⟩).packets = [] ∧
    (WE.taskQueue ⟨0, 0, 5⟩).isOpen = true ∧ (WE.taskQueue ⟨0, 0, 5⟩).posters = [] ∧
    WE.threads.any (fun e => e.1 != 0 && (bindsQueue WE ⟨0, 0, 5⟩ e.2 && e.2.wait == none)) = true ∧ Issues WT 0 (th WT) [] [] 1 ∧
    Issues WE 0 (th WE) [0, 16] [7] 1 ∧ Issues WE 0 (th WE) [0, 2] [7] 1 ∧ Issues WE 0 (th WE) [0, 9] [7] 1 ∧ recordOk WE 16 [0, 16] 1 = true ∧ recordOk WE 2 [0, 2] 1 = true ∧
    ¬ badPacket (readRecord WE (th WE) (valueOf WE (th WE) 16) 1) ∧ badPacket (readRecord WE (th WE) (valueOf WE (th WE) 2) 1) ∧
    (∀ k, k < 4 → field (readRecord WE (th WE) (valueOf WE (th WE) 16) 1) k = 0) ∧ (WFull.taskQueue ⟨0, 0, 5⟩).packets.length = 256 ∧ Issues WFull 0 (th WFull) [0, 16] [7] 1 := by
  and_intros
  all_goals first
    | decide +kernel
    | exact issues_of (by decide +kernel)
    | (unfold badPacket; decide +kernel)
/-- A packet whose handle field names a copy region whose table does not hold it. -/
def WHandle : State := let s := WE; { s with mem := memWrite s.mem 0x020000000168 8 (2 ^ 18 + 5) }
theorem test_hyps_handles : Issues WHandle 0 (th WHandle) [0, 16] [7] 1 ∧ recordOk WHandle 16 [0, 16] 1 = true ∧
    field (readRecord WHandle (th WHandle) (valueOf WHandle (th WHandle) 16) 1) 0 ≠ 0 ∧
    ¬ badPacket (readRecord WHandle (th WHandle) (valueOf WHandle (th WHandle) 16) 1) ∧
    handleLive WHandle (th WHandle) (rebuilt 0 (field (readRecord WHandle (th WHandle) (valueOf WHandle (th WHandle) 16) 1) 0)) = false ∧
    (th (after (exec (.tpost 7 0 16) WHandle))).ecause = 0x0F#64 := by
  and_intros
  all_goals first
    | decide +kernel
    | exact issues_of (by decide +kernel)
    | (unfold badPacket; decide +kernel)
theorem test_hyps_moves : Issues WE 0 (th WE) [4, 1] [] 1 ∧ (homeOf (valueOf WE (th WE) 4).toNat).pkg = 0 ∧ WE.learned = [] ∧ Issues WE 0 (th WE) [24, 1] [] 1 ∧ (homeOf (valueOf WE (th WE) 24).toNat).pkg = 1 ∧ Issues WE 0 (th WE) [0] [7] 1 ∧
    Issues WE 0 (th WE) [25] [] 1 ∧
    okT WE 0x180000 0 (fun tg => tg.aper == 0 && (attachment tg.pkg tg.pa).isNone) = true ∧ Issues WE 0 (th WE) [5] [] 1 ∧ okT WE 0x120100 0 (fun tg => tg.aper == 2) = true ∧ Issues WE 0 (th WE) [1] [] 1 ∧
    okT WE 0x100100 0 (fun tg => tg.aper == 0 && ((attachment tg.pkg tg.pa).map (·.dieRef) == some ⟨0, 0⟩ && hosts WE tg.pkg 0)) = true ∧
    holdsResources WE 0 (th WE) = false ∧ (th WE).khold = false ∧ (th WE).queues.toList.all (·.isNone) = true ∧ (th WE).streams.toList.all (·.isNone) = true ∧
    Issues WE 0 (th WE) [21] [] 1 ∧ okT WE 0x170000 0 (fun tg => tg.aper == 0 && ((attachment tg.pkg tg.pa).map (·.dieRef) == some ⟨0, 1⟩ && (hosts WE tg.pkg 0 &&
      (memorySlot WE (th WE) tg.pkg tg.pa true).isSome))) = true ∧ jobsPending WE ⟨0, 0, 0⟩ 0 = false ∧ Issues WE 0 (th WE) [22, 23] [] 1 ∧ Issues WE 0 (th WE) [20, 23] [] 1 ∧
    (WE.hwQueue ⟨0, 0, 0⟩ 2).part = some 0 ∧ (WE.hwQueue ⟨0, 0, 0⟩ 1).part ≠ some 0 := by
  and_intros
  all_goals first
    | decide +kernel
    | exact issues_of (by decide +kernel)


/-! ### The copy group -/

/-- Handle 1 of table entry 5 is live and held by the tile (INT32 to INT32, or the record `fm`), handle 2 is dead, handle 3 is not held. -/
def hLive : Word := 0x20000005#64
def aJob (st : JobState) (stream : Bool) (b : Option Nat) : CopyJob :=
  ⟨st, 0, 0, 0, [], 0, 0, false, false, stream, b, false, false, 0, 3, 0, false, true, true, 0, [], [], [], 0, ⟨0, 0, 0, 0, 0⟩, 0, false⟩
def WCopy (jobs : Tab Nat CopyEntry) (fm : Nat) (f : Thread → Thread) : State :=
  let s := WMem (fun t => f { (regs [(16, 0x110200), (17, 0x110202), (18, 65), (19, 66), (20, 67), (21, 68), (22, 0x110240), (23, 0x20000005), (24, 0x110201),
    (25, 69), (27, 0x4000000005), (28, 0x2000000004)] t) with
      htab := 0x40000#64, h := ⟨#[hLive, 0x40000005#64, 0x20000006#64, 0, 0, 0, 0, 0], rfl⟩, streams := ⟨#[none, some ⟨9, 9, [], false⟩, none, none], rfl⟩ })
  let s := s.updTile ⟨0, 0, 0⟩ (fun x => { x with handles := [0x40140], copy := jobs })
  { s with mem := memWrite (memWrite (memWrite (memWrite s.mem 0x40140 8 0x0001000100010008) 0x40160 8 fm) 0x40178 8 (2 ^ 63 + 1))
                 0x020000000240 64 (0x0001000100010008 + 0xBB * 2 ^ 256) }
def WC : State := WCopy [(1, ⟨1, some (aJob .done false none)⟩), (2, ⟨1, some (aJob .running true none)⟩), (3, ⟨1, some (aJob .running false none)⟩),
  (4, ⟨1, some (aJob .running true (some 2))⟩)] 0xBB id
def WC4 : State := WCopy [] 0x11 id
def WCFull : State := WCopy ((List.range 64).map (fun e => (e, ⟨1, some (aJob .running false none)⟩))) 0xBB id

theorem test_copy : gives WC (.cpy 7 0 16 0 1 0) 7 = 2 ^ 63 + 2 ∧
    gives WC4 (.cpy 7 0 16 0 0 0) 7 = 2 ^ 63 + 1 ∧ (th (after (exec (.cpy 7 17 16 0 0 0) WC))).ecause = 0x104#64 ∧
    (th (after (exec (.cpy 7 16 17 0 0 0) WC))).ecause = 4#64 ∧ (th (after (exec (.cpy 7 16 16 1 0 0) WC))).ecause = 0x0F#64 ∧
    (th (after (exec (.cpy 7 16 16 2 0 0) WC))).wait = some (.handle 0x20000006) ∧
    (th (after (exec (.cpy 7 16 16 0 0 0) WCFull))).wait = some .copyQueue ∧
    gives WC (.cpw 7 18) 7 = 2 ^ 63 + 2 ^ 41 + 2 ^ 40 + 3 ∧ gives WC (.cpq 7 19) 7 = 2 ^ 62 + 2 ^ 41 + 2 ^ 40 + 3 ∧ (th (after (exec (.cpw 7 19) WC))).wait = some (.job 7 66 ⟨0, 0, 0⟩) ∧
    gives WC (.cpq 7 25) 7 = 3 * 2 ^ 62 ∧ gives WC (.sbind 7 18 0) 7 = 1 ∧ gives WC (.sbind 7 20 0) 7 = 2 ∧ gives WC (.sbind 7 21 0) 7 = 3 ∧
    gives WC (.sbind 7 19 1) 7 = 4 ∧ gives WC (.sbind 7 19 0) 7 = 0 ∧
    gives WC (.tseal 7 22) 7 = 2 ^ 29 ∧ gives WC (.tseal 7 24) 7 = 2 ^ 63 + 1 ∧ (th (after (exec (.tfree 7 23) WC))).wait = some .drop ∧ gives WC (.tfree 7 27) 7 = 1 := by decide +kernel

def hv (s : State) (k : Nat) : Word := (th s).h.toArray.getD k 0
def held (s : State) (k : Nat) : Bool := (s.tile ⟨0, 0, 0⟩).handles.contains (handleAddr 0 (th s).htab (hv s k))
theorem test_hyps_copy : Issues WC 0 (th WC) [16, 16] [7] 1 ∧ Free (th WC) [7] ∧ Plain [16, 16] ∧ handleFits (th WC) (hv WC 3) = false ∧ handleFits (th WC) (hv WC 1) = true ∧
    held WC 1 = true ∧ handleLive WC (th WC) (hv WC 1) = false ∧ handleFits (th WC) (hv WC 2) = true ∧ held WC 2 = false ∧ held WC 0 = true ∧
    handleLive WC (th WC) (hv WC 0) = true ∧ Issues WC 0 (th WC) [0, 16] [7] 1 ∧ Plain [0, 16] ∧ valueOf WC (th WC) 0 = 0 ∧ valueOf WC (th WC) 17 = 0x110202#64 ∧
    fmtAlign 11 = 4 ∧ Issues WC 0 (th WC) [17, 16] [7] 1 ∧ Issues WC 0 (th WC) [16, 17] [7] 1 ∧ narrow (record WC4 (th WC4) (hv WC4 0)) ∧
    ¬ narrow (record WC (th WC) (hv WC 0)) ∧ Issues WC4 0 (th WC4) [0, 16] [7] 1 ∧ Free (th WC4) [7] ∧ jobAt WC ⟨0, 0, 0⟩ 0 = none ∧
    Issues WCFull 0 (th WCFull) [16, 16] [7] 1 ∧ (∀ e, e < 64 → jobAt WCFull ⟨0, 0, 0⟩ e ≠ none) ∧
    (∀ x ∈ (WCFull.tile ⟨0, 0, 0⟩).copy, ∀ j, x.2.job = some j → j.state ≠ .done ∨ j.err ≠ 0) := by
  and_intros
  all_goals first
    | decide +kernel
    | exact issues_of (by decide +kernel)
    | (unfold Free; decide +kernel)
    | (unfold Plain; decide +kernel)
    | (unfold narrow; decide +kernel)
    | exact fun x hx j hj => .inl (by have := (show ∀ x ∈ (WCFull.tile ⟨0, 0, 0⟩).copy, ∀ j ∈ x.2.job, j.state ≠ .done by decide +kernel) x hx j hj; exact this)

theorem names_of {s : State} {t : Thread} {id : Nat} {j : CopyJob} (h : (s.tile t.pos.tileRef).copy.get? (id % 64) = some ⟨1, some j⟩ ∧ 1 = id / 64 ∧
    j.part = t.part) : NamesJob s t id j := ⟨⟨1, some j⟩, h.1, h.2.1, rfl, h.2.2⟩
theorem test_hyps_copy_status : (∀ r ∈ ([18, 19, 20, 21, 25, 0] : List (BitVec 6)), Issues WC 0 (th WC) [r] [7] 1 ∧ Plain [r]) ∧ Free (th WC) [7] ∧
    NamesJob WC (th WC) 65 (aJob .done false none) ∧ NamesJob WC (th WC) 66 (aJob .running true none) ∧ NamesJob WC (th WC) 67 (aJob .running false none) ∧
    NamesJob WC (th WC) 68 (aJob .running true (some 2)) ∧ (∀ j, ¬ NamesJob WC (th WC) 69 j) ∧ (th WC).streams.toArray.getD 1 none ≠ none ∧
    (th WC).streams.toArray.getD 0 none = none ∧ Issues WC 0 (th WC) [16] [] 1 ∧ Issues WC 0 (th WC) [] [7] 1 ∧
    WC.feWaiters = [] ∧ WC.lockWaiters = [] :=
  by
  have h : (WC.tile (th WC).pos.tileRef).copy.get? (69 % 64) = none := by decide +kernel
  and_intros
  · exact fun r hr => ⟨issues_of ((by decide +kernel : ∀ r ∈ ([18, 19, 20, 21, 25, 0] : List (BitVec 6)), issuesB WC 0 (th WC) [r] [7] 1 = true) r hr),
      (by unfold Plain; decide +kernel : ∀ r ∈ ([18, 19, 20, 21, 25, 0] : List (BitVec 6)), Plain [r]) r hr⟩
  all_goals first
    | decide +kernel
    | exact issues_of (by decide +kernel)
    | (unfold Free; decide +kernel)
    | exact names_of (by decide +kernel)
    | exact fun j ⟨e, h1, _⟩ => by rw [h] at h1; cases h1
def sealTarget : Target := match translateNow WC ⟨0, 0, 0⟩ (WC.cfgOf (th WC)).root 0 (th WC).priv 0x110240 0 with
  | .ok tg => tg
  | _ => ⟨0, 0, 0, 0⟩
theorem seal_of (h : (match translateNow WC ⟨0, 0, 0⟩ (WC.cfgOf (th WC)).root 0 (th WC).priv 0x110240 0 with
    | .ok _ => true
    | _ => false) = true) : translateNow WC ⟨0, 0, 0⟩ (WC.cfgOf (th WC)).root 0 (th WC).priv 0x110240 0 = .ok sealTarget := by
  unfold sealTarget; split <;> simp_all
def sealR : List Word := (List.range 8).map (fun n => WC.rdWord (sealTarget.ga + 8 * n))
theorem test_hyps_seal : Issues WC 0 (th WC) [22] [7] 1 ∧ Issues WC 0 (th WC) [24] [7] 1 ∧ Issues WC 0 (th WC) [23] [7] 1 ∧ Issues WC 0 (th WC) [27] [7] 1 ∧
    handleLive WC (th WC) (valueOf WC (th WC) 27) = false ∧ handleLive WC (th WC) (valueOf WC (th WC) 23) = true ∧
    handleAddr 0 (th WC).htab (valueOf WC (th WC) 23) = 8 * 0x8028 ∧ (∀ x ∈ WC.lockWaiters, x.word ≠ 0x8028 + 7) ∧ (th WC).sfuLeft = 0 ∧
    (afterIssue WC 0 (th WC) [22]).cfgOf (th WC) = WC.cfgOf (th WC) ∧
    translateNow WC ⟨0, 0, 0⟩ (WC.cfgOf (th WC)).root 0 (th WC).priv 0x110240 0 = .ok sealTarget ∧ reachable (th WC) sealTarget = true ∧
    (∀ n, n < 8 → WC.bad (sealTarget.ga + 8 * n) = false) ∧ (th WC).htab.toNat / 64 ≠ 0 ∧ (th WC).htab.toNat < 2 ^ 52 ∧ recordRefusal sealR = none ∧
    (WC.rdWord (devAddr 0 (th WC).htab.toNat + 56)).getLsbD 63 = false ∧ devAddr 0 (th WC).htab.toNat % 8 = 0 := by
  and_intros
  all_goals first
    | decide +kernel
    | exact issues_of (by decide +kernel)
    | exact seal_of (by decide +kernel)
/-- The record of the scratchpad at 0x110240, with some words replaced; no table; an uncorrectable word of the record. -/
def WSeal (l : List (Nat × Nat)) : State := { WC with mem := l.foldl (fun m e => memWrite m (0x020000000240 + 8 * e.1) 8 e.2) WC.mem }
def WNoTable : State := WCopy [] 0xBB (fun t => { t with htab := 0 })
def WBadRecord : State := { WC with poison := [0x020000000250 / 8] }
/-- The refusals of R240 in the order of its checks, with records that fail the one or the other. -/
theorem test_seal_refusals : gives WC (.tseal 7 7) 7 = 2 ^ 63 + 2 ∧ gives WBadRecord (.tseal 7 22) 7 = 2 ^ 63 + 3 ∧ gives (WSeal [(7, 1)]) (.tseal 7 22) 7 = 2 ^ 63 + 4 ∧
    gives (WSeal [(4, 0xDD)]) (.tseal 7 22) 7 = 2 ^ 63 + 5 ∧ gives (WSeal [(4, 0xB8)]) (.tseal 7 22) 7 = 2 ^ 63 + 6 ∧ gives (WSeal [(0, 8)]) (.tseal 7 22) 7 = 2 ^ 63 + 7 ∧
    gives (WSeal [(4, 0x22)]) (.tseal 7 22) 7 = 2 ^ 63 + 8 ∧ gives (WSeal [(1, 2)]) (.tseal 7 22) 7 = 2 ^ 63 + 9 ∧ gives WNoTable (.tseal 7 22) 7 = 2 ^ 63 + 10 := by decide +kernel
def recordOf (s : State) : List Word := (List.range 8).map (fun n => s.rdWord (sealTarget.ga + 8 * n))
def sealAt (s : State) : Bool := match translateNow (afterIssue s 0 (th s) [22]) ⟨0, 0, 0⟩ ((afterIssue s 0 (th s) [22]).cfgOf (th s)).root 0 (th s).priv 0x110240 0 with
  | .ok tg => decide (tg = sealTarget) && reachable (th s) tg
  | _ => false
theorem test_hyps_seal_refusals : Issues WC 0 (th WC) [7] [7] 1 ∧ (valueOf WC (th WC) 7).toNat % 64 = 0 ∧
    (translateNow (afterIssue WC 0 (th WC) [7]) ⟨0, 0, 0⟩ ((afterIssue WC 0 (th WC) [7]).cfgOf (th WC)).root 0 (th WC).priv (valueOf WC (th WC) 7).toNat 0 matches .ok _) = false ∧
    Issues WBadRecord 0 (th WBadRecord) [22] [7] 1 ∧ sealAt WBadRecord = true ∧ WBadRecord.bad (sealTarget.ga + 8 * 2) = true ∧
    Issues (WSeal [(7, 1)]) 0 (th (WSeal [(7, 1)])) [22] [7] 1 ∧ sealAt (WSeal [(7, 1)]) = true ∧ (∀ n, n < 8 → (WSeal [(7, 1)]).bad (sealTarget.ga + 8 * n) = false) ∧
    [[(7, 1)], [(4, 0xDD)], [(4, 0xB8)], [(0, 8)], [(4, 0x22)], [(1, 2)]].map (fun l => r240 (recordOf (WSeal l))) = [some 4, some 5, some 6, some 7, some 8, some 9] ∧
    Issues WNoTable 0 (th WNoTable) [22] [7] 1 ∧ sealAt WNoTable = true ∧ r240 (recordOf WNoTable) = none ∧ bits (th WNoTable).htab.toNat 51 6 = 0 ∧
    r240 sealR = none ∧ (th WNoTable).sfuLeft = 0 ∧ Free (th WNoTable) [7] ∧ Plain [22] := by
  and_intros
  all_goals first
    | decide +kernel
    | exact issues_of (by decide +kernel)
    | (unfold Free; decide +kernel)
    | (unfold Plain; decide +kernel)

/-! ### The matrix engine -/

/-- Slots 0 (claimed), 1 (loaded, E4M3), 2 (loaded, CI8) are the issuer's; accumulator 0 is F32 of its crew, 1 is locked, 2 of another crew, 3 saved
away for another crew, 4 free, 5 C32 of its crew. -/
def anAcc (st : AccState) (n ty : Nat) : AccTile := ⟨st, n, ⟨0, 0, 0, 0, n⟩, 16, 16, ty, List.replicate 256 7, false, false⟩
def anEntry (n : Nat) (op : MatOp) : MatEntry := ⟨n, 0, 0, 0, op, false, 0⟩
def WMat (q : List MatEntry) (taken : List (Nat × OpSlot)) (f : Thread → Thread) : State :=
  let s := WCopy [] 0x2A (fun t => f { (regs [(26, 1), (29, 2 ^ 63), (30, 2), (31, 99), (32, 0x110208), (33, 0x40), (34, 15), (35, 16)] t) with
    vlen := 32, v := ⟨Array.replicate 32 ((List.range 32).map (fun l => BitVec.ofNat 32 (100 + l))), by simp⟩ })
  (s.updTile ⟨0, 0, 0⟩ (fun x => { x with
    slots := [(0, ⟨.claimed, 0, 0, [], [], false⟩), (1, ⟨.loaded, 0, 2, [], [], false⟩), (2, ⟨.loaded, 0, 8, [], [], false⟩)] ++ taken,
    accs := [(0, anAcc .owned 0 0), (1, anAcc .owned 0 0), (2, anAcc .owned 1 0), (3, anAcc .away 1 0), (5, anAcc .owned 0 2)], matQ := q })).updThread 0
      (fun t => { t with crew := ⟨0, 0, 0, 0, 0⟩ })
def WX : State := WMat [anEntry 9 (.mzero 1)] [] id
def WXFull : State := WMat (List.replicate 128 (anEntry 9 (.mlda 1 0 [] 7))) ((List.range 21).map (fun k => (k + 3, ⟨.claimed, 1, 0, [], [], false⟩))) id
def WXNoV : State := WMat [] [] (fun t => { t with vlen := 0 })
def WXWait : State := (WMat [] [] id).updTile ⟨0, 0, 0⟩ (fun x => { x with mslotWait := [(1, 7)] })

theorem test_matrix : gives WX (.mslot 7 0) 7 = 3 ∧ gives WXFull (.mslot 7 0) 7 = 2 ^ 64 - 1 ∧ (th (after (exec (.mslot 7 1) WXFull))).wait = some .mslot ∧
    (th (after (exec (.mfree 31) WX))).ecause = 0x0E#64 ∧ (slotOf (after (exec (.mfree 26) WX)) ⟨0, 0, 0⟩ 1).state = .free ∧
    (slotOf (after (exec (.mfree 26) WXFull)) ⟨0, 0, 0⟩ 1).releasing = true ∧ (th (after (exec (.mlda 7 31 16 0) WX))).ecause = 0x0E#64 ∧
    (th (after (exec (.mlda 7 26 16 1) WX))).ecause = 0x0F#64 ∧ (th (after (exec (.mlda 7 26 17 0) WX))).ecause = 4#64 ∧
    (th (after (exec (.mlda 7 26 16 0) WX))).status = .parked ∧ (th (after (exec (.mma 26 26 2 0) WX))).ecause = 0x0D#64 ∧
    (th (after (exec (.mma 0 26 0 0) WX))).ecause = 0x0E#64 ∧ (th (after (exec (.mma 26 30 0 0) WX))).ecause = 0x0D#64 ∧
    ((after (exec (.mma 26 26 0 0) WX)).tile ⟨0, 0, 0⟩).matQ.length = 2 ∧ (th (after (exec (.mzero 0) WXFull))).notBefore = WXFull.nextOwn (th WXFull).pos := by decide +kernel
theorem test_mcfg : gives WX (.mcfg 7 29 0) 7 = 0 ∧ (accOf (after (exec (.mcfg 7 29 0) WX)) ⟨0, 0, 0⟩ 0).state = .free ∧ gives WX (.mcfg 7 29 2) 7 = 3 ∧
    gives WX (.mcfg 7 33 4) 7 = 2 ∧ gives WX (.mcfg 7 26 4) 7 = 0 ∧ (accOf (after (exec (.mcfg 7 26 4) WX)) ⟨0, 0, 0⟩ 4).rows = 32 ∧ gives WX (.mcfg 7 26 2) 7 = 1 ∧
    (th (after (exec (.mcfg 7 26 3) WX))).status = .parked ∧ (th (after (exec (.mcfg 7 26 1) WX))).notBefore = WX.nextOwn (th WX).pos := by decide +kernel
theorem test_acc_moves : (th (after (exec (.mrdr 3 34 0) WXNoV))).ecause = 0x0C#64 ∧ (th (after (exec (.mrdr 3 34 2) WX))).ecause = 0x0D#64 ∧
    ((th (after (exec (.mrdr 3 34 0) WX))).v.toArray.getD 3 []).take 17 = List.replicate 16 7#32 ++ [0#32] ∧
    (accOf (after (exec (.mwrr 3 34 0) WX)) ⟨0, 0, 0⟩ 0).data.getD 255 0 = 115 ∧ (accOf (after (exec (.mwrc 3 34 0) WX)) ⟨0, 0, 0⟩ 0).data.getD 15 0 = 100 ∧
    (accOf (after (exec (.mwrr 3 35 0) WX)) ⟨0, 0, 0⟩ 0).data = List.replicate 256 7 ∧
    (accOf (after (exec (.mwrr 3 34 5) WX)) ⟨0, 0, 0⟩ 5).data.getD 241 0 = 102 + 103 * 2 ^ 32 := by decide +kernel

theorem test_hyps_matrix : Issues WX 0 (th WX) [] [7] 4 ∧ (th WX).wait = none ∧ (slotOf WX ⟨0, 0, 0⟩ 3).state = .free ∧ (∀ x, x < 3 → (slotOf WX ⟨0, 0, 0⟩ x).state ≠ .free) ∧
    Issues WXFull 0 (th WXFull) [] [7] 4 ∧ (th WXFull).wait = none ∧ (∀ n, n < 24 → (slotOf WXFull ⟨0, 0, 0⟩ n).state ≠ .free) ∧
    Issues WX 0 (th WX) [26] [] 4 ∧ Plain [26] ∧ ¬ OwnSlot WX 0 (th WX) 99 ∧ OwnSlot WX 0 (th WX) (valueOf WX (th WX) 26) ∧
    (∃ e ∈ (WXFull.tile ⟨0, 0, 0⟩).matQ, e.op.usesSlot 1 = true) ∧ (∀ e ∈ (WX.tile ⟨0, 0, 0⟩).matQ, e.op.usesSlot 1 = false) ∧ (WX.tile ⟨0, 0, 0⟩).mslotWait = [] ∧
    Issues WXWait 0 (th WXWait) [26] [] 4 ∧ OwnSlot WXWait 0 (th WXWait) (valueOf WXWait (th WXWait) 26) ∧ (WXWait.tile ⟨0, 0, 0⟩).mslotWait = [(1, 7)] ∧
    (∀ e ∈ (WXWait.tile ⟨0, 0, 0⟩).matQ, e.op.usesSlot 1 = false) ∧
    Issues WX 0 (th WX) [26, 16] [7] 4 ∧ Plain [26, 16] ∧ handleFits (th WX) (hv WX 3) = false ∧ handleFits (th WX) (hv WX 0) = true ∧ held WX 0 = true ∧
    handleLive WX (th WX) (hv WX 0) = true ∧ Room WX 0 ⟨0, 0, 0⟩ ∧ ¬ Room WXFull 0 ⟨0, 0, 0⟩ ∧ Issues WX 0 (th WX) [26, 26] [] 4 ∧ Plain [26, 26] ∧ Usable WX (th WX) 0 ∧
    ¬ Usable WX (th WX) 2 ∧ ¬ Usable WX (th WX) 4 ∧ family (slotOf WX ⟨0, 0, 0⟩ 1).fmt = 1 ∧ Issues WX 0 (th WX) [26, 30] [] 4 ∧
    (WX.core (th WX).pos.coreRef).extid.getLsbD 4 = true ∧ Issues WXFull 0 (th WXFull) [] [] 4 ∧ Usable WXFull (th WXFull) 0 ∧ Issues WX 0 (th WX) [] [] 4 := by
  and_intros
  all_goals first
    | decide +kernel
    | exact issues_of (by decide +kernel)
    | (unfold Plain; decide +kernel)
    | (unfold OwnSlot; decide +kernel)
    | (unfold Room; decide +kernel)
    | (unfold Usable; decide +kernel)
theorem operand_of {s : State} {t o : Thread} {v : Word} (h : v.toNat ≤ 23 ∧ (slotOf s t.pos.tileRef v.toNat).state = .loaded ∧
    (slotOf s t.pos.tileRef v.toNat).releasing = false ∧ s.thread? (slotOf s t.pos.tileRef v.toNat).owner = some o ∧ o.launch = t.launch ∧
    o.pos.tileRef = t.pos.tileRef) : Operand s t v := ⟨h.1, h.2.1, h.2.2.1, o, h.2.2.2⟩
theorem test_hyps_mma : Operand WX (th WX) (valueOf WX (th WX) 26) ∧ Operand WX (th WX) (valueOf WX (th WX) 30) ∧ ¬ Operand WX (th WX) (valueOf WX (th WX) 0) ∧
    typeOf 1 = (accOf WX ⟨0, 0, 0⟩ 0).ty ∧ Issues WX 0 (th WX) [0, 26] [] 4 ∧ Issues WX 0 (th WX) [16] [7] 4 ∧ Plain [16] ∧
    (valueOf WX (th WX) 16).toNat % fmtAlign 2 = 0 ∧ Issues WX 0 (th WX) [29] [7] 4 ∧ (accOf WX ⟨0, 0, 0⟩ 0).state = .owned ∧ (accOf WX ⟨0, 0, 0⟩ 4).state = .free ∧
    Unlocked WX ⟨0, 0, 0⟩ 0 ∧ ¬ Unlocked WX ⟨0, 0, 0⟩ 1 ∧ (accOf WX ⟨0, 0, 0⟩ 2).crew ≠ (th WX).crew ∧ (accOf WX ⟨0, 0, 0⟩ 3).state = .away ∧
    (accOf WX ⟨0, 0, 0⟩ 3).crew ≠ (th WX).crew := by
  and_intros
  all_goals first
    | decide +kernel
    | exact operand_of (o := th WX) (by decide +kernel)
    | exact fun h => absurd h.2.1 (by decide +kernel)
    | exact issues_of (by decide +kernel)
    | (unfold Plain; decide +kernel)
    | (unfold Unlocked; decide +kernel)
theorem test_hyps_acc_moves : r287 (.mrdr 3 34 0) = some (true, true, 3#5, 34#6, 0#3) ∧ Issues WX 0 (th WX) [34] [] 6 ∧ Issues WX 0 (th WX) [35] [] 6 ∧ Plain [34] ∧
    Issues WXNoV 0 (th WXNoV) [34] [] 6 ∧ (th WXNoV).vlen = 0 ∧ (th WX).vlen = 32 ∧ Usable WX (th WX) 5 ∧ Unlocked WX ⟨0, 0, 0⟩ 5 ∧ sliceCount (accOf WX ⟨0, 0, 0⟩ 5) true = 16 := by
  and_intros
  all_goals first
    | decide +kernel
    | exact issues_of (by decide +kernel)
    | (unfold Plain; decide +kernel)
    | (unfold Usable; decide +kernel)
    | (unfold Unlocked; decide +kernel)
    | rfl

/-! ### Keystone, Truss, collective groups -/

/-- Join 3 of generation 1 is open for two I32 elements; result area and descriptors in the scratchpad: g8 good, g16 to g22 with one fault each. -/
def aJoin : Join := { Join.init with state := .opened, gen := 1, n := 2, k := 1, wtot := 2, ty := 1, len := 2, res := [0x40000], acc := [0, 0] }
def descr (a n kf wtot d1 res : Nat) (m : List Host.Cell) : List Host.Cell :=
  memWrite m (0x020000000000 + a) 32 (n + kf * 2 ^ 16 + wtot * 2 ^ 32 + d1 * 2 ^ 64 + res * 2 ^ 128)
def WKey (f : Thread → Thread) : State :=
  let s := WMem (fun t => f (regs [(3, 3 * 4096 + 1), (8, 0x110300), (16, 0x110320), (17, 0x110340), (18, 0x110360), (19, 0x110380), (20, 0x1103A0), (22, 0x110304),
    (23, 2 ^ 63), (24, 1), (25, 2), (26, 3), (27, 2 * 2 ^ 62), (28, 5), (29, 3 * 2 ^ 62), (30, 64), (31, 2 ^ 32 + 5)] t))
  { s with
    joins := [((⟨0, 0⟩, 3), aJoin)]
    crews := [(⟨0, 0, 0, 0, 0⟩, { Crew.init 0 0 113 with cap := some 4, wedge := 9 })]
    launches := [(0, { aLaunch with words := [0, 0, 0, BitVec.ofNat 64 (1 + 2 ^ 37 + 2 ^ 32), 0], trees := [BitVec.ofNat 64 (2 ^ 63 + 1), 0, BitVec.ofNat 64 (2 ^ 63 + 2)], routers := [⟨0, ⟨0, 0, 0⟩, 4, 1⟩, ⟨2, ⟨0, 0, 0⟩, 4, 2⟩] })]
    mem := descr 0x300 2 1 2 0x102 0x110400 (descr 0x320 2 1 2 0x2102 0x110400 (descr 0x340 0 1 2 0x102 0x110400 (descr 0x360 2 1 0 0x102 0x110400
      (descr 0x380 2 1 2 0x100 0x110400 (descr 0x3A0 2 1 2 0x102 0x110401 s.mem))))) }
def WJ : State := WKey id
def WJMember : State := WKey (fun t => { t with join := some ⟨0, 0, 3, 1⟩ })
def WJV : State := WKey (fun t => { t with join := some ⟨0, 0, 3, 1⟩, vlen := 32 })
def WJFull : State := { WKey id with joins := (List.range 256).map (fun k => ((⟨0, 0⟩, k), aJoin)) }
/-- Register 2 is an address of another package; the launch's first package is the other one. -/
def WJPeer : State :=
  let s := WJ.updTile ⟨0, 0, 0⟩ (fun x => { x with tlb := [⟨0, 0x8000, 0x110000, 0x10000, 0x40100000000213F#64, []⟩] })
  { s with launches := s.launches.map (fun e => (e.1, { e.2 with pkgs := [1, 0] })) }
def WG (x : GroupBind) : State := WKey (fun t => { t with groups := t.groups.set 1 (some x) })

theorem test_jopen : [8, 16, 17, 18, 19, 20, 22].map (fun a => gives WJ (.jopen 7 a) 7) = [1, 2 ^ 63 + 19, 2 ^ 63 + 20, 2 ^ 63 + 21, 2 ^ 63 + 22, 2 ^ 63 + 23, 2 ^ 63 + 16] ∧
    gives WJFull (.jopen 7 8) 7 = 2 ^ 63 + 25 ∧ feAt WJ (.jopen 7 8) (0x020000000400 / 8) = false ∧ gives WJ (.jarr 7 28 24 0) 7 = 2 ^ 63 + 6 ∧
    (th (after (exec (.jarr 7 28 24 1) WJMember))).ecause = 0x0C#64 ∧ (after (exec (.jarr 7 31 0 0) WJMember)).keyReqs.map (·.2.op) = [.arrive [5, 1] 1] ∧
    (after (exec (.jbind 7 3 1) WJ)).keyReqs.map (·.2.join) = [⟨0, 0, 3, 1⟩] ∧ (after (exec (.jqry 7 31) WJ)).keyReqs.map (·.2.join) = [⟨0, 0, 0, 0⟩] ∧
    (th (after (exec (.jwait 7 3 1) WJ))).wait = some .answer := by decide +kernel
theorem test_truss : gives WJ (.shrd 7 0) 7 = 113 * 2 ^ 48 ∧ gives WJ (.shrd 7 24) 7 % 65536 = 1 ∧ gives WJ (.shrd 7 26) 7 = 2 ^ 64 - 1 ∧ gives WJ (.shcap 7 23) 7 = 4 ∧
    gives WJ (.shcap 7 30) 7 = 2 ^ 64 - 1 ∧ gives WJ (.wedge 7 27) 7 = 9 ∧ gives WJ (.wedge 7 29) 7 = 2 ^ 64 - 1 ∧ gives WJ (.wclr 7) 7 = 9 := by decide +kernel
theorem test_groups : gives WJ (.copen 7 0 0 1) 7 = 0 ∧ gives WJ (.copen 7 30 0 1) 7 = 2 ^ 63 + 2 ∧ gives WJ (.copen 7 25 0 1) 7 = 2 ^ 63 + 3 ∧ gives (WG ⟨0, 1, 1, [4]⟩) (.copen 7 0 0 1) 7 = 2 ^ 63 + 5 ∧
    gives WJ (.cclose 7 1) 7 = 2 ^ 63 + 8 ∧ gives (WG ⟨0, 1, 1, [4]⟩) (.cwait 7 1) 7 = 1 ∧ (th (after (exec (.cwait 7 1) (WG ⟨0, 2, 1, [4]⟩)))).wait = some (.cwait 7 1) ∧
    gives (WG ⟨0, 1, 1, [4]⟩) (.cclose 7 1) 7 = 0 := by decide +kernel

def rt (s : State) (m : List (BitVec 6)) (va n : Nat) : Option Word := readThrough (afterIssue s 0 (th s) m) (th s) (va + 8 * n)
theorem test_hyps_journeys : Issues WJPeer 0 (th WJPeer) [8] [7] 1 ∧ (valueOf WJPeer (th WJPeer) 8).toNat % 8 = 0 ∧
    openPeers (afterIssue WJPeer 0 (th WJPeer) [8]) (th WJPeer) (valueOf WJPeer (th WJPeer) 8) = [1] ∧ Free (th WJPeer) [7] ∧ Plain [8] ∧ Plain [0, 0] ∧
    openPeers (afterIssue WJ 0 (th WJ) [8]) (th WJ) (valueOf WJ (th WJ) 8) = [] ∧ (th WJPeer).sfuLeft = 0 ∧
    Issues WJPeer 0 (th WJPeer) [0, 0] [7] 1 ∧ (afterIssue WJPeer 0 (th WJPeer) [0, 0]).rootPkg (th WJPeer).launch (th WJPeer).pos.pkg = 1 ∧ (th WJPeer).pos.pkg = 0 ∧
    (afterIssue WJ 0 (th WJ) [0, 0]).rootPkg (th WJ).launch (th WJ).pos.pkg = 0 ∧ copenRouted (afterIssue WJ 0 (th WJ) [0, 0]) (th WJ) 0 = true ∧
    (th (after (exec (.jopen 7 8) WJPeer))).wait = some .answer ∧ (th (after (exec (.copen 7 0 0 1) WJPeer))).wait = some .answer := by
  and_intros
  all_goals first
    | decide +kernel
    | exact issues_of (by decide +kernel)
    | (unfold Free; decide +kernel)
    | (unfold Plain; decide +kernel)
theorem test_hyps_joins : joinRequest (.jbind 7 3 1) = some (7, 3, .bind true, .joinBindRequest) ∧ Issues WJ 0 (th WJ) [3] [7] 1 ∧ Issues WJ 0 (th WJ) [28, 24] [7] 1 ∧
    (th WJ).relaxed = [] ∧ (th WJ).lost = [] ∧ (th WJ).join = none ∧ Issues WJMember 0 (th WJMember) [24] [7] 1 ∧ (th WJMember).vlen = 0 ∧
    Issues WJMember 0 (th WJMember) [31, 0] [7] 1 ∧ (th WJMember).join = some ⟨0, 0, 3, 1⟩ ∧ Issues WJV 0 (th WJV) [0] [7] 1 ∧ (th WJV).vlen = 32 ∧
    (∀ a ∈ ([8, 16, 17, 18, 19, 20, 22] : List (BitVec 6)), Issues WJ 0 (th WJ) [a] [7] 1 ∧ Plain [a]) ∧ Free (th WJ) [7] ∧ plain 7 ∧ (th WJ).sfuLeft = 0 ∧
    rt WJ [8] 0x110300 0 = some 0x200010002#64 ∧ rt WJ [8] 0x110300 1 = some 0x102#64 ∧ rt WJ [8] 0x110300 2 = some 0x110400#64 ∧ rt WJ [8] 0x110300 3 = some 0#64 ∧
    (∀ k, k < 4 → badThrough (afterIssue WJ 0 (th WJ) [8]) (th WJ) ((0x110300 + 8 * k) % 2 ^ 64) = false) ∧
    resultWord (afterIssue WJ 0 (th WJ) [8]) (th WJ) 0x110400 = some 0x020000000400 ∧ (WJ.join ⟨0, 0⟩ 0).state = .free ∧
    (∀ k, k < 256 → (WJFull.join ⟨0, 0⟩ k).state ≠ .free) ∧ Issues WJFull 0 (th WJFull) [8] [7] 1 ∧
    rt WJ [16] 0x110320 1 = some 0x2102#64 ∧ rt WJ [17] 0x110340 0 = some 0x200010000#64 ∧ rt WJ [18] 0x110360 0 = some 0x10002#64 ∧
    rt WJ [19] 0x110380 1 = some 0x100#64 ∧ rt WJ [20] 0x1103A0 2 = some 0x110401#64 := by
  and_intros
  all_goals first
    | decide +kernel
    | exact issues_of (by decide +kernel)
    | exact fun a ha => ⟨issues_of ((by decide +kernel : ∀ r ∈ ([8, 16, 17, 18, 19, 20, 22] : List (BitVec 6)), issuesB WJ 0 (th WJ) [r] [7] 1 = true) a ha), (by unfold Plain; decide +kernel : ∀ r ∈ ([8, 16, 17, 18, 19, 20, 22] : List (BitVec 6)), Plain [r]) a ha⟩
    | (unfold Free; decide +kernel)
    | rfl
def aBind (s : Nat) : GroupBind := ⟨0, s, 1, [4]⟩
def aCrew : Crew := { Crew.init 0 0 113 with cap := some 4, wedge := 9 }
theorem test_hyps_truss : (∀ a ∈ ([0, 24, 25, 26, 23, 27, 29, 30] : List (BitVec 6)), Issues WJ 0 (th WJ) [a] [7] 1) ∧ (∀ a ∈ ([0, 24, 25, 26, 23, 27, 29, 30] : List (BitVec 6)),
      (afterIssue WJ 0 (th WJ) [a]).crew? (th WJ).crew = some aCrew) ∧ WJ.crew? (th WJ).crew = some aCrew ∧ Issues WJ 0 (th WJ) [] [7] 1 ∧
    Issues WJ 0 (th WJ) [0, 0] [7] 1 ∧ Free (th WJ) [7] ∧ Plain [0, 0] ∧ Issues WJ 0 (th WJ) [30, 0] [7] 1 ∧ Issues WJ 0 (th WJ) [25, 0] [7] 1 ∧
    (th WJ).groups.toArray.getD 1 none = none ∧ badControl 0 0 = false ∧ (∃ x, WJ.launches.get? (th WJ).launch = some x ∧
      treeLeaves x 0 = some [(th WJ).start] ∧ treeLeaves x 2 = some [⟨0, 0, 0, 1, 0⟩] ∧ x.pkgs.length ≤ 1) ∧ WJ.group? (th WJ).part 0 = none ∧
    Issues (WG (aBind 1)) 0 (th (WG (aBind 1))) [0, 0] [7] 1 ∧ (th (WG (aBind 1))).groups.toArray.getD 1 none = some (aBind 1) ∧
    Free (th (WG (aBind 1))) [7] ∧ Issues (WG (aBind 1)) 0 (th (WG (aBind 1))) [] [7] 1 ∧ (aBind 1).sent ≤ (aBind 1).got ∧
    Issues (WG (aBind 2)) 0 (th (WG (aBind 2))) [] [7] 1 ∧ (aBind 2).got < (aBind 2).sent ∧ (th (WG (aBind 2))).groups.toArray.getD 1 none = some (aBind 2) := by
  and_intros
  all_goals first
    | decide +kernel
    | exact fun a ha => issues_of ((by decide +kernel : ∀ r ∈ ([0, 24, 25, 26, 23, 27, 29, 30] : List (BitVec 6)), issuesB WJ 0 (th WJ) [r] [7] 1 = true) a ha)
    | exact issues_of (by decide +kernel)
    | (unfold Free; decide +kernel)
    | (unfold Plain; decide +kernel)
    | exact ⟨_, rfl, by decide +kernel, by decide +kernel, by decide +kernel⟩
/-- SHRD 1 and 2: one crew, cap 4, at point 7 of the tile; with three shares of its own parked at the pool, and slack of each kind. -/
def WShrd : State :=
  let s := { WJ with loans := [⟨7, ⟨0, 0, 0, 1, 0⟩, [⟨0, 0, 0, 1, 0⟩, ⟨0, 0, 0, 0, 0⟩], .crew ⟨0, 0, 0, 0, 0⟩, 3, .pool, 0, none⟩] }
  ((s.updTile ⟨0, 0, 0⟩ (fun x => { x with point := some 7, slackIn := [(1, 5)] })).updPart ⟨0, 0⟩ (fun p => { p with pool := 20, allot := 200, slackOut := [(⟨0, 0, 1⟩, 9)] }))
theorem test_shrd : bits (gives WShrd (.shrd 7 24) 7) 47 44 = 7 ∧ bits (gives WShrd (.shrd 7 24) 7) 43 39 = 9 ∧ bits (gives WShrd (.shrd 7 24) 7) 31 16 = 3 ∧
    bits (gives WShrd (.shrd 7 25) 7) 63 48 = 200 ∧ bits (gives WShrd (.shrd 7 25) 7) 47 32 = 20 ∧ bits (gives WShrd (.shrd 7 25) 7) 31 16 = 9 ∧
    bits (gives WShrd (.shrd 7 25) 7) 15 0 = 5 := by decide +kernel
theorem test_hyps_shrd : Issues WShrd 0 (th WShrd) [24] [7] 1 ∧ Issues WShrd 0 (th WShrd) [25] [7] 1 ∧ valueOf WShrd (th WShrd) 24 = 1 ∧ valueOf WShrd (th WShrd) 25 = 2 ∧
    (let m := afterIssue WShrd 0 (th WShrd) [24]
     let states := (m.part ⟨0, 0⟩).vstates
     (th WShrd).crew.tileRef = ⟨0, 0, 0⟩ ∧ (crewsOn m ⟨0, 0, 0⟩).length < 2 ^ 16 ∧ (∀ e ∈ m.crews, ∀ n ∈ e.2.cap, n < 16) ∧ (m.tile ⟨0, 0, 0⟩).point = some 7 ∧
       states.getD 7 15 ≤ 7 ∧ (∀ k, k < 16 → 7 < k → 7 < states.getD k 15) ∧ ((crewsOn m ⟨0, 0, 0⟩).map (fun e => e.2.cap)) = [some 4]) := by
  and_intros
  all_goals first
    | decide +kernel
    | exact issues_of (by decide +kernel)

/-! ### Events of one thread -/

def okS (s : State) : Bool := memWf s.mem && decide (s.thread? 0 = some (th s))
def me : Obj := .thread 0
/-- The state and its thread after an event. -/
def ev (i : Instr) (o : Obj) (s : State) : State := after (exec i (on s o))
def evT (i : Instr) (o : Obj) (s : State) : Thread := th (ev i o s)
def idle (i : Instr) (o : Obj) (s : State) : Bool := decide (ev i o s = on s o)
def parkedIn (w : Wait) (t : Thread) : Thread := { t with status := .parked, wait := some w }

def WQFull : State := WBound.updTile ⟨0, 0, 0⟩ (fun x => { x with queues := [(2, ⟨some 0, List.replicate 64 6⟩)] })
theorem test_special_events : (evT .streamRegisterRead (.threadNum 0 48) WBound).streams.toArray.getD 0 none = none ∧
    (evT .groupResultRead (.threadNum 0 52) WBound).groups.toArray.getD 0 none = some ⟨3, 1, 1, []⟩ ∧
    (evT .groupContribute (.threadReg 0 52 5) WBound).groups.toArray.getD 0 none = some ⟨3, 2, 1, [11]⟩ ∧
    ((ev .queuePop (.threadNum 0 56) WBound).hwQueue ⟨0, 0, 0⟩ 2).items = [] ∧ ((ev .queuePush (.threadReg 0 56 8) WBound).hwQueue ⟨0, 0, 0⟩ 2).items = [6, 8] ∧
    idle .queuePush (.threadReg 0 56 8) WQFull = true := by decide +kernel
/-- A member that has moved away from package 1; contributions that can and cannot reach their leaf. -/
def WAway : State := { WBound.updThread 0 (fun t => { t with start := ⟨1, 0, 0, 0, 0⟩ }) with
  contribs := [(5, ⟨0, 3, 1, ⟨0, 0, 0, 0, 0⟩, 9, 0, 0, false⟩), (6, ⟨0, 3, 1, ⟨1, 0, 0, 0, 0⟩, 9, 0, 0, false⟩)] }
theorem test_contributions : ((ev .groupContribute (.threadReg 0 52 5) WAway).contribs.get? WAway.fresh).map (·.val) = some 5 ∧
    (evT .groupContribute (.threadReg 0 52 5) WAway).groups.toArray.getD 0 none = some ⟨3, 2, 1, [11]⟩ ∧
    (ev .groupContribute (.num 5) WAway).contribs.map (·.1) = [6] ∧ (ev .groupContribute (.num 5) WAway).fresh = WAway.fresh ∧
    idle .groupContribute (.num 6) WAway = true := by decide +kernel
theorem test_hyps_contributions : okS WAway = true ∧ (th WAway).pos.pkg ≠ (th WAway).start.pkg ∧ (th WAway).groups.toArray.getD 0 none = some ⟨3, 1, 1, [11]⟩ ∧
    (th WBound).pos.pkg = (th WBound).start.pkg ∧ ((WBound.group? (th WBound).part 3).map (·.first)) = some 0 ∧
    WAway.contribs.get? 5 = some ⟨0, 3, 1, ⟨0, 0, 0, 0, 0⟩, 9, 0, 0, false⟩ ∧ routed WAway 0 0 0 0 = true ∧ routed WAway 0 0 0 1 = false ∧
    (WAway.group? 0 3).isSome = true := by decide +kernel
theorem test_hyps_special_events : okS WBound = true ∧ okS WQFull = true ∧ (th WBound).streams.toArray.getD 0 none = some ⟨0, 1, [9], true⟩ ∧
    (th WBound).groups.toArray.getD 0 none = some ⟨3, 1, 1, [11]⟩ ∧ (WBound.group? (th WBound).part 3).isSome = true ∧
    (th WBound).queues.toArray.getD 0 none = some ⟨2, none⟩ ∧ (∀ e ∈ WBound.threads, queueWaiters (th WBound).pos.tileRef 2 true e.2 = false) ∧
    (WBound.hwQueue (th WBound).pos.tileRef 2).items.length < 64 ∧ 64 ≤ (WQFull.hwQueue (th WQFull).pos.tileRef 2).items.length := by decide +kernel

/-- In ENTRY; in ENTRY of a hypercall from S, with its code. -/
def WEntry (c : Nat) : State := rdy (fun t => { t with status := .entry, ecause := BitVec.ofNat 64 (0x20 + c * 256), estat := 1, epc := 0x100020#64, tstat := putBits t.tstat 1 0 2 })
def WEntryU : State := rdy (fun t => { t with status := .entry, kill := .held })
/-- In ENTRY with a wait, and with a request at the SFU. -/
def WEntryW : State := rdy (fun t => { t with status := .entry, wait := some (.fence 0) })
def WEntryS : State := rdy (fun t => { t with status := .entry, sfuLeft := 2 })
def WWaking : State := rdy (fun t => { t with status := .waking })
def WWait' (w : Wait) : State := rdy (parkedIn w)
def WFlightFar : State := rdy (fun t => { t with place := .flight ⟨1, 0, 0, 0, 0⟩ ⟨0, 0, 3, 2, 5⟩ })
def WFlight : State := rdy (fun t => { t with place := .flight ⟨0, 0, 0, 0, 0⟩ ⟨0, 0, 3, 2, 5⟩, start := ⟨0, 0, 0, 0, 0⟩ })
theorem test_thread_events : (evT .entryEnd me WEntryU).status = .ready ∧ (evT .entryEnd me (WEntry 0x805)).reg 3 = BitVec.ofNat 64 (2 ^ 64 - 1) ∧
    (evT .entryEnd me (WEntry 0x805)).pc = 0x100020#64 ∧ (ev .entryEnd me (WEntry 0x801)).agenda.contains (.event .ptebits me) = true ∧
    (ev .entryEnd me WEntryU).agenda.contains (.event .killTaken me) = true ∧ idle .entryEnd me (rdy id) = true ∧ (evT .parkResume me WWaking).status = .ready ∧
    (evT .migSlotRetry me (WWait' .migSlot)).status = .waking ∧ idle .migSlotRetry me (WWait' .lock) = true ∧ (evT .extmigSlotRetry me (WWait' .extmigSlot)).wait = none ∧
    (evT .migrationArrival me WFlight).place = .slot ⟨0, 0, 3, 2, 5⟩ ∧ (evT .antiPingpongEnd me (rdy id)).appt = 0 ∧
    (evT .entryEnd me WEntryW).status = .parked ∧ (evT .entryEnd me WEntryW).wait = some (.fence 0) ∧ (evT .entryEnd me WEntryS).wait = some .sfu ∧
    idle .migrationArrival me WFlightFar = true := by decide +kernel
theorem test_hyps_thread_events : okS WEntryU = true ∧ okS (WEntry 0x801) = true ∧ okS (WEntry 0x805) = true ∧ okS WWaking = true ∧ okS (WWait' .migSlot) = true ∧ okS WFlight = true ∧
    (th WEntryU).status = .entry ∧ (th WEntryU).priv ≠ 2 ∧ (th WEntryU).kill = .held ∧ (th (WEntry 0x805)).priv = 2 ∧
    bits (th (WEntry 0x805)).ecause.toNat 7 0 = 0x20 ∧ bits (th (WEntry 0x805)).estat.toNat 1 0 = 1 ∧ bits (th (WEntry 0x801)).ecause.toNat 19 8 = 0x801 ∧
    (th (WEntry 0x805)).slot?.isSome = true ∧ (th (WEntry 0x805)).inbox = [] ∧ (th (rdy id)).status ≠ .entry ∧ (th WWaking).status = .waking ∧
    (th (WWait' .migSlot)).wait = some .migSlot ∧ (th (WWait' .migSlot)).status = .parked ∧ (th (WWait' .migSlot)).slot?.isSome = true ∧ (th (WWait' .migSlot)).sfuLeft = 0 ∧
    (th (WWait' .migSlot)).wait ≠ some .extmigSlot ∧ (th WFlight).place = .flight ⟨0, 0, 0, 0, 0⟩ ⟨0, 0, 3, 2, 5⟩ ∧ (th WFlight).arriving = none ∧
    (th (rdy id)).appt ≤ (rdy id).now (th (rdy id)).pos.pkg ∧
    okS WEntryW = true ∧ (th WEntryW).wait.isSome = true ∧ (th WEntryW).status = .entry ∧ okS WEntryS = true ∧ (th WEntryS).sfuLeft ≠ 0 ∧ (th WEntryS).status = .entry ∧
    (th WEntryU).wait = none ∧ (th WEntryU).sfuLeft = 0 ∧ (th WWaking).priv ≠ 2 ∧ routed WFlight 0 0 0 0 = true ∧ okS WFlightFar = true ∧ routed WFlightFar 1 0 0 0 = false := by decide +kernel

/-- Parked at a word since time 0, the time now 5 ms, and a watchdog of `n` us. -/
def WDog (n : Nat) : State := ((WWait .word).updPart ⟨0, 0⟩ (fun x => { x with wdog := n })).updPkg 0 (fun x => { x with time := 5000000 })
def WKill (k : Kill) (f : Thread → Thread) : State := rdy (fun t => f { t with kill := k, join := some ⟨0, 0, 3, 1⟩ })
/-- A kill on its way to thread 0's own tile. -/
def here : Kill := .sent 0 ⟨0, 0, 0⟩ 0
def held512 (t : Thread) : Thread := { t with tstat := putBits t.tstat 14 14 1, holdCount := 512 }
theorem test_watchdog_kills : (evT .watchdogExpiry me (WDog 4000)).ecause = 0x12#64 ∧ (evT .watchdogExpiry me (WDog 4000)).eval = 5000#64 ∧
    (ev .watchdogExpiry me (WDog 4000)).feWaiters = [] ∧ idle .watchdogExpiry me (WDog 5000) = true ∧ idle .watchdogExpiry me (WDog 0) = true ∧
    (evT .killDelivery me (WKill here id)).kill = .held ∧ (ev .killTaken me (WKill .held id)).thread? 0 = none ∧
    (ev .killTaken me (WKill .held id)).agenda.contains (.event .retractionEnd (.member ⟨0, 0, 3, 1⟩ 0)) = true ∧ idle .killTaken me (WKill .held held512) = true ∧
    idle .killTaken me (WKill .none id) = true ∧ (evT .kholdlong me (WKill .none held512)).ecause = 0x0B#64 ∧ (ev .kholdlong me (WKill .held held512)).thread? 0 = none ∧
    idle .kholdlong me (WKill .held id) = true := by decide +kernel
theorem test_hyps_watchdog_kills : okS (WDog 4000) = true ∧ (th (WDog 4000)).priv = 0 ∧ (th (WDog 4000)).status = .parked ∧ (th (WDog 4000)).slot?.isSome = true ∧
    (th (WDog 4000)).wait = some .word ∧ ((WDog 4000).part ⟨0, 0⟩).wdog = 4000 ∧ (WDog 4000).now 0 - (th (WDog 4000)).parkedAt = 5000000 ∧ okS (WDog 5000) = true ∧
    ((WDog 5000).part ⟨0, 0⟩).wdog = 5000 ∧ (WDog 5000).now 0 - (th (WDog 5000)).parkedAt = 5000000 ∧
    okS (WKill here id) = true ∧ (th (WKill here id)).join = some ⟨0, 0, 3, 1⟩ ∧ routed (WKill here id) 0 0 0 0 = true ∧ okS (WKill .held id) = true ∧ okS (WKill .held held512) = true ∧ okS (WKill .none held512) = true ∧ (th (WKill here id)).kill = here ∧
    (th (WKill .held id)).kill = .held ∧ killable (WKill .held id) 0 (th (WKill .held id)) = true ∧ (th (WKill .held id)).relaxed = [] ∧
    killable (WKill .held held512) 0 (th (WKill .held held512)) = false ∧ (th (WKill .held held512)).status = .ready ∧ (th (WKill .held held512)).khold = true ∧
    512 ≤ (th (WKill .held held512)).holdCount ∧ (th (WKill .held held512)).priv ≠ 2 ∧ inMma (WKill .held held512) (th (WKill .held held512)) = false ∧
    tripsDone (WKill .held held512) 0 = true ∧ (th (WKill .held held512)).slot?.isSome = true ∧ (th (WKill .none held512)).kill ≠ .held ∧ (th (rdy id)).khold = false := by decide +kernel

/-- A result of round `r` on its way to a member, and to a leaf that has none; a contribution at its leaf whose root is another package's. -/
def aResult (r : Nat) : Contribution := ⟨0, 3, r, ⟨0, 0, 0, 0, 0⟩, 9, 0, 0, true⟩
def WResult (r : Nat) : State := { WBound with contribs := [(5, aResult r), (6, { aResult r with leaf := ⟨1, 0, 0, 0, 0⟩ })] }
def rootward : Contribution := ⟨0, 3, 1, ⟨0, 0, 0, 0, 0⟩, 9, 0, 0, false⟩
def WRootFar : State := { WBound with contribs := [(5, rootward)], launches := [(0, ⟨0, 0, [], [], [1, 0], 0, [], true, 1, 0, 0, [], [], false, [], []⟩)] }
theorem test_results_travel : (evT .groupContribute (.num 5) (WResult 1)).groups.toArray.getD 0 none = some ⟨3, 1, 2, [11, 9]⟩ ∧ idle .groupContribute (.num 5) (WResult 2) = true ∧
    ((ev .groupContribute (.num 5) (WResult 0)).contribs.get? 5) = none ∧ ((ev .groupContribute (.num 6) (WResult 1)).contribs.get? 6) = none ∧
    ((ev .groupContribute (.num 5) WRootFar).contribs.get? 5).map (·.from_) = some 0 := by decide +kernel
theorem test_hyps_results_travel : okS (WResult 1) = true ∧ (∀ r, r < 3 → (WResult r).contribs.get? 5 = some (aResult r)) ∧
    ((WResult 1).contribs.get? 6).map (·.leaf) = some ⟨1, 0, 0, 0, 0⟩ ∧ ((WResult 1).group? 0 3).map (·.bound) = some [(⟨0, 0, 0, 0, 0⟩, 0, 0)] ∧
    (th (WResult 1)).groups.toArray.getD 0 none = some ⟨3, 1, 1, [11]⟩ ∧ (th (WResult 1)).wait = none ∧ routed (WResult 1) 0 0 0 0 = true ∧
    okS WRootFar = true ∧ WRootFar.contribs.get? 5 = some rootward ∧ routed WRootFar 0 0 0 0 = true ∧ routed WRootFar 0 0 0 (WRootFar.rootPkg 0 0) = false := by decide +kernel

def WEntryH : State := (WEntry 0x801).updThread 0 (fun t => { t with haltReq := true })
def WEntryK : State := WEntryW.updThread 0 (fun t => { t with kill := .held })
def WLanesBack : State := rdy (fun t => { t with status := .waking, savedVlen := 32 })
def WDogLate : State := (WDog 4000).updThread 0 (fun t => { t with wait := some (.late 56 5) })
theorem test_more_thread_events : (ev .entryEnd me WEntryH).agenda.contains (.event .debugHalt me) = true ∧ (ev .entryEnd me WEntryK).agenda.contains (.event .killTaken me) = true ∧
    (evT .parkResume me WLanesBack).vlen = 32 ∧ (evT .parkResume me WLanesBack).savedVlen = 0 ∧ (evT .watchdogExpiry me WDogLate).ecause = 0x12#64 ∧
    idle .antiPingpongEnd me WFlight = true := by decide +kernel
theorem test_hyps_more_thread_events : okS WEntryH = true ∧ (th WEntryH).status = .entry ∧ (th WEntryH).wait = none ∧ (th WEntryH).sfuLeft = 0 ∧ hypercall (th WEntryH) ∧
    bits (th WEntryH).estat.toNat 1 0 = 1 ∧ (th WEntryH).haltReq = true ∧ okS WEntryK = true ∧ (th WEntryK).kill = .held ∧ okS WLanesBack = true ∧
    (th WLanesBack).status = .waking ∧ ¬ hypercall (th WLanesBack) ∧ (th WLanesBack).savedVlen ≠ 0 ∧ 8 ≤ r189 WLanesBack 0 (th WLanesBack) 32 ∧ okS WDogLate = true ∧
    (th WDogLate).wait = some (.late 56 5) ∧ (th WDogLate).priv = 0 ∧ (th WDogLate).status = .parked ∧ (WDogLate.now 0 - (th WDogLate).parkedAt) = 5000000 ∧
    (WDogLate.part ⟨0, 0⟩).wdog = 4000 := by
  and_intros
  all_goals first
    | decide +kernel
    | (unfold hypercall; decide +kernel)

/-- A kill without a route, at a tile with a live stub of its thread, at one without, and back at the join's home. -/
def far (a n : Nat) : Kill := .sent a ⟨0, 0, 5⟩ n
def WStubbed (k : Kill) : State :=
  let s := WKill k id
  s.updTile ⟨0, 0, 5⟩ (fun x => { x with stubs := [⟨(th s).epid, ⟨0, 0, 0, 0, 0⟩, 500⟩] })
def WKillHome (k : Kill) : State :=
  let s := WKill k id
  s.updTile (homeOf (th s).epid.toNat) (fun x => { x with dir := [((th s).epid, .slot ⟨0, 0, 0, 0, 0⟩)] })
theorem test_kill_travels : idle .killDelivery me (WKill (far 1 0) id) = true ∧ (evT .killDelivery me (WStubbed (far 0 0))).kill = .sent 0 ⟨0, 0, 0⟩ 1 ∧
    (evT .killDelivery me (WStubbed (far 0 4))).kill = .back 0 ∧ (evT .killDelivery me (WKill (far 0 0) id)).kill = .back 0 ∧
    (evT .killDelivery me (WKillHome (.back 0))).kill = .sent 0 ⟨0, 0, 0⟩ 0 := by decide +kernel
theorem test_hyps_kill_travels : okS (WKill (far 1 0) id) = true ∧ (th (WKill (far 1 0) id)).kill = far 1 0 ∧ routed (WKill (far 1 0) id) 1 0 0 0 = false ∧
    okS (WStubbed (far 0 0)) = true ∧ routed (WStubbed (far 0 0)) 0 0 0 0 = true ∧ standsAt (th (WStubbed (far 0 0))).place ≠ ⟨0, 0, 5⟩ ∧
    liveStub (WStubbed (far 0 0)) ⟨0, 0, 5⟩ (th (WStubbed (far 0 0))).epid = some ⟨(th (WStubbed (far 0 0))).epid, ⟨0, 0, 0, 0, 0⟩, 500⟩ ∧
    liveStub (WKill (far 0 0) id) ⟨0, 0, 5⟩ (th (WKill (far 0 0) id)).epid = none ∧ okS (WKillHome (.back 0)) = true ∧ (th (WKillHome (.back 0))).kill = .back 0 ∧
    ((WKillHome (.back 0)).tile (homeOf (th (WKillHome (.back 0))).epid.toNat)).dir.get? (th (WKillHome (.back 0))).epid = some (.slot ⟨0, 0, 0, 0, 0⟩) := by decide +kernel

/-! ### Pre-emption and debugging -/

/-- A context memory of two areas from 0x1000000. -/
def ctxm (s : State) : State := s.updPart ⟨0, 0⟩ (fun x => { x with ctxBase := 0x1000000, ctxSize := 2 * 163840 })
def WSwap (f : Thread → Thread) : State := ctxm (rdy f)
def asked (t : Thread) : Thread := regs [(3, 77)] { t with swapReq := true }
def WOut : State := WSwap (fun t => { asked t with status := .swapOut, epc := 0x100040#64 })
def WOutFull : State := WOut.updPart ⟨0, 0⟩ (fun x => { x with images := [0, 1] })
/-- A context in area 0, its g3 and pc in the image; asked back into slot 4 of core 2 when `st` is swap-in. -/
def WImage (st : Status) : State :=
  let s := WSwap (fun t => { t with place := .image ⟨0, 0, 0⟩ 0, status := st, swapTo := some ⟨0, 0, 0, 2, 4⟩ })
  { (s.updPart ⟨0, 0⟩ (fun x => { x with images := [0] })) with mem := memWrite (memWrite (memWrite s.mem 0x1000018 8 99) 0x10002A0 8 0x100050) 0x1000200 8 (2 ^ 64 - 1) }
def area (k : Nat) : Nat := imageBase WOut 0 0 k
theorem test_swap : (evT .swapRequest me (WSwap id)).swapReq = true ∧ (evT .swapStart me (WSwap asked)).status = .swapOut ∧ idle .swapStart me (WSwap id) = true ∧
    idle .swapStart me (WSwap (fun t => held512 (asked t))) = true ∧ idle .swapOutDone me WOutFull = true := by decide +kernel
theorem test_swap_in : (evT .swapInRequest (.place 0 ⟨0, 0, 0, 2, 4⟩) (WImage .ready)).status = .swapIn ∧ idle .swapInRequest (.place 0 ⟨0, 0, 0, 2, 14⟩) (WImage .ready) = true ∧
    (ev .owedResultWrite (.threadReg 0 9 5) (WImage .ready)).rdWord 0x1000048 = 5#64 ∧
    (ev .accumulatorRestore me (WImage .swapIn)).agenda.contains (.event .swapInDone me) = true := by decide +kernel
def WHalted (b : Bool) : State := rdy (fun t => { t with status := .halted, brkHalt := b })
theorem test_debug : (evT .timeSliceEnd (.tileNum ⟨0, 0, 0⟩ 0) (rdy id)).swapReq = true ∧ (evT .debugHalt me (rdy id)).status = .halted ∧ (evT .debugHalt (.threadNum 0 1) (rdy id)).haltBrk = true ∧
    (evT .debugRegisterWrite (.threadReg 0 5 9) (WHalted true)).reg 5 = 9#64 ∧ (evT .debugRegisterWrite (.threadReg 0 72 0x100043) (WHalted true)).pc = 0x100040#64 ∧
    idle .debugRegisterWrite (.threadReg 0 5 9) (rdy id) = true ∧ (evT .debugResume me (WHalted true)).pc = 0x100008#64 ∧ (evT .debugResume me (WHalted false)).status = .ready := by decide +kernel
def atRestB (s : State) : Bool := (th s).slot?.isSome && ((th s).priv != 2 && ((th s).status == .ready || ((th s).status == .parked || (th s).status == .waking)))
theorem test_hyps_swap : okS (WSwap id) = true ∧ okS (WSwap asked) = true ∧ okS WOut = true ∧ okS WOutFull = true ∧ okS (WImage .ready) = true ∧ okS (WImage .swapIn) = true ∧
    atRestB (WSwap asked) = true ∧ (th (WSwap asked)).swapReq = true ∧ (th (WSwap asked)).khold = false ∧ vectorSfu (WSwap asked) 0 = false ∧ (th (WSwap asked)).wait = none ∧
    (th (WSwap id)).swapReq = false ∧ (th WOut).place = .slot ⟨0, 0, 0, 0, 0⟩ ∧ (th WOut).status = .swapOut ∧ 163840 ≤ (WOut.part ⟨0, 0⟩).ctxSize ∧
    0 ∉ (WOut.part ⟨0, 0⟩).images ∧ (WOutFull.part ⟨0, 0⟩).images = [0, 1] ∧ (WOutFull.part ⟨0, 0⟩).ctxSize = 2 * 163840 ∧
    (th (WImage .ready)).place = .image ⟨0, 0, 0⟩ 0 ∧ (th (WImage .ready)).status ≠ .swapIn ∧ claimHeld (WImage .ready) ⟨0, 0, 0, 2, 4⟩ = false ∧ (th (WImage .swapIn)).status = .swapIn ∧
    (th (WImage .swapIn)).swapTo = some ⟨0, 0, 0, 2, 4⟩ ∧ (∀ k, k < 8 → (accOf (WImage .swapIn) ⟨0, 0, 0⟩ k).saving = false) ∧ savedTiles (WImage .swapIn) 0x1000000 = [] ∧
    (th (WImage .swapIn)).wait = none ∧ (th (WImage .swapIn)).sfuLeft = 0 ∧ (th (WImage .swapIn)).savedVlen = 0 ∧
    (∀ k, k < 8 → (WImage .swapIn).rdWord (0x1000000 + 680 + 16 * k) = 0) ∧ 0x1000000 + 163840 ≤ tcmBase ⟨0, 0, 0, 2, 4⟩ ∧
    imageBase (WImage .swapIn) 0 0 0 = 0x1000000 := by decide +kernel
theorem vacant_witness : vacant (WImage .ready) 0 ⟨0, 0, 0, 2, 4⟩ := by
  have h : (WImage .ready).threads = [(0, th (WImage .ready))] := by decide +kernel
  intro e he; rw [h] at he; simp only [List.mem_cons, List.not_mem_nil, or_false] at he; subst he
  refine ⟨by decide +kernel, fun q => ?_, fun hne => absurd rfl hne⟩
  have hp : (th (WImage .ready)).place = .image ⟨0, 0, 0⟩ 0 := by decide +kernel
  simp [hp]
theorem test_hyps_debug : okS (WHalted true) = true ∧ okS (rdy id) = true ∧ (th (WHalted true)).status = .halted ∧ (th (WHalted true)).sfuLeft = 0 ∧ (th (WHalted true)).wait = none ∧
    (th (WHalted true)).inbox = [] ∧ plain 5 ∧ (th (rdy id)).status ≠ .halted ∧ (th (rdy id)).place = .slot ⟨0, 0, 0, 0, 0⟩ ∧ (th (rdy id)).slot?.isSome = true ∧
    (th (rdy id)).inbox = [] := by decide +kernel

/-- A context with lanes to take again that waits at a word, and one with a kill, on their way in; a halted thread with a wait that its bundle tries again. -/
def WInWord : State := (WImage .swapIn).updThread 0 (fun t => { t with wait := some .word, savedVlen := 32 })
def WInKill : State := (WImage .swapIn).updThread 0 (fun t => { t with kill := .held })
def WKilledImage : State := (WImage .ready).updThread 0 (fun t => { t with kill := .held })
def WHaltWait : State := rdy (fun t => { t with status := .halted, wait := some .ninth, vmemPass := 1 })
def WMid : State := rdy (fun t => { t with vmemPass := 1 })
def WAtH : State := rdy (fun t => { t with tstat := 2#64 })
theorem test_swap_more : idle .swapInDone me WInKill = true ∧ idle .swapInRequest (.place 0 ⟨0, 0, 0, 2, 4⟩) WKilledImage = true ∧ (evT .debugResume me WHaltWait).status = .ready ∧
    (evT .debugHalt me WMid).vmemPass = 0 ∧ (evT .debugHalt me WAtH).status = .halted ∧ (evT .debugHalt me WEntryU).haltReq = true ∧
    idle .swapStart me (WSwap (fun t => { asked t with tstat := 2#64 })) = true := by decide +kernel
theorem test_hyps_swap_more : okS WInWord = true ∧ (th WInWord).status = .swapIn ∧ (th WInWord).swapTo = some ⟨0, 0, 0, 2, 4⟩ ∧ (th WInWord).kill ≠ .held ∧
    (∀ k, k < 8 → (accOf WInWord ⟨0, 0, 0⟩ k).saving = false) ∧ savedTiles WInWord 0x1000000 = [] ∧ (th WInWord).wait = some .word ∧ okS WInKill = true ∧ (th WInKill).kill = .held ∧
    (th WInKill).status = .swapIn ∧ okS WKilledImage = true ∧ (th WKilledImage).kill = .held ∧ (th WKilledImage).status ≠ .swapIn ∧ okS WHaltWait = true ∧
    (th WHaltWait).status = .halted ∧ (th WHaltWait).sfuLeft = 0 ∧ (th WHaltWait).wait = some .ninth ∧ Wait.ninth.retry = true ∧ (th WHaltWait).inbox = [] ∧
    ¬ hypercall (th WHaltWait) ∧ okS WMid = true ∧ (th WMid).tail = none ∧ okS WAtH = true ∧ (th WAtH).priv = 2 ∧ (th WEntryU).status = .entry ∧ (th WOut).tail = none ∧
    (th (WSwap asked)).tail = none := by
  and_intros
  all_goals first
    | decide +kernel
    | (unfold hypercall; decide +kernel)

/-! ### Messages, translations, rounds, chunks -/

def T0 : TileRef := ⟨0, 0, 0⟩
def aMsg : Msg := ⟨0, 0, 0x08000000#32, 7, 55, some 1, none, ⟨0, 0, 0, 3⟩, T0, 0, false, 0, false, false⟩
/-- Message 5 for thread 0 (or another), from thread 1, which waits for its delivery. -/
def WMsg (m : Msg) (f : Thread → Thread) : State :=
  let s := rdy f
  { s with msgs := [(5, m)], threads := s.threads ++ [(1, parkedIn (.send 5) { th s with place := .slot ⟨0, 0, 0, 3, 0⟩, epid := 9#32 })] }
def m5 : Obj := .num 5
def lost : Msg := { aMsg with epid := 0x08000001#32 }
def stub : Stub := ⟨0x08000001#32, ⟨0, 1, 7, 0, 0⟩, 500⟩
def WStub : State := (WMsg lost id).updTile T0 (fun x => { x with stubs := [{ stub with until_ := 0 }, stub] })
def movedMsg (m : Msg) : Msg := { m with moved := true }
def deferring (t : Thread) : Thread := { t with tstat := putBits t.tstat 1 0 1 }
def WDefer (n : Nat) : State := WMsg aMsg (fun t => { deferring t with inbox := List.replicate n (false, 9, 1#64) })
theorem test_message_events : (evT .messageDelivery m5 (WMsg aMsg id)).reg 7 = 55#64 ∧ ((ev .messageDelivery m5 (WMsg aMsg id)).thread? 1).map (·.status) = some .waking ∧
    (ev .messageDelivery m5 (WMsg aMsg id)).msgs = [] ∧ (evT .messageDelivery m5 (WDefer 0)).inbox = [(false, 7, 55#64)] ∧
    ((ev .messageDelivery m5 (WDefer 8)).msgs.map (·.2.waiting)) = [true] ∧ (ev .messageDelivery m5 WStub).agenda.contains (.event .sendForward m5) = true ∧
    ((ev .messageDelivery m5 (WMsg lost id)).msgs.map (·.2.moved)) = [true] ∧ (ev .messageDelivery m5 (WMsg (movedMsg lost) id)).focus.contains aMsg.src = true ∧ ((ev .sendForward m5 WStub).msgs.map (·.2.at_)) = [⟨0, 1, 7⟩] ∧
    (ev .movedResend m5 (WMsg (movedMsg lost) id)).msgs = [] ∧ ((ev .movedResend m5 (WMsg { movedMsg aMsg with hops := 3 } id)).msgs.map (fun m => (m.2.hops, m.2.moved))) = [(0, false)] ∧
    idle .movedResend m5 (WMsg aMsg id) = true ∧ idle .messageDelivery m5 (WMsg { aMsg with from_ := 1 } id) = true ∧ idle .messageDelivery m5 (WMsg { movedMsg aMsg with from_ := 1 } id) = true ∧
    ((ev .stubExpiry (.tile T0) WStub).tile T0).stubs = [stub] ∧ (evT .inboxRetry m5 (WMsg { aMsg with waiting := true } id)).reg 7 = 55#64 ∧
    idle .inboxRetry m5 (WMsg aMsg id) = true := by decide +kernel
theorem test_hyps_message_events : okS (WMsg aMsg id) = true ∧ (WMsg aMsg id).msgs.get? 5 = some aMsg ∧ aMsg.from_ = aMsg.at_.pkg ∧ lost.from_ = lost.at_.pkg ∧
    (WMsg aMsg id).threads.find? (fun x => x.2.epid == aMsg.epid) = some (0, th (WMsg aMsg id)) ∧ (th (WMsg aMsg id)).place = .slot ⟨0, 0, 0, 0, 0⟩ ∧
    waitingBefore (WMsg aMsg id) 5 aMsg.epid = [] ∧ aMsg.posted = none ∧ aMsg.sender ≠ some 0 ∧ (th (WMsg aMsg id)).defers = false ∧
    (th (WMsg aMsg id)).pend.getLsbD 7 = false ∧ (th (WMsg aMsg id)).inbox = [] ∧ (th (WDefer 0)).defers = true ∧ (th (WDefer 8)).inbox.length = 8 ∧
    (WDefer 8).threads.find? (fun x => x.2.epid == aMsg.epid) = some (0, th (WDefer 8)) ∧ waitingBefore (WDefer 8) 5 aMsg.epid = [] ∧ (th (WDefer 8)).place = .slot ⟨0, 0, 0, 0, 0⟩ ∧
    (∀ e ∈ WStub.threads, e.2.epid ≠ lost.epid) ∧ WStub.msgs.get? 5 = some lost ∧ stub ∈ (WStub.tile lost.at_).stubs ∧ WStub.now lost.at_.pkg < stub.until_ ∧ lost.hops < 4 ∧
    (∀ e ∈ (WMsg lost id).threads, e.2.epid ≠ lost.epid) ∧ ((WMsg lost id).tile lost.at_).stubs = [] ∧
    ((WStub.tile lost.at_).stubs.filter (fun y => y.epid == lost.epid)).getLast? = some stub ∧
    ((WMsg lost id).tile (homeOf lost.epid.toNat)).dir.get? lost.epid = none ∧
    ((WMsg aMsg id).tile (homeOf aMsg.epid.toNat)).dir.get? aMsg.epid = some (.slot ⟨0, 0, 0, 0, 0⟩) := by decide +kernel
theorem test_hyps_messages_back : (∀ m ∈ [movedMsg lost, movedMsg aMsg, { aMsg with from_ := 1 }, { movedMsg aMsg with from_ := 1 }, { aMsg with waiting := true }],
      okS (WMsg m id) = true ∧ (WMsg m id).msgs.get? 5 = some m) ∧ (movedMsg aMsg).from_ = (movedMsg aMsg).src.pkg ∧ routed (WMsg aMsg id) 0 0 0 0 = true ∧
    routed (WMsg { aMsg with from_ := 1 } id) 1 0 0 0 = false ∧ ((WMsg (movedMsg lost) id).tile (homeOf lost.epid.toNat)).dir.get? lost.epid = none ∧
    ((WMsg (movedMsg aMsg) id).tile (homeOf aMsg.epid.toNat)).dir.get? aMsg.epid = some (.slot ⟨0, 0, 0, 0, 0⟩) ∧
    liveStub WStub lost.at_ lost.epid = some stub ∧ liveStub (WMsg lost id) lost.at_ lost.epid = none ∧ lost.moved = false ∧ lost.posted = none := by decide +kernel

def WWalk (va : Nat) : State := rdy (parkedIn (.walk va 0))
def WAns (w : Wait) : State := rdy (fun t => parkedIn w (t.owe 7))
/-- A round of two threads with all it awaits; one of no members' bindings but thread 0's. -/
def WRound (rs : List Round) : State := { rdy (fun t => { t with groups := t.groups.set 1 (some ⟨3, 1, 0, []⟩) }) with
  groups := [((0, 3), ⟨0, [⟨0, 0, 0, 0, 0⟩, ⟨0, 0, 0, 1, 0⟩], true, 0, 0, 0, 0, [(⟨0, 0, 0, 0, 0⟩, 0, 1)], [], 0, rs⟩)] }
def aRound : Round := ⟨[(⟨0, 0, 0, 0, 0⟩, 5#64), (⟨0, 0, 0, 1, 0⟩, 7#64)], none⟩
def rowJob (n sf df : Nat) : CopyJob := { aJob .queued false none with record := rowRecord n sf df, dst := 0x110300, src := 0x110100, count := 0, of := false, nx := false }
def chunkJob : CopyJob := rowJob 1 11 11
def WChunk (j : CopyJob) (p : Option Nat) : State := W.updTile T0 (fun x => { x with copy := [(2, ⟨1, some j⟩)], point := p })
def jobGa (j : CopyJob) (va kind : Nat) : Nat := match jobXlate (WChunk j none) T0 j va kind false with
  | .ok g => g
  | .error _ => 0
theorem jobGa_of (j : CopyJob) (va kind : Nat) (h : (jobXlate (WChunk j none) T0 j va kind false).isOk = true) :
    jobXlate (WChunk j none) T0 j va kind false = .ok (jobGa j va kind) := by
  unfold jobGa; split <;> simp_all [Except.isOk, Except.toBool]
theorem test_cache_events : (evT .tlbWalkDone (.threadNum 0 0x100000) (WWalk 0x100000)).status = .waking ∧ (evT .tlbWalkDone (.threadNum 0 0x990000) (WWalk 0x990000)).ecause = 5#64 ∧
    (evT .translationDropDone (.threadNum 0 0x3000) (WAns (.reply 7 8#64))).reg 7 = 8#64 ∧ ((ev .translationDropDone (.threadNum 0 0x3000) (WAns (.reply 7 8#64))).tile T0).tlb = [] ∧
    ((ev .handleCacheFill (.threadNum 0 320) (rdy (fun t => parkedIn (.handle 5#64) t))).tile T0).handles = [320] ∧
    (evT .tfreeDropDone (.threadReg 0 7 0x40140) (WAns .drop)).status = .waking ∧
    (evT .collectiveRoundComplete (.group 0 3) (WRound [aRound])).groups.toArray.getD 1 none = some ⟨3, 1, 1, [12#64]⟩ ∧ idle .collectiveRoundComplete (.group 0 3) (WRound []) = true ∧
    (jobAt (ev .copyChunk (.tile T0) (WChunk chunkJob (some 3))) T0 2).map (·.state) = some .done ∧ memRead (ev .copyChunk (.tile T0) (WChunk chunkJob (some 3))).mem 0x020000000300 4 = 0xFFFFFFF9 ∧
    (jobAt (ev .copyChunk (.tile T0) (WChunk (rowJob 2 1 1) (some 3))) T0 2).map (·.count) = some 2 ∧
    memRead (ev .copyChunk (.tile T0) (WChunk (rowJob 2 1 0) (some 3))).mem 0x020000000300 2 = 0xFFF9 ∧ idle .copyChunk (.tile T0) (WChunk chunkJob none) = true := by decide +kernel
theorem test_hyps_cache_events : okS (WWalk 0x100000) = true ∧ okS (WWalk 0x990000) = true ∧ (th (WWalk 0x990000)).wait = some (.walk 0x990000 0) ∧
    (th (WWalk 0x990000)).status = .parked ∧ (th (WWalk 0x990000)).slot?.isSome = true ∧ (th (WWalk 0x990000)).sfuLeft = 0 ∧
    (walk (WWalk 0x100000) ((WWalk 0x100000).cfgOf (th (WWalk 0x100000))).root 0 0 0x100000).isSome = true ∧
    walk (WWalk 0x990000) ((WWalk 0x990000).cfgOf (th (WWalk 0x990000))).root 0 0 0x990000 = none ∧
    okS (WAns (.reply 7 8#64)) = true ∧ Waits (WAns (.reply 7 8#64)) 0 (th (WAns (.reply 7 8#64))) 7 (.reply 7 8#64) ∧ Waits (WAns .drop) 0 (th (WAns .drop)) 7 .drop ∧
    okS (WRound [aRound]) = true ∧ (∃ x, (WRound [aRound]).group? 0 3 = some x ∧ x.rounds = [aRound] ∧ (∀ p ∈ x.leaves, p ∈ x.left ∨ ∃ e ∈ aRound.given, e.1 = p) ∧
      x.bound = [] ++ ((th (WRound [aRound])).start, 0, 1) :: [] ∧ x.op = 0 ∧ x.ty = 0) ∧ (th (WRound [aRound])).groups.toArray.getD 1 none = some ⟨3, 1, 0, []⟩ ∧
    (∃ x, (WRound []).group? 0 3 = some x ∧ x.rounds = []) := by
  and_intros
  all_goals first
    | decide +kernel
    | (unfold Waits plain; decide +kernel)
    | exact ⟨_, rfl, by decide +kernel, by decide +kernel, by decide +kernel, by decide +kernel, by decide +kernel⟩
    | exact ⟨_, rfl, by decide +kernel⟩
theorem test_hyps_chunk : ((WChunk chunkJob none).tile T0).copy = [(2, ⟨1, some chunkJob⟩)] ∧ ((WChunk chunkJob (some 3)).tile T0).copy = [(2, ⟨1, some chunkJob⟩)] ∧ okS (WChunk chunkJob none) = true ∧
    okS (WChunk chunkJob (some 3)) = true ∧ ((WChunk chunkJob (some 3)).tile T0).point ≠ none ∧ ((WChunk chunkJob none).tile T0).point = none ∧ chunkJob.record = rowRecord 1 11 11 ∧ chunkJob.state = .queued ∧
    (jobXlate (WChunk chunkJob none) T0 chunkJob 0x110100 0 false).isOk = true ∧ (jobXlate (WChunk chunkJob none) T0 chunkJob 0x110300 1 false).isOk = true ∧
    jobGa chunkJob 0x110100 0 % 4 = 0 ∧ jobGa chunkJob 0x110300 1 % 4 = 0 ∧ (WChunk chunkJob none).lockWaiters = [] ∧ (WChunk chunkJob none).feWaiters = [] ∧
    (∀ x ∈ (WChunk chunkJob none).threads, x.2.wait = none) ∧ unitRouted (WChunk chunkJob none) T0 chunkJob [0] = true := by decide +kernel
/-- Two INT4 elements, kept and widened. -/
theorem test_hyps_chunk_formats : ∀ df ∈ [0, 1], ((WChunk (rowJob 2 1 df) (some 3)).tile T0).copy = [(2, ⟨1, some (rowJob 2 1 df)⟩)] ∧
    (rowJob 2 1 df).record = rowRecord 2 1 df ∧ (elemBits df).isSome = true ∧ (∀ i, i < 2 →
      (jobXlate (WChunk (rowJob 2 1 df) none) T0 (rowJob 2 1 df) (0x110100 + i * 4 / 8) 0 false).isOk = true ∧
      (jobXlate (WChunk (rowJob 2 1 df) none) T0 (rowJob 2 1 df) (0x110300 + i * (if df = 0 then 8 else 4) / 8) 1 false).isOk = true ∧
      unitRouted (WChunk (rowJob 2 1 df) none) T0 (rowJob 2 1 df) [i] = true) := by decide +kernel
theorem moved_isSome (c : Nat) : (moved 1 0 c).isSome = true ∧ (moved 1 1 c).isSome = true ∧ (moved 11 11 c).isSome = true := ⟨rfl, rfl, rfl⟩
/-- A broadcast of the first leaf, and a float sum of two contributions. -/
def WRound' (op ty : Nat) (v : Word) : State := let s := WRound [⟨[(⟨0, 0, 0, 0, 0⟩, v), (⟨0, 0, 0, 1, 0⟩, 7)], none⟩]
  { s with groups := s.groups.map (fun e => (e.1, { e.2 with op := op, ty := ty })) }
theorem test_round_kinds : (evT .collectiveRoundComplete (.group 0 3) (WRound' 6 0 5)).groups.toArray.getD 1 none = some ⟨3, 1, 1, [5#64]⟩ := by decide +kernel
def aGroup (op ty : Nat) (v : Word) : Group := ((WRound' op ty v).group? 0 3).getD ⟨0, [], false, 0, 0, 0, 0, [], [], 0, []⟩
theorem test_hyps_round_kinds : (WRound' 6 0 5).group? 0 3 = some (aGroup 6 0 5) ∧ (aGroup 6 0 5).op = 6 ∧ (aGroup 6 0 5).leaves.head? = some ⟨0, 0, 0, 0, 0⟩ ∧
    (aGroup 6 0 5).bound = [(⟨0, 0, 0, 0, 0⟩, 0, 1)] ∧ (WRound' 1 1 0).group? 0 3 = some (aGroup 1 1 0) ∧ (aGroup 1 1 0).op = 1 ∧ (aGroup 1 1 0).ty = 1 ∧
    (aGroup 1 1 0).rounds = [⟨[(⟨0, 0, 0, 0, 0⟩, 0), (⟨0, 0, 0, 1, 0⟩, 7)], none⟩] ∧ (aGroup 1 1 0).bound = [(⟨0, 0, 0, 0, 0⟩, 0, 1)] ∧
    (aGroup 1 1 0).leaves = [⟨0, 0, 0, 0, 0⟩, ⟨0, 0, 0, 1, 0⟩] ∧ (th (WRound' 1 1 0)).start = ⟨0, 0, 0, 0, 0⟩ ∧
    okS (WRound' 1 1 0) = true ∧ (th (WRound' 1 1 0)).wait = none ∧ (th (WRound' 1 1 0)).status = .ready := by decide +kernel

/-- Thread 0 waits to read the group's result, and thread 1 for the status of the job whose chunk is served. -/
def WRoundWait : State := (WRound [aRound]).updThread 0 (fun t => { t with status := .parked, wait := some (.reg 53) })
def WChunkWait : State :=
  let s := WChunk chunkJob (some 3)
  { s with threads := s.threads ++ [(1, parkedIn (.job 7 66 T0) { th s with place := .slot ⟨0, 0, 0, 3, 0⟩, epid := 9#32 })] }
theorem test_waiters_go_on : (evT .collectiveRoundComplete (.group 0 3) WRoundWait).status = .waking ∧
    ((ev .copyChunk (.tile T0) WChunkWait).thread? 1).map (fun t => ((t.reg 7).toNat, t.status)) = some (2 ^ 63 + 1, .waking) ∧
    jobAt (ev .copyChunk (.tile T0) WChunkWait) T0 2 = none := by decide +kernel
theorem test_hyps_waiters_go_on : okS WRoundWait = true ∧ (th WRoundWait).wait = some (.reg (52 + 1)) ∧ (th WRoundWait).status = .parked ∧ (th WRoundWait).sfuLeft = 0 ∧
    WRoundWait.contribs = [] ∧ routed WRoundWait (WRoundWait.rootPkg 0 0) 0 0 0 = true ∧ (th WRoundWait).slot?.isSome = true ∧ okS WChunkWait = true ∧
    (WChunkWait.tile T0).copy = [(2, ⟨1, some chunkJob⟩)] ∧ (∃ y, Waits WChunkWait 1 y 7 (.job 7 (1 * 64 + 2) T0) ∧ y.part = chunkJob.part) ∧
    (WChunkWait.threads.filterMap (fun x => match x.2.wait with
      | some (.job r id tl') => if id = 1 * 64 + 2 ∧ tl' = T0 ∧ x.2.part = chunkJob.part then some (x.1, r) else none
      | _ => none)) = [(1, 7)] := by
  and_intros
  all_goals first
    | decide +kernel
    | exact ⟨(WChunkWait.thread? 1).getD (th WChunkWait), by unfold Waits plain; decide +kernel, by decide +kernel⟩

/-! ### Span -/

def PA : Nat := 0x020000000200
def acc (op : AccOp) (a : Nat) : Access := ⟨5, 0, op, 0x150000, PA, BitVec.ofNat 64 a, 0, 7, false, false⟩
def req (op : AccOp) (a : Nat) : SpanReq := ⟨acc op a, ⟨0, 2⟩, 1, 9, false, false, false, false, true, 0, 0, false, false, none⟩
/-- A request 5 of thread 0, whose partition reaches package 1 by port 2; the time is `n`. -/
def WReq (n : Nat) (x : SpanReq) (f : Thread → Thread) : State :=
  let s := (rdy f).updPart ⟨0, 0⟩ (fun y => { y with routes := [(1, 4)] })
  { (s.updPkg 0 (fun y => { y with time := n })) with reqs := [(5, x)], mem := memWrite s.mem PA 8 40 }
def o5 : Obj := .num 5
def waits5 (t : Thread) : Thread := parkedIn (.remote 5) (t.owe 7)
def WStore : State := WReq 0 (req (.store 8) 3) waits5
def WArr (w : Bool) : State := WReq 0 { req .fetst 0 with arrived := true, waiting := w, result := if w then none else some 6#64 } waits5
def WPosted : State := WReq 0 { req (.store 8) 3 with arrived := true, posted := true, result := some 0#64 } (fun t => { t with posted := 2 })
def WRelax (r : Option Word) : State := WReq 0 { req (.load 8 false) 0 with relaxed := true, result := r } (fun t => { t with relaxed := [acc (.load 8 false) 0] })
def WLoc : State := { WRelax none with reqs := [] }
def WLate (n : Nat) (b : Bool) : State :=
  WReq 30000 { req (.load 8 false) 3 with reissues := n, relaxed := b } (fun t => if b then { t with relaxed := [acc (.load 8 false) 0] } else waits5 t)
def addR (n : Nat) : SpanReq := { req (.amo 0 8 true) n with sent := n }
def WMerge (m : Tab Nat Merge) (k : Nat) : State :=
  { WReq 0 (addR 10) waits5 with reqs := [(5, addR 10), (6, { addR 20 with acc := { acc (.amo 0 8 true) 20 with id := 6, tid := 1 }, sent := k })], merges := m }
def aMerge (old : Option Nat) : Tab Nat Merge := [(3, ⟨⟨0, 2⟩, [5, 6], old⟩)]
theorem test_span : (evT .relaxedReply (.threadNum 0 5) WLoc).reg 7 = 40#64 ∧ (evT .relaxedReply (.threadNum 0 5) (WRelax (some 6#64))).reg 7 = 6#64 ∧
    idle .relaxedReply (.threadNum 0 5) (WRelax none) = true ∧ (evT .memoryReply me (rdy (fun t => parkedIn (.reply 7 9#64) (t.owe 7)))).reg 7 = 9#64 ∧
    (evT .memoryReply o5 (WArr false)).reg 7 = 6#64 ∧ (evT .memoryReply o5 WPosted).posted = 1 ∧
    (ev .memoryReply o5 (WRelax (some 6#64))).agenda.contains (.event .relaxedReply (.threadNum 0 5)) = true ∧ memRead (ev .remoteRequest o5 WStore).mem PA 8 = 3 ∧
    (ev .remoteRequest o5 (WArr false)).agenda.contains (.event .memoryReply o5) = true ∧ (ev .remoteRequest o5 (WArr true)).agenda.contains (.event .waitReply o5) = true ∧
    ((ev .remoteRequest o5 { WStore with ports := [(⟨0, 2⟩, { SpanPort.init with up := false })] }).reqs.map (·.2.held)) = [true] ∧ idle .waitReply o5 (WArr false) = true := by decide +kernel
theorem test_span_loss : ((ev .requestReissue o5 (WLate 3 false)).reqs.map (·.2.reissues)) = [4] ∧ idle .requestReissue o5 WStore = true ∧ idle .requestLost o5 WStore = true ∧
    (evT .requestLost o5 (WLate 4 false)).ecause = 0x13#64 ∧ (evT .requestLost o5 (WLate 4 false)).eval = 0x150000#64 ∧
    (evT .requestLost o5 (WLate 4 true)).lost = [⟨7, 0x150000, 0⟩] ∧ (ev .combineMerge (.nums 5 6) (WMerge [] 70)).merges.map (·.2.parts) = [[5, 6]] ∧
    idle .combineMerge (.nums 5 6) (WMerge [] 80) = true ∧ memRead (ev .remoteRequest o5 (WMerge (aMerge none) 20)).mem PA 8 = 70 ∧
    ((ev .combineSplit (.num 3) (WMerge (aMerge (some 40)) 20)).reqs.map (·.2.result)) = [some 40#64, some 50#64] ∧ ((ev .linkDown (.port ⟨0, 2⟩) W).port ⟨0, 2⟩).up = false ∧
    ((ev .linkEvent (.pkgNum 0 3) W).pkg 0).mgmt.links.getD 3 0 = 1 := by decide +kernel
/-- Request 5 is a host store behind request 3; one of an indivisible access finds every entry of the reply cache in use. -/
def WBehind : State := let s := WReq 0 { req (.store 8) 3 with host := true } waits5
  { s with reqs := (3, { req (.store 8) 4 with host := true, held := true }) :: s.reqs }
def cachedReq : SpanReq := req (.amo 0 8 false) 3
def WCacheFull : State := { WReq 30000 cachedReq waits5 with ports := [(⟨1, 2⟩, { SpanPort.init with replies := List.replicate 65536 ⟨9, none, 0⟩ })] }
theorem filter_full {α : Type} (n : Nat) (e : α) (p : α → Bool) (h : p e = true) : ((List.replicate n e).filter p).length = n := by
  rw [List.filter_replicate_of_pos h, List.length_replicate]
theorem cacheUsed_full : waitsEntry WCacheFull cachedReq = true := by
  have h : (WCacheFull.port (replyPort cachedReq)).replies = List.replicate 65536 ⟨9, none, 0⟩ := rfl
  have c : cacheUsed WCacheFull (replyPort cachedReq) = 65536 := by unfold cacheUsed; rw [h]; exact filter_full _ _ _ rfl
  have hc : cachedReq.acc.op.cached = true := rfl
  unfold waitsEntry; rw [c, hc]; rfl
theorem test_behind : idle .remoteRequest o5 WBehind = true := by decide +kernel
theorem test_hyps_waiting_requests : behindStore WBehind 5 { req (.store 8) 3 with host := true } = true ∧ ({ req (.store 8) 3 with host := true } : SpanReq).held = false ∧
    okS WBehind = true ∧ WBehind.reqs.get? 5 = some { req (.store 8) 3 with host := true } ∧ WCacheFull.reqs.get? 5 = some cachedReq ∧ cachedReq.arrived = false ∧
    memWf WCacheFull.mem = true ∧ behindStore WStore 5 (req (.store 8) 3) = false ∧ waitsEntry (WLate 3 false) { req (.load 8 false) 3 with reissues := 3 } = false := by decide +kernel
theorem test_hyps_span : okS WLoc = true ∧ okS (WRelax none) = true ∧ okS WStore = true ∧ okS (WArr true) = true ∧ okS (WArr false) = true ∧ okS (WLate 3 false) = true ∧
    okS (WMerge [] 70) = true ∧ (th WLoc).relaxed = [acc (.load 8 false) 0] ∧ WLoc.reqs.get? 5 = none ∧ (th WLoc).slot?.isSome = true ∧ plain 7 ∧ (th WLoc).inbox = [] ∧
    Waits (rdy (fun t => parkedIn (.reply 7 9#64) (t.owe 7))) 0 (th (rdy (fun t => parkedIn (.reply 7 9#64) (t.owe 7)))) 7 (.reply 7 9#64) ∧
    Waits (WArr false) 0 (th (WArr false)) 7 (.remote 5) ∧ AtDestination WStore (req (.store 8) 3) ∧ WStore.merges = [] ∧ WStore.lockWaiters = [] ∧
    (∃ r, (WArr false).reqs.get? 5 = some r ∧ AtDestination (WArr false) r ∧ kindOf r.acc.op ≠ 0) ∧ Late (WLate 3 false) { req (.load 8 false) 3 with reissues := 3 } ∧
    ¬ Late WStore (req (.store 8) 3) ∧ (∃ r, (WLate 4 false).reqs.get? 5 = some r ∧ Late (WLate 4 false) r ∧ 4 ≤ r.reissues ∧ r.relaxed = false) ∧
    (th (WLate 4 false)).status = .parked ∧ (th (WLate 4 false)).wait = some (.remote 5) ∧ (∃ r, (WLate 4 true).reqs.get? 5 = some r ∧ Late (WLate 4 true) r ∧ r.relaxed = true) ∧
    mayMerge (addR 10) { addR 20 with sent := 70 } ∧ ¬ mayMerge (addR 10) { addR 20 with sent := 80 } ∧ (WMerge (aMerge none) 20).merges = [(3, ⟨⟨0, 2⟩, [5, 6], none⟩)] ∧
    (∃ x y, (WMerge (aMerge none) 20).reqs.get? 5 = some x ∧ (WMerge (aMerge none) 20).reqs.get? 6 = some y ∧ x.acc.op = .amo 0 8 true ∧ y.acc.op = .amo 0 8 true ∧
      AtDestination (WMerge (aMerge none) 20) x ∧ x.arrived = false ∧ x.acc.tent = false) ∧ ((WMerge (aMerge none) 20).port ⟨1, 2⟩).replies.length < 65536 ∧
    (W.pkg 0).mgmt.links.length = 17 ∧ (th WPosted).posted = 2 ∧ okS WPosted = true ∧
    routePort { WStore with ports := [(⟨0, 2⟩, { SpanPort.init with up := false })] } 0 0 0 1 = none := by
  have route : ∀ s : State, s.thread? 0 = some (th s) → routePort s 0 (th s).part (th s).launch 1 = some ⟨0, 2⟩ → ∀ r : SpanReq, r.held = false → r.acc.tid = 0 → r.src.pkg = 0 →
      r.dest = 1 → AtDestination s r := fun s h1 h2 r a b c d => ⟨a, .inr ⟨th s, ⟨0, 2⟩, by rw [b]; exact h1, by rw [c, d]; exact h2⟩⟩
  have there : ∀ s : State, ∀ r : SpanReq, decide (s.thread? 0 = some (th s) ∧ routePort s 0 (th s).part (th s).launch 1 = some ⟨0, 2⟩ ∧ r.held = false ∧ r.acc.tid = 0 ∧
      r.src.pkg = 0 ∧ r.dest = 1) = true → AtDestination s r := fun s r h => by
    obtain ⟨h1, h2, h3, h4, h5, h6⟩ := of_decide_eq_true h; exact route s h1 h2 r h3 h4 h5 h6
  and_intros
  all_goals first
    | decide +kernel
    | (unfold Waits plain; decide +kernel)
    | (unfold Late; decide +kernel)
    | exact (there WStore (req (.store 8) 3) (by decide +kernel)).2
    | exact there _ _ (by decide +kernel)
    | exact ⟨_, rfl, there _ _ (by decide +kernel), by decide +kernel⟩
    | exact ⟨_, rfl, by unfold Late; decide +kernel, by decide +kernel, by decide +kernel⟩
    | exact ⟨_, rfl, by unfold Late; decide +kernel, by decide +kernel⟩
    | exact ⟨8, rfl, rfl⟩
    | exact fun h => absurd h.2 (by decide +kernel)
    | exact ⟨_, _, rfl, rfl, rfl, rfl, there _ _ (by decide +kernel), by decide +kernel, by decide +kernel⟩

/-- A request is lost while its thread is halted; a thread with such a loss comes to its turn. -/
def WLostHalt : State := (WLate 4 false).updThread 0 (fun t => { t with status := .halted })
def WLost64 : State := (bootThread State.reset).updThread 0 (fun t => { t with lost := [⟨7, 0x140000, 1⟩, ⟨64, 0x150000, 3⟩] })
theorem test_loss_at_the_next_issue : (evT .requestLost o5 WLostHalt).lost = [⟨64, 0x150000, 0⟩] ∧ (evT .requestLost o5 WLostHalt).status = .halted ∧
    (th (after (step WLost64))).ecause = 0x313#64 ∧ (th (after (step WLost64))).eval = 0x150000#64 ∧ (th (after (step WLost64))).lost = [⟨7, 0x140000, 1⟩] := by decide +kernel
theorem test_hyps_loss_at_the_next_issue : okS WLostHalt = true ∧ (∃ r, WLostHalt.reqs.get? 5 = some r ∧ Late WLostHalt r ∧ waitsEntry WLostHalt r = false ∧ 4 ≤ r.reissues ∧
      r.relaxed = false) ∧ (th WLostHalt).status = .halted ∧ (th WLostHalt).slot?.isSome = true ∧ (th WLostHalt).wait = some (.remote 5) ∧ okS WLost64 = true ∧
    WLost64.agenda = [] ∧ dueEvent WLost64 = none ∧ WLost64.focus = ⟨0, 0, 0, 0⟩ :: [] ∧
    pick { WLost64 with focus := [] ++ [⟨0, 0, 0, 0⟩] } ⟨0, 0, 0, 0⟩ = some (.thread 0, 0) ∧ (th WLost64).tail = none ∧
    (th WLost64).lost.find? (fun x => x.d == 64) = some ⟨64, 0x150000, 3⟩ := by
  and_intros
  all_goals first
    | decide +kernel
    | exact ⟨_, rfl, by unfold Late; decide +kernel, by decide +kernel, by decide +kernel, by decide +kernel⟩

/-! ### Service of the matrix queue -/

def small (ty : Nat) : AccTile := ⟨.owned, 0, ⟨0, 0, 0, 0, 0⟩, 1, 1, ty, [7], false, false⟩
/-- One entry at the head of the queue; slots 0 and 1 hold INT8 rows, slot 2 is claimed; the issuer waits when `w`. -/
def WServe (op : MatOp) (st : Bool) (w : Bool) : State :=
  let s := WMem (fun t => if w then parkedIn (.matrix 9) (t.owe 7) else t)
  s.updTile T0 (fun x => { x with
    point := some 3, matQ := [{ anEntry 9 op with started := st }], accs := [(0, small 1), (1, small 0)]
    slots := [(0, ⟨.loaded, 0, 0, [[3, 250]], [], false⟩), (1, ⟨.loaded, 0, 0, [[5, 2]], [], false⟩), (2, ⟨.claimed, 0, 0, [], [], false⟩)] })
def tO : Obj := .tile T0
def mlda (src : Nat) (r : List Word) : State := WServe (.mlda 2 (BitVec.ofNat 64 src) r 7) false true
def msta (k dst : Nat) : State := WServe (.msta k (BitVec.ofNat 64 dst) (rowRecord 1 11 11) 7) false false
/-- Accumulator 3 of a swapped-out owner under its lazy save. -/
def WLazy (b : Bool) : State := (WImage .ready).updTile T0 (fun x => { x with accs := [(3, { small 1 with state := .away, rows := 16, cols := 16, saving := b })], point := some 3 })
theorem test_matrix_events : (accOf (ev .mzeroService tO (WServe (.mzero 0) false false)) T0 0).data = [0] ∧
    ((ev .mmaStart tO (WServe (.mma 0 1 0 false) false true)).tile T0).matQ.map (·.started) = [true] ∧ idle .mmaComplete tO (WServe (.mma 0 1 0 false) false true) = true ∧
    (accOf (ev .mmaComplete tO (WServe (.mma 0 1 0 false) true true)) T0 0).data = [10] ∧ (evT .mmaComplete tO (WServe (.mma 0 1 0 false) true true)).status = .waking ∧
    (evT .mmaComplete tO (WServe (.mma 0 2 0 false) true true)).mstat = 16#64 ∧ (evT .mldaService tO (mlda 0x110100 (rowRecord 1 0 0))).reg 7 = r281 0 1 ∧
    (slotOf (ev .mldaService tO (mlda 0x110100 (rowRecord 1 0 0))) T0 2).rows = [[0xF9]] ∧ (evT .mldaService tO (mlda 0x990000 (rowRecord 1 0 0))).reg 7 = r281 1 0 ∧
    (evT .mldaService tO (mlda 0x110100 [0x0001000200010001, 0, 0, 0, 0, 0, 0, 0])).reg 7 = r281 9 0 ∧
    (evT .mstaService tO (msta 0 0x110300)).reg 7 = r281 0 1 ∧ memRead (ev .mstaService tO (msta 0 0x110300)).mem 0x020000000300 4 = 7 ∧
    (evT .mstaService tO (msta 1 0x110300)).reg 7 = r281 9 0 ∧ (evT .mstaService tO (msta 0 0x160000)).reg 7 = r281 2 0 ∧ idle .lazySave (.tileNum T0 3) (WLazy false) = true ∧
    (ev .lazySave (.tileNum T0 3) (WLazy true)).rdWord (0x1000000 + 20480 + 24) = BitVec.ofNat 64 (2 ^ 63 + 16) ∧
    memRead (ev .lazySave (.tileNum T0 3) (WLazy true)).mem (0x1000000 + 20544 + 16384 * 3) 4 = 7 := by decide +kernel
def xl (s : State) (va kind : Nat) : Option Nat := match matXlate s T0 (anEntry 9 (.mzero 0)) va kind with
  | .ok g => some g
  | .error _ => none
theorem test_hyps_matrix_events : okS (WServe (.mzero 0) false false) = true ∧ ((WServe (.mzero 0) false false).tile T0).matQ = [anEntry 9 (.mzero 0)] ∧
    ((WServe (.mma 0 1 0 false) true true).tile T0).matQ = [{ anEntry 9 (.mma 0 1 0 false) with started := true }] ∧
    ((WServe (.mzero 0) false false).tile T0).slots.map (·.2.releasing) = [false, false, false] ∧ ((WServe (.mzero 0) false false).tile T0).accs.map (·.2.releasing) = [false, false] ∧
    (WServe (.mma 0 1 0 false) true true).thread? 0 = some (th (WServe (.mma 0 1 0 false) true true)) ∧ (th (WServe (.mma 0 1 0 false) true true)).status = .parked ∧
    (th (WServe (.mma 0 1 0 false) true true)).wait = some (.matrix 9) ∧ (th (WServe (.mma 0 1 0 false) true true)).sfuLeft = 0 ∧
    (th (WServe (.mma 0 1 0 false) true true)).slot?.isSome = true ∧ (slotOf (WServe (.mma 0 1 0 false) true true) T0 0).fmt = 0 ∧
    (slotOf (WServe (.mma 0 1 0 false) true true) T0 1).state = .loaded ∧ (slotOf (WServe (.mma 0 1 0 false) true true) T0 2).state ≠ .loaded ∧
    (accOf (WServe (.mma 0 1 0 false) true true) T0 0).ty = 1 ∧ Waits (mlda 0x110100 (rowRecord 1 0 0)) 0 (th (mlda 0x110100 (rowRecord 1 0 0))) 7 (.matrix 9) ∧
    xl (mlda 0x110100 (rowRecord 1 0 0)) 0x110100 0 = some 0x020000000100 ∧ xl (mlda 0x990000 (rowRecord 1 0 0)) 0x990000 0 = none ∧ Waits (mlda 0x990000 (rowRecord 1 0 0)) 0 (th (mlda 0x990000 (rowRecord 1 0 0))) 7 (.matrix 9) ∧
    okS (msta 0 0x110300) = true ∧ xl (msta 0 0x110300) 0x110300 1 = some 0x020000000300 ∧ xl (msta 0 0x160000) 0x160000 1 = none ∧ (msta 0 0x110300).lockWaiters = [] ∧
    okS (WLazy true) = true ∧ (accOf (WLazy true) T0 3).saving = true ∧ (accOf (WLazy true) T0 3).owner = 0 ∧ (th (WLazy true)).place = .image T0 0 ∧
    (WLazy true).lockWaiters = [] ∧ (∀ x ∈ (WLazy true).threads, x.2.wait = none) ∧ (accOf (WLazy false) T0 3).saving = false := by
  and_intros
  all_goals first
    | decide +kernel
    | (unfold Waits plain; decide +kernel)

/-- Other forms: a gated tile, slots of a format with an accumulator, INT4 rows, two elements narrowed, a complex element stored. -/
def WMatGated : State := (WServe (.mzero 0) false false).updTile T0 (fun x => { x with point := none })
def WSlots (f : Nat) (a b : Nat) (cj : Bool) : State := (WServe (.mma 0 1 0 cj) true true).updTile T0 (fun x => { x with
  accs := [(0, small (typeOf (family f)))], slots := [(0, ⟨.loaded, 0, f, [[a]], [], false⟩), (1, ⟨.loaded, 0, f, [[b]], [], false⟩)] })
def WRow : State := mlda 0x110100 (rowRecord 2 1 0)
def WOut2 (ty n sf df : Nat) (d : List Nat) : State := (WServe (.msta 0 0x110300 (rowRecord n sf df) 7) false false).updTile T0 (fun x => { x with
  accs := [(0, { small ty with cols := 2, data := d })] })
theorem test_matrix_forms : idle .mzeroService tO WMatGated = true ∧ (accOf (ev .mmaComplete tO (WSlots 8 (3 + 2 * 256) (5 + 256) false)) T0 0).data = [20 + 13 * 2 ^ 32] ∧
    (accOf (ev .mmaComplete tO (WSlots 8 (3 + 2 * 256) (5 + 256) true)) T0 0).data = [24 + 7 * 2 ^ 32] ∧
    (slotOf (ev .mldaService tO WRow) T0 2).rows = [[0xF9, 0xFF]] ∧ memRead (ev .mstaService tO (WOut2 1 2 11 0 [7, 300])).mem 0x020000000300 2 = 0x7F07 ∧
    memRead (ev .mstaService tO (WOut2 2 1 12 12 [5 + 6 * 2 ^ 32, 0])).mem 0x020000000300 8 = 5 + 6 * 2 ^ 32 ∧
    (evT .mstaService tO (WOut2 1 3 11 0 [7, 300])).reg 7 = r281 9 0 := by decide +kernel
def xl' (s : State) (va kind : Nat) : Option Nat := match (s.tile T0).matQ with
  | e :: _ => match matXlate s T0 e va kind with
    | .ok g => some g
    | .error _ => none
  | [] => none
theorem test_hyps_matrix_forms : okS WMatGated = true ∧ (WMatGated.tile T0).point = none ∧ ((WServe (.mzero 0) false false).tile T0).point ≠ none ∧
    (∀ f ∈ [2, 4, 8, 9], mmaFits f f (typeOf (family f)) false = true) ∧ (accOf (WSlots 8 0 0 false) T0 0).ty = 2 ∧ (slotOf (WSlots 8 0 0 false) T0 0).fmt = 8 ∧
    (slotOf (WSlots 9 0 0 false) T0 1).fmt = 9 ∧ (accOf (WSlots 4 0 0 false) T0 0).data.length = (accOf (WSlots 4 0 0 false) T0 0).rows * (accOf (WSlots 4 0 0 false) T0 0).cols ∧
    Waits WRow 0 (th WRow) 7 (.matrix 9) ∧ xl' WRow 0x110100 0 = some 0x020000000100 ∧ 2 ≤ rowLength 0 ∧
    (∀ s ∈ [WOut2 1 2 11 0 [7, 300], WOut2 2 1 12 12 [5, 0]], (th s).slot?.isSome = true ∧ (th s).inbox = [] ∧ s.lockWaiters = [] ∧ s.feWaiters = [] ∧
      xl' s 0x110300 1 = some 0x020000000300 ∧ xl' s 0x110301 1 = some 0x020000000301 ∧
      (tlbFind s T0 (s.cfg 0 0 0).root 0 0x110300).isSome = true ∧ (tlbFind s T0 (s.cfg 0 0 0).root 0 0x110301).isSome = true ∧
      tableCached s (0x020000000300 / 8) = false) ∧
    (accOf (WOut2 1 2 11 0 [7, 300]) T0 0).cols = 2 ∧ (accOf (WOut2 2 1 12 12 [5, 0]) T0 0).ty = 2 ∧ ((WLazy true).tile T0).point ≠ none := by
  and_intros
  all_goals first
    | decide +kernel
    | (unfold Waits plain; decide +kernel)
/-- A narrow element is stored into a word with an uncorrectable soft error; a whole word of a complex one is not refused (R285, log 64). -/
def WBadStore : State := { msta 0 0x110300 with poison := [0x020000000300 / 8] }
theorem test_store_to_bad_word : (evT .mstaService tO WBadStore).reg 7 = r281 5 0 ∧
    (evT .mstaService tO { WOut2 2 1 12 12 [5, 0] with poison := [0x020000000300 / 8] }).reg 7 = r281 0 1 := by decide +kernel
theorem test_hyps_store_to_bad_word : okS WBadStore = true ∧ WBadStore.bad 0x020000000300 = true ∧ xl' WBadStore 0x110300 1 = some 0x020000000300 ∧
    (elemBits 11).getD 0 < 64 ∧ (∀ s ∈ [msta 0 0x110300, WOut2 1 2 11 0 [7, 300]], s.bad 0x020000000300 = false) := by decide +kernel
/-! ### A join's home -/

def home0 : DieRef := ⟨0, 0⟩
def kReq (op : KeyOp) : KeyReq := ⟨0, 0, 7, ⟨0, 0, 3, 1⟩, op⟩
/-- Join 3 is `x`, and request 5 is on its way to it from thread 0, a member when `m`. -/
def WHome (x : Join) (op : KeyOp) (m : Bool) : State :=
  { rdy (fun t => let t := parkedIn .answer (t.owe 7); if m then { t with join := some ⟨0, 0, 3, 1⟩ } else t) with
    joins := [((home0, 3), x)], keyReqs := [(5, kReq op)] }
def jn (st : JoinState) : Join := { aJoin with state := st }
def bound2 : Join := { aJoin with bound := [0, 4], binds := 2, n := 3, k := 2, acc := [4, 5] }
def last1 : Join := { aJoin with bound := [0], binds := 1, len := 1, res := [0x20200], acc := [2 ^ 31 - 1] }
def dying (c : Bool) (ks : List Nat) : Join := { jn .released with killed := ks, close := c }
def homeAt (s : State) : Join := s.join home0 3
theorem test_join_events : (evT .joinQuery o5 (WHome aJoin .query false)).reg 7 = r301 aJoin ∧ (evT .joinQuery o5 (WHome { aJoin with gen := 2 } .query false)).reg 7 = refusal 1 ∧
    (evT .joinBindRequest o5 (WHome aJoin (.bind true) false)).join = some ⟨0, 0, 3, 1⟩ ∧ (evT .joinBindRequest o5 (WHome aJoin (.bind true) false)).tent = true ∧
    [WHome { aJoin with gen := 2 } (.bind true) false, WHome (jn .released) (.bind true) false, WHome { aJoin with binds := 2 } (.bind true) false, WHome aJoin (.bind true) true].map
      (fun s => (evT .joinBindRequest o5 s).reg 7) = [refusal 1, refusal 2, refusal 3, refusal 4] ∧
    (evT .joinWaitRequest o5 (WHome aJoin (.wait false) false)).wait = some (.joinWait 7 ⟨0, 0, 3, 1⟩ false) ∧ (evT .joinWaitRequest o5 (WHome (jn .released) (.wait false) false)).status = .waking ∧
    (evT .joinWaitRequest o5 (WHome (jn .released) (.wait true) false)).status = .parked ∧ (homeAt (ev .joinCloseRequest o5 (WHome (jn .settled) .close false))).state = .free ∧
    (homeAt (ev .joinCloseRequest o5 (WHome (jn .released) .close false))).close = true ∧
    (homeAt (ev .joinArrival o5 (WHome bound2 (.arrive [2 ^ 31 - 1, 1] 6) true))).acc = [2 ^ 31 - 1, 6] ∧
    (homeAt (ev .joinArrival o5 (WHome last1 (.arrive [1] 6) true))).state = .settled ∧ memRead (ev .joinArrival o5 (WHome last1 (.arrive [1] 6) true)).mem 0x20200 8 = 2 ^ 31 - 1 ∧
    (ev .joinDeparture o5 (WHome bound2 .depart true)).thread? 0 = none ∧
    (homeAt (ev .joinDeparture o5 (WHome { bound2 with k := 1 } .depart true))).departed = 1 ∧
    (homeAt (ev .retractionEnd (.member ⟨0, 0, 3, 1⟩ 4) (WHome (dying false [4, 6]) .query false))).killed = [6] ∧
    (homeAt (ev .retractionEnd (.member ⟨0, 0, 3, 1⟩ 4) (WHome (dying false [4]) .query false))).state = .settled ∧
    (homeAt (ev .retractionEnd (.member ⟨0, 0, 3, 1⟩ 4) (WHome (dying true [4]) .query false))).state = .free ∧
    idle .retractionEnd (.member ⟨0, 0, 3, 1⟩ 5) (WHome (dying true [4]) .query false) = true := by decide +kernel
theorem live_of {x : Join} {j : JoinRef} {p : Nat} (h : x.state ≠ .free ∧ j.gen ≠ 0 ∧ x.gen = j.gen ∧ x.part = p) : Live x j p := h
theorem test_hyps_join_events : okS (WHome aJoin .query false) = true ∧ Waits (WHome aJoin .query false) 0 (th (WHome aJoin .query false)) 7 .answer ∧
    (∀ x ∈ ([aJoin, jn .released, jn .settled, bound2, last1, { aJoin with binds := 2 }] : List Join), Live x ⟨0, 0, 3, 1⟩ 0) ∧ ¬ Live { aJoin with gen := 2 } ⟨0, 0, 3, 1⟩ 0 ∧
    (WHome aJoin .query false).keyReqs.get? 5 = some (kReq .query) ∧ (WHome aJoin .query false).thread? 0 = some (th (WHome aJoin .query false)) ∧
    (th (WHome aJoin .query false)).pos.pkg = 0 ∧ aJoin.binds < aJoin.n ∧ ¬ (2 : Nat) < aJoin.n ∧ (th (WHome aJoin (.bind true) true)).join ≠ none ∧
    (th (WHome aJoin (.bind true) false)).join = none ∧ dirUsed (WHome aJoin (.bind true) false) home0 < 16384 ∧ Waits (WHome bound2 (.arrive [1, 1] 6) true) 0 (th (WHome bound2 (.arrive [1, 1] 6) true)) 7 .answer ∧
    bound2.state = .opened ∧ 0 ∈ bound2.bound ∧ bound2.arrived + 1 ≠ bound2.k ∧ bound2.ty = 1 ∧ bound2.fill ≠ 3 ∧ bound2.acc.length = 2 ∧
    last1.bound = [0] ∧ last1.arrived + 1 = last1.k ∧ last1.fill = 0 ∧ last1.len = 1 ∧ last1.acc = [2 ^ 31 - 1] ∧ last1.res = [8 * 0x4040] ∧ last1.waiters = [] ∧
    ({ bound2 with k := 1 } : Join).k ≤ bound2.n - (bound2.departed + 1) ∧ (dying false [4, 6]).killed.erase 4 ≠ [] ∧ (dying true [4]).killed.erase 4 = [] ∧
    homeAt (WHome (dying true [4]) .query false) = dying true [4] ∧ 5 ∉ (dying true [4]).killed := by
  and_intros
  all_goals first
    | decide +kernel
    | (unfold Waits plain; decide +kernel)
    | exact fun x hx => live_of ((by decide +kernel : ∀ x ∈ ([aJoin, jn .released, jn .settled, bound2, last1, { aJoin with binds := 2 }] : List Join), x.state ≠ .free ∧ (1 : Nat) ≠ 0 ∧ x.gen = 1 ∧ x.part = 0) x hx)
    | exact fun h => absurd h.2.2.1 (by decide)
def WKeyPeer (i : Nat) : State := { WHome aJoin .query false with keyReqs := [(5, ⟨0, 0, 7, ⟨1, 0, 3, i⟩, .query⟩)] }
theorem test_hyps_unrouted : routePort (WKeyPeer 1) 0 0 (th (WKeyPeer 1)).launch 1 = none ∧ (th (WKeyPeer 1)).pos.pkg ≠ 1 ∧ idle .joinQuery o5 (WKeyPeer 1) = true := by decide +kernel

/-- A die whose directory is full; joins with one member left at their close or quorum; a member, killed by the release, that arrives or exits. -/
def WDirOf (l : List Nat) : State := { WHome aJoin (.bind true) false with joins := [((home0, 3), aJoin), ((home0, 4), { aJoin with bound := l })] }
def WDirFull : State := WDirOf (List.replicate 16384 9)
theorem dirUsed_of (l : List Nat) : dirUsed (WDirOf l) home0 = 0 + 0 + (l.length + 0 + 0) := rfl
theorem dirUsed_full : 16384 ≤ dirUsed WDirFull home0 := by
  have h := dirUsed_of (List.replicate 16384 9)
  rw [List.length_replicate] at h
  exact h ▸ by decide
def one (b : List Nat) : Join := { last1 with bound := b, acc := [9], n := 2, binds := 2 }
def withMate (s : State) : State := { s with threads := s.threads ++ [(4, { th s with place := .slot ⟨0, 0, 0, 3, 0⟩, epid := 9#32, wait := none, status := .ready })] }
def WClose (b : List Nat) : State := withMate (WHome (one b) .close false)
def WQuorum : State := withMate (WHome (one [0, 4]) (.arrive [1] 6) true)
def WLateArr (f : Thread → Thread) : State := (WHome (dying false [0]) (.arrive [1, 1] 6) true).updThread 0 f
def WLateExit (st : Status) : State := (WHome (dying false [0]) .depart true).updThread 0 (fun t => { t with status := st })
def khold (t : Thread) : Thread := { t with tstat := putBits t.tstat 14 14 1 }
def mateKill (s : State) : Option Kill := (s.thread? 4).map (·.kill)
theorem test_join_release : (homeAt (ev .joinCloseRequest o5 (WClose []))).state = .free ∧ memRead (ev .joinCloseRequest o5 (WClose [])).mem 0x20200 8 = 9 ∧
    (homeAt (ev .joinCloseRequest o5 (WClose [4]))).state = .released ∧ mateKill (ev .joinCloseRequest o5 (WClose [4])) = some (.sent 0 ⟨0, 0, 0⟩ 0) ∧
    (evT .joinCloseRequest o5 (WClose [4])).reg 7 = r301 { one [] with close := true, state := .released, killed := [4], noarr := false } ∧
    (homeAt (ev .joinArrival o5 WQuorum)).killed = [4] ∧ mateKill (ev .joinArrival o5 WQuorum) = some (.sent 0 ⟨0, 0, 0⟩ 0) ∧
    memRead (ev .joinArrival o5 WQuorum).mem 0x20200 8 = 10 ∧ (evT .joinArrival o5 (WLateArr khold)).reg 7 = refusal 7 ∧ (ev .joinArrival o5 (WLateArr id)).thread? 0 = none ∧
    (ev .joinDeparture o5 (WLateExit .parked)).thread? 0 = none ∧ (evT .joinDeparture o5 (WLateExit .halted)).kill = .held := by decide +kernel
theorem test_hyps_join_release : Waits WDirFull 0 (th WDirFull) 7 .answer ∧ WDirFull.keyReqs.get? 5 = some (kReq (.bind true)) ∧ (th WDirFull).join = none ∧
    (∀ b ∈ [[], [4]], Waits (WClose b) 0 (th (WClose b)) 7 .answer ∧ okS (WClose b) = true ∧ homeAt (WClose b) = one b ∧ Live (one b) ⟨0, 0, 3, 1⟩ 0 ∧ (one b).fill = 0 ∧ (one b).len = 1 ∧
      (one b).ty = 1 ∧ (one b).acc = [9] ∧ (one b).res = [8 * 0x4040] ∧ (one b).waiters = [] ∧ (one b).state = .opened ∧ (WClose b).lockWaiters = [] ∧ (WClose b).feWaiters = []) ∧
    (WClose [4]).thread? 4 ≠ none ∧ Waits WQuorum 0 (th WQuorum) 7 .answer ∧ okS WQuorum = true ∧ homeAt WQuorum = one [0, 4] ∧ (one [0, 4]).arrived + 1 = (one [0, 4]).k ∧
    WQuorum.thread? 4 ≠ none ∧ (dying false [0]).state ≠ .opened ∧ Waits (WLateArr khold) 0 (th (WLateArr khold)) 7 .answer ∧ (th (WLateArr khold)).khold = true ∧
    Waits (WLateArr id) 0 (th (WLateArr id)) 7 .answer ∧ (th (WLateArr id)).khold = false ∧ (th (WLateArr id)).priv ≠ 2 ∧ (th (WLateArr id)).join = some (kReq .query).join ∧
    (WLateArr id).reqs = [] ∧ (th (WLateExit .parked)).status = .parked ∧ (th (WLateExit .parked)).join = some (kReq .query).join ∧ (th (WLateExit .parked)).wait = some .answer ∧
    (th (WLateExit .halted)).status = .halted ∧ (th (WLateExit .halted)).slot?.isSome = true ∧ (WLateExit .parked).keyReqs.get? 5 = some (kReq .depart) := by
  and_intros
  all_goals first
    | decide +kernel
    | (unfold Waits plain; decide +kernel)
    | (unfold Waits Live plain; decide +kernel)

/-! ### Truss, dispatcher, hypercalls, host registers -/

def c0 : CrewRef := ⟨0, 0, 0, 0, 0⟩
def c1 : CrewRef := ⟨0, 0, 0, 1, 0⟩
def pr0 : PartRef := ⟨0, 0⟩
def crewW (d : CrewRef) (b : Bool) : Crew := { Crew.init 0 0 40 with wedge := BitVec.ofNat 64 d.id26, blocked := b, targets := if b then [.crew d] else [] }
/-- Crew 0 waits for a word of crew 1's; crew 1 waits for one of crew 0's when `cy`, and is running when not. -/
def WCrews (cy : Bool) (b : Bool) : State :=
  let s := rdy (parkedIn .word)
  let t1 := { th s with place := .slot ⟨0, 0, 0, 0, 1⟩, start := ⟨0, 0, 0, 0, 1⟩, crew := c1 }
  { s with threads := s.threads ++ [(1, if cy then t1 else { t1 with status := .ready, wait := none })], crews := [(c0, crewW c1 b), (c1, crewW c0 (cy && b))] }
def WPoint (own : Nat) (p : Option Nat) : State :=
  ((rdy id).updTile T0 (fun x => { x with point := p })).updCrew c0 (fun x => { x with own := own })
def WLoan : State := { WCrews false true with loans := [⟨7, c0, [c0, c1], .crew c1, 40, .flight, 0, none⟩] }
/-- A droop sequence under way holds the point. -/
def WHeld : State := (WPoint 60 (some 2)).updTile T0 (fun x => { x with drpFrom := some 0 })
def WSlack (b : Bool) : State :=
  ((rdy id).updPart ⟨0, 1⟩ (fun x => { x with slack := b, pool := 40 })).updPart pr0 (fun x => { x with slackOut := [(T0, 5)], pool := 2 })
/-- Crew 0 runs, with a loan of its to crew 1 and a change of itself; its shares wait in the pool, where another's shares are too. -/
def aLoan : Loan := ⟨7, c0, [c0, c1], .crew c1, 40, .flight, 0, none⟩
def WLent (l : Loan) (f : Crew → Crew) : State := { ((WCrews false true).updThread 0 (fun t => { t with status := .ready, wait := none })).updCrew c0 f with loans := [l] }
def WPaid : State := ((WCrews false false).updCrew c0 (fun x => { x with waiting := true, away := 10 })).updPart pr0 (fun x => { x with pool := 12 })
def retiredCrew (x : Crew) : Crew := { x with retired := true }
/-- Shares on their way, that a droop lets go or not. -/
def WSent (d : ShareDest) (b : Bool) : State := { WHeld with fresh := 7, transits := [(6, ⟨9, d, if b then some T0 else none⟩)] }
def WLoanHeld : State := { WHeld with loans := [{ aLoan with leaves := some T0 }] }
theorem test_truss_events : (ev .crewBlockedChange (.crew c0) (WCrews false false)).loans.map (·.amount) = [40] ∧ (((ev .crewBlockedChange (.crew c0) (WCrews false false)).crew? c0).map (·.blocked)) = some true ∧
    (ev .shareCredit (.num 7) WLoan).loans.map (·.at_) = [.held] ∧ ((ev .pointStepDone (.tile T0) (WPoint 60 (some 2))).tile T0).point = some 9 ∧
    ((ev .tileRestart (.tile T0) (WPoint 60 none)).tile T0).point = some 9 ∧ (ev .tileRestart (.tile T0) (WPoint 0 none)).transits.map (·.2) = [⟨8, .floor T0, none⟩] ∧
    idle .tileRestart (.tile T0) (WPoint 60 (some 2)) = true ∧ (ev .cycleDetect .none (WCrews true true)).sysEvents.map (·.kind) = [1] ∧
    (ev .cycleDetect .none (WCrews false true)).sysEvents = [] ∧ ((ev .slackLend (.part ⟨0, 1⟩) (WSlack true)).part ⟨0, 1⟩).pool = 7 ∧
    (ev .slackLend (.part ⟨0, 1⟩) (WSlack true)).transits.map (·.2) = [⟨33, .slack ⟨0, 1⟩ T0, none⟩] ∧
    idle .slackLend (.part ⟨0, 1⟩) (WSlack false) = true ∧ ((ev .slackReclaim (.part pr0) (WSlack true)).transits.map (·.2)) = [⟨5, .pool pr0, none⟩] := by decide +kernel
/-- Shares recalled, paid out, credited at their accounts, and held by a droop. -/
theorem test_truss_shares : (ev .crewBlockedChange (.crew c0) (WLent { aLoan with at_ := .held } id)).loans.map (fun l => (l.target, l.at_)) = [(.crew c0, .flight)] ∧
    (ev .crewBlockedChange (.crew c0) WPaid).transits.map (·.2) = [⟨10, .own c0, none⟩] ∧ ((ev .crewBlockedChange (.crew c0) WPaid).part pr0).pool = 2 ∧
    (ev .shareCredit (.num 7) (WLent { aLoan with target := .crew c0, trail := [c0] } id)).loans = [] ∧
    ((ev .shareCredit (.num 7) (WLent { aLoan with at_ := .toPool } id)).part pr0).pool = ((WLent aLoan id).part pr0).pool + 40 ∧
    ((ev .shareCredit (.num 7) (WLent aLoan retiredCrew)).part pr0).pool = ((WLent aLoan id).part pr0).pool + 40 ∧
    ((ev .shareCredit (.num 6) (WSent (.pool pr0) false)).part pr0).pool = (WHeld.part pr0).pool + 9 ∧ ((ev .shareCredit (.num 6) (WSent (.own c0) false)).crew? c0).map (·.own) = some 69 ∧
    ((ev .shareCredit (.num 6) (WSent (.floor T0) false)).tile T0).floor = 9 ∧ ((ev .shareCredit (.num 6) (WSent (.reserve 0) false)).pkg 0).reserve = (WHeld.pkg 0).reserve + 9 ∧
    idle .shareCredit (.num 6) (WSent (.own c0) true) = true ∧ idle .shareCredit (.num 7) WLoanHeld = true ∧ idle .shareCredit (.num 8) WLoan = true := by decide +kernel
theorem test_hyps_truss_events : okS (WCrews false false) = true ∧ (WCrews false false).crew? c0 = some (crewW c1 false) ∧ blockedNow (WCrews false false) c0 = true ∧
    targetsNow (WCrews false false) c0 = [.crew c1] ∧ (WCrews false false).loans = [] ∧ (crewW c1 false).heldBack = false ∧ (crewW c1 false).own ≠ 0 ∧ c1 ≠ c0 ∧
    (crewW c1 false).retired = false ∧ (crewW c1 false).waiting = false ∧ (crewW c1 false).away = 0 ∧ pointHeld (WCrews false false) c0.tileRef = false ∧ (WCrews false false).transits = [] ∧
    (WCrews false false).crew? c1 = some (crewW c0 false) ∧ (crewW c0 false).blocked = false ∧ okS WLoan = true ∧ okS (WPoint 60 (some 2)) = true ∧ goneTile (WPoint 60 none) T0 = false ∧
    ((WPoint 60 (some 2)).tile T0).point ≠ none ∧ ((WPoint 60 (some 2)).tile T0).floor = 0 ∧ ((WPoint 60 none).tile T0).point = none ∧ 8 ≤ Machine.held (WPoint 60 none) T0 ∧
    Machine.held (WPoint 0 none) T0 = 0 ∧ floorCalled (WPoint 0 none) T0 = true ∧ 8 ≤ ((WPoint 0 none).pkg 0).reserve ∧ goneTile (WPoint 0 none) T0 = false ∧ coming (WPoint 0 none) (.floor T0) = 0 ∧
    cyclesNow (WCrews true true) = [c0 :: [c1]] ∧ (WCrews true true).cycles = [] ∧ cyclesNow (WCrews false true) = (WCrews false true).cycles ∧
    ((WSlack true).part ⟨0, 1⟩).slack = true ∧ ((WSlack true).part ⟨0, 1⟩).debt = 0 ∧ ((WSlack false).part ⟨0, 1⟩).slack = false ∧ memWf (WSlack true).mem = true ∧ (WSlack true).transits = [] ∧
    (∀ e ∈ WLoan.crews, e.2.retired = false ∧ e.2.heldBack = false) ∧ (∀ l ∈ WLoan.loans, ∀ c ∈ l.owner :: l.trail, (WLoan.crew? c).isSome = true) ∧
    (∀ e ∈ WLoan.parts, e.2.debt = 0) ∧ ((WLoan.loans.filter (·.inFlight)).map (·.id)).Nodup ∧ ((WPoint 60 none).tile T0).newCosts = none ∧ excess (WPoint 60 (some 2)) T0 = 0 ∧ pointHeld (WPoint 60 (some 2)) T0 = false ∧
    pointHeld WHeld T0 = true ∧ (WHeld.tile T0).floor = 0 ∧ excess WHeld T0 = 0 ∧ (WHeld.tile T0).point = some 2 ∧ goneTile WHeld T0 = false ∧
    idle .pointStepDone (.tile T0) WHeld = true := by decide +kernel
theorem test_hyps_truss_shares : okS WPaid = true ∧ (∃ x, WPaid.crew? c0 = some x ∧ x.retired = false ∧ x.waiting = true ∧ x.heldBack = false ∧ x.away ≠ 0 ∧ x.away ≤ (WPaid.part ⟨0, x.part⟩).pool) ∧
    okS (WLent { aLoan with at_ := .held } id) = true ∧ blockedNow (WLent { aLoan with at_ := .held } id) c0 = false ∧
    (∀ f ∈ [id, retiredCrew], ∃ x, (WLent aLoan f).crew? c0 = some x ∧ x.retired = (f (crewW c1 true)).retired ∧ x.heldBack = false ∧ ((WLent aLoan f).parts.get? ⟨0, x.part⟩).isSome = true) ∧
    aLoan.inFlight = true ∧ aLoan.amount ≠ 0 ∧ aLoan.trail.getLast? = some c1 ∧ (∀ d ∈ aLoan.trail, crewGone (WLent aLoan id) d = false) ∧ receives (WLent aLoan id) c0 c1 = true ∧
    ((WLent aLoan id).tile c1.tileRef).slackIn = [] ∧ excess { WLent aLoan id with loans := [{ aLoan with at_ := .held, credited := (WLent aLoan id).fresh }] } c1.tileRef = 0 ∧
    (∀ e ∈ (WLent aLoan id).parts, e.2.debt = 0) ∧ WLoanHeld.loans = [{ aLoan with leaves := some T0 }] ∧ (WLoanHeld.crew? c0).isSome = true ∧ pointHeld WLoanHeld T0 = true ∧ okS WLoanHeld = true ∧
    (∀ d ∈ [ShareDest.pool pr0, .own c0, .floor T0, .reserve 0], ∀ b, (WSent d b).transits.get? 6 = some ⟨9, d, if b then some T0 else none⟩ ∧ (WSent d b).loans = [] ∧
      okS (WSent d b) = true ∧ pointHeld (WSent d b) T0 = true ∧ 7 ≤ (WSent d b).fresh) ∧
    (WHeld.parts.get? pr0).isSome = true ∧ (∃ y, WHeld.crew? c0 = some y ∧ y.retired = false ∧ y.heldBack = false) := by
  and_intros
  all_goals first
    | decide +kernel
    | exact ⟨_, rfl, by decide +kernel, by decide +kernel, by decide +kernel, by decide +kernel, by decide +kernel⟩
    | exact ⟨_, rfl, by decide +kernel, by decide +kernel⟩
    | exact List.forall_mem_cons.2 ⟨⟨_, rfl, by decide +kernel, by decide +kernel, by decide +kernel⟩, List.forall_mem_cons.2 ⟨⟨_, rfl, by decide +kernel, by decide +kernel, by decide +kernel⟩, fun _ h => nomatch h⟩⟩
theorem test_hyps_highest : Highest (WPoint 60 none) T0 60 9 ∧ Machine.held (WPoint 60 none) T0 = 60 := by
  refine ⟨⟨by unfold mayRun; decide +kernel, fun r hr h => ?_⟩, by decide +kernel⟩
  have h2 : ∀ r, r < 16 → 9 < r → ¬ ((WPoint 60 none).tile T0).costs.getD r 0 ≤ 60 := by decide +kernel
  exact h2 r h.1 hr h.2.2.2.2

/-- A submission of thread 0: one crew of 8 shares in slot 1 of tile 0 of the own package. -/
def recWords (e : Nat) : List Word := [BitVec.ofNat 64 e, 6, BitVec.ofNat 64 (8 * 2 ^ 56), BitVec.ofNat 64 (2 + 2 ^ 32 + 2 ^ 37 + 2 ^ 54), 0, 0, 0, 0, 0, 0, 0, 0, 0, 0, 0, 0]
def WSub (ws : List Word) : State :=
  { rdy (fun t => parkedIn .answer (t.owe 7)) with subs := [(5, ⟨.thread 0 7, 0, 0, ws, none, false⟩)] }
def okR (ws : List Word) : Option Nat := match checkRecord (WSub ws) 0 0 (th (WSub ws)).priv ws with
  | .ok _ => none
  | .error k => some k
def WPool (n : Nat) (s : State) : State := s.updPart pr0 (fun x => { x with pool := n, pfloor := 3 })
def accepted : Launch := { aLaunch with words := recWords 0x100000, started := false, threads := 0 }
def WClaim : State := WPool 50 { rdy id with launches := [(9, accepted)], pkgs := [(0, (rdy id).pkg 0)] }
/-- Launch 9 has nothing outstanding, in thread 0's LWAIT or not. -/
def WDone (b : Bool) : State := { rdy (fun t => if b then parkedIn (.lwait 7 9) (t.owe 7) else t) with launches := [(9, { aLaunch with threads := 0, started := true, nkill := 2 })] }
def WBusy : State := { rdy id with launches := [(9, { aLaunch with threads := 1, started := true })] }
/-- Launch 9 of thread 0; a launch done under a reset beside launch 8 with threads or without; a submission met by a reset. -/
def WReset : State := { rdy (fun t => { t with launch := 9 }) with launches := [(9, { aLaunch with threads := 1, started := true })] }
def WEnds (n : Nat) : State := { rdy id with launches := [(9, { aLaunch with threads := 0, started := true, reset := true }), (8, { aLaunch with threads := n, started := true, reset := true })] }
def WSubReset : State := { rdy (fun t => parkedIn .answer (t.owe 7)) with subs := [(5, ⟨.thread 0 7, 0, 0, recWords 0x100000, none, true⟩)] }
theorem test_resets : (evT .launchCheck o5 WSubReset).reg 7 = refusal 12 ∧ (ev .partitionReset (.part pr0) WReset).threads = [] ∧
    (ev .partitionReset (.part pr0) WReset).launches = [] ∧ (ev .partitionReset (.part pr0) WReset).transits.map (·.2) = [⟨113, .pool pr0, none⟩] ∧
    idle .launchComplete (.num 9) (WEnds 2) = true ∧ (ev .launchComplete (.num 9) (WEnds 0)).launches = [] := by decide +kernel
theorem test_hyps_resets : WSubReset.subs.get? 5 = some ⟨.thread 0 7, 0, 0, recWords 0x100000, none, true⟩ ∧ Waits WSubReset 0 (th WSubReset) 7 .answer ∧ okS WSubReset = true ∧
    (∀ n, n < 3 → ((WEnds n).launches.map (fun e => (e.1, e.2.threads, e.2.packets, e.2.started, e.2.reset))) = [(9, 0, 0, true, true), (8, n, 0, true, true)]) := by
  and_intros
  all_goals first
    | exact fun n _ => rfl
    | decide +kernel
    | (unfold Waits plain; decide +kernel)
theorem test_dispatcher : (evT .launchCheck o5 (WSub (recWords 0x100000))).reg 7 = 1#64 ∧ (evT .launchCheck o5 (WSub (recWords 0))).reg 7 = refusal 2 ∧
    (evT .launchCheck o5 (WSub ((recWords 0x100000).set 3 (BitVec.ofNat 64 (2 ^ 63))))).reg 7 = refusal 1 ∧ (evT .launchCheck o5 (WPool 9 (WSub (recWords 0x100000)))).reg 7 = refusal 3 ∧
    ((ev .launchClaim .none WClaim).part pr0).pool = 42 ∧ (ev .launchClaim .none WClaim).threads.length = 9 ∧
    ((ev .launchClaim .none WClaim).crew? ⟨0, 0, 0, 1, 9⟩).map (·.own) = some 8 ∧ idle .launchClaim .none (rdy id) = true ∧ idle .launchComplete (.num 9) WBusy = true ∧
    ((ev .launchComplete (.num 9) (WDone false)).part pr0).completions.get? 9 = some (some (BitVec.ofNat 64 (2 * 2 ^ 32 + 9))) ∧
    (evT .launchComplete (.num 9) (WDone true)).reg 7 = BitVec.ofNat 64 (2 * 2 ^ 32 + 9) := by decide +kernel
theorem test_hyps_dispatcher : okS (WSub (recWords 0x100000)) = true ∧ (WSub (recWords 0x100000)).subs.get? 5 = some ⟨.thread 0 7, 0, 0, recWords 0x100000, none, false⟩ ∧
    Waits (WSub (recWords 0x100000)) 0 (th (WSub (recWords 0x100000))) 7 .answer ∧ okR (recWords 0x100000) = none ∧ okR (recWords 0) = some 2 ∧
    recResv ((recWords 0x100000).set 3 (BitVec.ofNat 64 (2 ^ 63))) = true ∧ recResv (recWords 0) = false ∧ bits (recWords 0x100000)[2]!.toNat 52 48 < (WClaim.part pr0).pfloor ∧
    WClaim.launches = [(9, accepted)] ∧ WClaim.pkgs.map (·.1) = [0] ∧ accepted.pkgs = [0] ∧ accepted.claimed = [] ∧ accepted.started = false ∧ accepted.threads = 0 ∧
    claimReady WClaim accepted 0 0 = true ∧ claimCost accepted + poolReserved WClaim pr0 ≤ (WClaim.part pr0).pool ∧ memWf WClaim.mem = true ∧ (rdy id).launches = [] ∧
    ((WDone true).launches.get? 9).isSome = true ∧ (aLaunch.words.getD 3 0).getLsbD 42 = false ∧ aLaunch.packets = 0 ∧ (∀ e ∈ (WDone false).threads, e.2.wait = none) ∧
    (WDone true).threads = [(0, th (WDone true))] ∧ Waits (WDone true) 0 (th (WDone true)) 7 (.lwait 7 9) ∧ (th (WDone true)).part = 0 ∧ (WBusy.parts.get? pr0).isSome = true ∧
    (WSub (recWords 0x100000)).launches.get? 1 = none ∧ ((WDone true).parts.get? pr0).isSome = true := by
  and_intros
  all_goals first
    | decide +kernel
    | (unfold Waits plain; decide +kernel)

/-- Package 1 hosts the partition too, though the launch does not name it: its settings are kept with the launch (R392). -/
def WHosts : State :=
  let s := WSub (recWords 0x100000)
  { s with parts := s.parts.set ⟨1, 0⟩ { s.part pr0 with root := 0x18000 } }
theorem test_launch_settings : ((ev .launchCheck o5 WHosts).launches.get? 1).map (fun l => (l.cfgs.get? 1).map (·.root)) = some (some 0x18000) ∧
    ((ev .launchCheck o5 WHosts).launches.get? 1).map (fun l => l.cfgs.get? 0) = some (some (WHosts.part pr0).cfg) := by decide +kernel
theorem test_hyps_launch_settings : okS WHosts = true ∧ Waits WHosts 0 (th WHosts) 7 .answer ∧ (WHosts.parts.get? ⟨1, 0⟩).isSome = true ∧ (WHosts.parts.get? pr0).isSome = true ∧
    WHosts.launches.get? 1 = none ∧ (match checkRecord WHosts 0 0 (th WHosts).priv (recWords 0x100000) with | .ok _ => true | .error _ => false) = true := by
  and_intros
  all_goals first
    | decide +kernel
    | (unfold Waits plain; decide +kernel)

/-- Partition 0 with a ring of 16 entries at 0x8000 of host memory and one entry waiting; or with its mailbox or its doorbell busy. -/
def anEntry' : RingEntry := ⟨2, 77, 5, 6, []⟩
def WHost (f : Part → Part) : State := (rdy id).updPart pr0 (fun x => f { x with erBase := 0x8000, erSize := 4, erNote := 0x7000, erIntc := true })
def WRing : State := WHost (fun x => { x with held := [anEntry'] })
def WUnread : State := WHost (fun x => { x with erSeq := 16, held := [anEntry'] })
def lmB (x : Part) : Part := { x with lmBusy := true, hpBusy := true }
def fn (off : Nat) (w : Nat) : Obj := .reg 0 1 off (BitVec.ofNat 64 w)
def hostVal (a : Nat) : Nat := ((ev .eventRingWrite (.part pr0) WRing).rdWord (2 ^ 63 + a)).toNat
theorem test_host_ring : hostVal 0x8000 = 2 + 2 ^ 16 ∧ hostVal 0x8008 = 77 ∧ hostVal 0x8010 = 5 ∧ hostVal 0x7000 = 1 ∧ ((ev .eventRingWrite (.part pr0) WRing).pkg 0).vectors = [1] ∧
    idle .eventRingWrite (.part pr0) WUnread = true ∧ idle .eventRingWrite (.part pr0) (WHost id) = true := by decide +kernel
theorem test_host_registers : (ev .lmdoor (fn 0x80 9) (WHost id)).subs.map (·.2.src) = [.host pr0 9] ∧ ((ev .lmdoor (fn 0x80 9) (WHost lmB)).part pr0).lmDrop = 1 ∧
    ((ev .hpdoor (fn 0x100 9) (WHost id)).part pr0).hpDoor = 9 ∧ ((ev .ercons (fn 0x158 9) (WHost id)).part pr0).erCons = 9 ∧ ((ev .ersize (fn 0x148 9) (WHost id)).part pr0).erSize = 9 ∧
    idle .ersize (fn 0x148 17) (WHost id) = true ∧ idle .ersize (fn 0x148 9) WUnread = true ∧ ((ev .preset (fn 0x1C0 0x525354) (WHost id)).part pr0).resetting = true ∧
    idle .preset (fn 0x1C0 0x525355) (WHost id) = true ∧ ((ev .registerWrite (fn 0x10 9) (WHost id)).part pr0).lmrec.getD 2 0 = 9 ∧
    ((ev .registerWrite (fn 0x10 9) (WHost lmB)).part pr0).lmDrop = 1 ∧ ((ev .registerWrite (fn 0xD0 9) (WHost id)).part pr0).hpkt.getD 2 0 = 9 ∧
    ((ev .registerWrite (fn 0x140 0x9000) (WHost id)).part pr0).erBase = 0x9000 ∧ ((ev .registerWrite (fn 0x150 0x9008) (WHost id)).part pr0).erNote = 0x9008 ∧
    ((ev .registerWrite (fn 0x160 2) (WHost id)).part pr0).erIntc = false ∧ ((ev .registerWrite (.reg 0 0 0x18 7) (WHost id)).pkg 0).mgmt.intc = 3 := by decide +kernel
/-- A doorbell for queue 5 with a good packet, or a bad one. -/
def WDoor (bad : Bool) (q : TaskQueue) : State :=
  { WHost (fun x => { x with hpBusy := true, hpDoor := 5, hpkt := [if bad then 0x400001 else 0x400000, 11, 0, 0, 0, 0, 0, 0] }) with taskQueues := [(⟨0, 0, 5⟩, q)] }
def tq (b : Bool) (ps : List Packet) : TaskQueue := ⟨some 0, b, ps, [], []⟩
def WTnext : State := { rdy (fun t => parkedIn (.tnext 7 ⟨0, 0, 5⟩) (t.owe 7)) with taskQueues := [(⟨0, 0, 5⟩, ⟨some 0, true, [], [0], []⟩)] }
theorem test_doorbell : ((ev .hpdoor (.part pr0) (WDoor false (tq true []))).taskQueue ⟨0, 0, 5⟩).packets = [⟨[0x400000, 11, 0, 0, 0, 0, 0, 0], none⟩] ∧
    [WDoor false (tq true []), WDoor false (tq true (List.replicate 256 aPacket)), WDoor false (tq false []), WDoor true (tq true [])].map
      (fun s => ((ev .hpdoor (.part pr0) s).part pr0).hpResult) = [0, 1, 2, 3] ∧ ((ev .tqclose (fn 0x180 5) WTnext).taskQueue ⟨0, 0, 5⟩).isOpen = false ∧
    (evT .tqclose (fn 0x180 5) WTnext).status = .waking ∧ idle .tqclose (fn 0x180 6) WTnext = true := by decide +kernel
/-- The firmware entered for hypercall `c` with g3 to g5. -/
def WHyper (c g3 g4 g5 : Nat) : State :=
  (rdy (fun t => regs [(3, g3), (4, g4), (5, g5)] { t with ecause := BitVec.ofNat 64 (0x20 + c * 256), estat := 1, epc := 0x100020#64, tstat := putBits t.tstat 1 0 2 })).updPart pr0
    (fun x => { x with ptepol := 1 })
theorem test_hypercalls : (evT .hver me (WHyper 0x800 0 0 0)).reg 3 = 1#64 ∧ (evT .hver me (WHyper 0x800 0 0 0)).pc = 0x100020#64 ∧
    (evT .pteget me (WHyper 0x802 0x100000 0 0)).reg 3 = 0x213F#64 ∧ (evT .pteget me (WHyper 0x802 0x990000 0 0)).reg 3 = 0#64 ∧
    (evT .ptebits me (WHyper 0x801 0x100000 0x80 0)).reg 3 = 0#64 ∧ memRead (ev .ptebits me (WHyper 0x801 0x100000 0x80 0)).mem 0x18080 8 = 0x21BF ∧
    (evT .ptebits me (WHyper 0x801 0x100000 0x40 0)).reg 3 = 2#64 ∧ (evT .ptebits me (WHyper 0x801 0x990000 0 0)).reg 3 = 1#64 ∧
    (evT .ptebits me (WHyper 0x801 0x100000 0x100 0)).reg 3 = 3#64 ∧ (ev .tileQueueAssign (.tileNums T0 3 2) (rdy id)).hwQueue T0 3 = ⟨some 2, []⟩ ∧
    idle .tileQueueAssign (.tileNums T0 16 2) (rdy id) = true := by decide +kernel
def hyperB (s : State) (code : Nat) : Bool := decide (s.thread? 0 = some (th s) ∧ (th s).status = .ready ∧ (th s).priv = 2 ∧ bits (th s).ecause.toNat 7 0 = 0x20 ∧ bits (th s).estat.toNat 1 0 = 1 ∧
  bits (th s).ecause.toNat 19 8 = code ∧ (th s).slot?.isSome = true ∧ (th s).inbox = [] ∧ (th s).epc.toNat % 8 = 0)
theorem hyper_of {s : State} {code : Nat} (h : hyperB s code = true) : Hypercall s 0 (th s) code := by
  obtain ⟨a, b, c, d, e, f, g, i, j⟩ := of_decide_eq_true h
  exact ⟨a, b, c, d, e, f, g, by rw [i]; simp, j⟩
theorem test_hyps_host : memWf WRing.mem = true ∧ ((WHost id).pkg 0).ready = true ∧ WRing.parts.get? pr0 = some (WRing.part pr0) ∧ (WRing.part pr0).held = anEntry' :: [] ∧ (WRing.part pr0).erSize = 4 ∧
    (WRing.part pr0).erSeq - (WRing.part pr0).erCons < 2 ^ 4 ∧ (WRing.part pr0).erNote.toNat + 8 ≤ (WRing.part pr0).erBase.toNat ∧ 16 ≤ (WUnread.part pr0).erSeq - (WUnread.part pr0).erCons ∧
    ((WHost id).part pr0).lmBusy = false ∧ ((WHost lmB).part pr0).lmBusy = true ∧ (WUnread.part pr0).erCons < (WUnread.part pr0).erSeq ∧ ((WHost id).part pr0).erSeq = 0 ∧
    ((WDoor false (tq true [])).part pr0).hpBusy = true ∧ ((WDoor false (tq true [])).taskQueue ⟨0, 0, 5⟩).part = some 0 ∧ ¬ badPacket ((WDoor false (tq true [])).part pr0).hpkt ∧
    badPacket ((WDoor true (tq true [])).part pr0).hpkt ∧ ((WDoor false (tq false [])).taskQueue ⟨0, 0, 5⟩).isOpen = false ∧
    256 ≤ ((WDoor false (tq true (List.replicate 256 aPacket))).taskQueue ⟨0, 0, 5⟩).packets.length ∧ (WTnext.taskQueue ⟨0, 0, 5⟩).waiters = [0] ∧
    Waits WTnext 0 (th WTnext) 7 (.tnext 7 ⟨0, 0, 5⟩) ∧ (WTnext.taskQueue ⟨0, 0, 6⟩).part ≠ some 0 ∧ (WTnext.parts.get? pr0).isSome = true ∧
    Hypercall (WHyper 0x800 0 0 0) 0 (th (WHyper 0x800 0 0 0)) 0x800 ∧ Hypercall (WHyper 0x802 0x990000 0 0) 0 (th (WHyper 0x802 0x990000 0 0)) 0x802 ∧
    Hypercall (WHyper 0x801 0x100000 0x80 0) 0 (th (WHyper 0x801 0x100000 0x80 0)) 0x801 ∧ leafOf (WHyper 0x801 0x100000 0x80 0) (th (WHyper 0x801 0x100000 0x80 0)) 0x100000 = some (0x3010, 0x213F) ∧
    leafOf (WHyper 0x801 0x100000 0x80 0) (th (WHyper 0x801 0x100000 0x80 0)) 0x990000 = none ∧ (WHyper 0x801 0x100000 0x80 0).lockWaiters = [] ∧
    ((WHyper 0x801 0x100000 0x80 0).cfgOf (th (WHyper 0x801 0x100000 0x80 0))).ptepol = 1 := by
  and_intros
  all_goals first
    | decide +kernel
    | (unfold badPacket; decide +kernel)
    | (unfold Waits plain; decide +kernel)
    | exact hyper_of (by decide +kernel)

/-- A submission of the partition stands while PRESET is written: it is marked. -/
def WPreset : State := { WHost id with subs := [(5, ⟨.thread 0 7, 0, 0, [], none, false⟩), (6, ⟨.thread 0 7, 0, 1, [], none, false⟩)] }
theorem test_preset_marks : ((ev .preset (fn 0x1C0 0x525354) WPreset).subs.map (fun e => (e.1, e.2.reset))) = [(5, true), (6, false)] ∧
    WPreset.subs.get? 5 = some ⟨.thread 0 7, 0, 0, [], none, false⟩ := by decide +kernel

/-! ### The device -/

def P3 : PortRef := ⟨0, 3⟩
/-- Decoder 0 covers 0x20000 to 0x21000, decoder 1 the next 4 KiB. -/
def WHdm : State := (rdy id).updPart pr0 (fun x => { x with hdm := [(0x20000, 0x1000), (0x21000, 0x1000)] })
def line (a : Nat) : Obj := .host pr0 a [(0, 7#8), (9, 8#8)]
/-- Stream 2 of port 3: two words a record from 0x28000, a header, of partition 0, matching UDP port 9, with action `act`. -/
def aStream (act : Nat) (st : Bool) (wait : List (List Nat)) (next : Option Nat) : Ingest :=
  ⟨[0x28000, BitVec.ofNat 64 (2 ^ 63 + act * 2 ^ 61 + 2 ^ 60 + 2 * 2 ^ 32 + 4), 0, BitVec.ofNat 64 (2 ^ 63 + 9)], true, 6, next, st, wait, 0, 0, 0⟩
def WEth (buf : Nat) (x : Ingest) : State := (rdy id).updEth P3 (fun y => { y with buffered := buf, quanta := 77, streams := [(2, x)] })
/-- An IPv4 frame with the payload 1, 2, 3 for a UDP port below 256, its fragment field and FCS; an IPv6 one with VLAN tag 2. (FCS: the CRC-32 of IEEE 802.3.) -/
def frame4 (fr port : Nat) (fcs : List Nat) : List Nat :=
  [0, 0, 0, 0, 0, 1, 2, 0, 0, 0, 0, 9, 8, 0, 69, 0, 0, 31, 0, 1, fr, 0, 64, 17, 0, 0] ++ ([10, 0, 0, 1, 10, 0, 0, 2, 0, 5, 0, port, 0, 11, 0, 0, 1, 2, 3] ++
    (List.replicate 15 0 ++ fcs))
def goodFrame : List Nat := frame4 0 9 [53, 110, 101, 162]
def otherFrame : List Nat := frame4 0 8 [225, 132, 22, 57]
def badFrame : List Nat := frame4 0 9 [53, 110, 101, 163]
def fragment : List Nat := frame4 32 9 [136, 111, 218, 144]
def frame6 : List Nat := [0, 0, 0, 0, 0, 1, 2, 0, 0, 0, 0, 9, 129, 0, 0, 2, 134, 221, 96, 0, 0, 0, 0, 11, 17, 64] ++ (List.replicate 32 0 ++
  [0, 5, 0, 9, 0, 11, 0, 0, 1, 2, 3, 209, 191, 114, 162])
def takes (b : List Nat) : Obj := .frame P3 b
/-- R404: FCS, UDP over IPv4 or IPv6, fragments. -/
theorem test_parse : parseFrame goodFrame = some ⟨1, none, 9, [1, 2, 3]⟩ ∧ parseFrame frame6 = some ⟨1, some 2, 9, [1, 2, 3]⟩ ∧ parseFrame fragment = none ∧
    parseFrame badFrame = none ∧ parseFrame (List.replicate 2001 0) = none := by decide +kernel
def p32 : Obj := .portNum P3 2
def st2 (s : State) : Ingest := s.stream P3 2
def full (x : State) : State := { x with fe := (0x28020 / 8) :: x.fe }
def WFull5 (x : Ingest) : State := full (WEth 0 x)
theorem test_host_access : ((ev .hostRead (line 0x20100) WHdm).pkg 0).hostData = [0, 0] ∧ ((ev .hostRead (line 0x30100) WHdm).pkg 0).hostData = [0xFF, 0xFF] ∧
    memRead (ev .hostWrite (line 0x20100) WHdm).mem 0x20100 2 = 7 ∧ (ev .hostWrite (line 0x20100) WHdm).fe = [] ∧ ((ev .hostWrite (line 0x21100) WHdm).pkg 0).mgmt.links.getD 0 0 = 1 ∧
    (ev .hostFillWrite (line 0x21100) WHdm).fe = [0x21100 / 8, 0x21108 / 8] ∧ memRead (ev .hostFillWrite (line 0x21100) WHdm).mem 0x21109 1 = 8 := by decide +kernel
theorem test_frames : ((ev .frameReceive (takes badFrame) (WEth 0 (aStream 0 false [] none))).ethPort P3).counts = [1, 0, 1, 0, 0, 0, 0, 0] ∧
    ((ev .frameReceive (takes otherFrame) (WEth 0 (aStream 0 false [] none))).ethPort P3).counts = [1, 1, 0, 1, 0, 0, 0, 0] ∧
    (st2 (ev .frameReceive (takes goodFrame) (WEth 0 (aStream 0 false [] none)))).waiting = [[1, 2, 3]] ∧
    (st2 (ev .frameReceive (takes goodFrame) (WEth (2 ^ 24) (aStream 0 false [] none)))).dropped = 1 ∧ (st2 (ev .frameReceive (takes goodFrame) (WEth 0 (aStream 2 true [] none)))).dropped = 1 ∧
    (st2 (ev .ingestRecordWrite p32 (WEth 0 (aStream 0 false [[1, 2, 3]] none)))).next = some 1 ∧
    memRead (ev .ingestRecordWrite p32 (WEth 0 (aStream 0 false [[1, 2, 3]] (some 1)))).mem 0x28028 8 = 0x030201 ∧
    memRead (ev .ingestRecordWrite p32 (WEth 0 (aStream 0 false [[1, 2, 3]] (some 0)))).mem 0x28020 8 = 3 * 2 ^ 32 + 6 ∧
    ((ev .ingestRecordWrite p32 (WFull5 (aStream 0 false [[1, 2, 3]] none))).ethPort P3).sent = [(8, 77)] ∧ (st2 (ev .streamResume p32 (WEth 0 (aStream 0 true [[1]] none)))).stopped = false ∧
    idle .streamResume p32 (WFull5 (aStream 0 true [[1]] none)) = true ∧ ((ev .pauseRefresh (.portNum P3 8) (WEth 0 (aStream 0 true [[1]] none))).ethPort P3).sent = [(8, 77)] ∧
    idle .pauseRefresh (.portNum P3 8) (WEth 0 (aStream 0 false [[1]] none)) = true := by decide +kernel
theorem test_hyps_host_access : memWf WHdm.mem = true ∧ OneLine 0x20100 [(0, 7#8), (9, 8#8)] ∧ Decodes WHdm pr0 0 0x20100 [(0, 7#8), (9, 8#8)] ∧ Decodes WHdm pr0 1 0x21100 [(0, 7#8), (9, 8#8)] ∧
    ¬ Decodes WHdm pr0 1 0x20100 [(0, 7#8), (9, 8#8)] ∧ ¬ Decodes WHdm pr0 0 0x21100 [(0, 7#8), (9, 8#8)] ∧ ¬ Decodes WHdm pr0 0 0x30100 [(0, 7#8), (9, 8#8)] ∧
    ¬ Decodes WHdm pr0 1 0x30100 [(0, 7#8), (9, 8#8)] ∧ (WHdm.pkg 0).mgmt.links.length = 17 ∧ WHdm.lockWaiters = [] ∧ WHdm.feWaiters = [] := by
  unfold OneLine Decodes; decide +kernel
theorem test_hyps_frames : ((WEth 0 (aStream 0 false [] none)).ethPort P3).counts.length = 8 ∧ (st2 (WEth 0 (aStream 0 false [] none))).wants ⟨1, none, 9, [1, 2, 3]⟩ = true ∧
    (∀ k, k < 64 → ((WEth 0 (aStream 0 false [] none)).stream P3 k).wants ⟨1, none, 8, [1, 2, 3]⟩ = false) ∧ (∀ j, j < 2 → ((WEth 0 (aStream 0 false [] none)).stream P3 j).wants ⟨1, none, 9, [1, 2, 3]⟩ = false) ∧
    (aStream 0 false [] none).stopped = false ∧ (aStream 2 true [] none).act = 2 ∧ (aStream 0 false [[1, 2, 3]] none).recw = 2 ∧ (aStream 0 false [[1, 2, 3]] none).hdr = true ∧
    (∀ i, i < 2 → feGet (WEth 0 (aStream 0 false [[1, 2, 3]] none)).fe ((aStream 0 false [[1, 2, 3]] none).recordWord 0 + i) = false) ∧
    feGet (WFull5 (aStream 0 false [[1, 2, 3]] none)).fe ((aStream 0 false [[1, 2, 3]] none).recordWord 0 + 0) = true ∧ (WEth 0 (aStream 0 false [] none)).feWaiters = [] ∧
    heldBack (WEth 0 (aStream 0 true [[1]] none)) P3 8 = true ∧ heldBack (WEth 0 (aStream 0 false [[1]] none)) P3 8 = false ∧ memWf (WEth 0 (aStream 0 false [] none)).mem = true := by decide +kernel

/-- A droop sequence since cycle 100, the core's cycle 100 + `n`; 16 errors in a tile and in an extension of a core. -/
def WDroop (n : Nat) : State := ((rdy id).updTile T0 (fun x => { x with drpFrom := some 100 })).updCore ⟨0, 0, 0, 0⟩ (fun x => { x with cycle := 100 + n })
def WErr (n : Nat) : State :=
  { (rdy id).updTile T0 (fun x => { x with errors := List.replicate n 0 }) with cores := [(⟨0, 0, 0, 0⟩, { (rdy id).core ⟨0, 0, 0, 0⟩ with errors := List.replicate n (0, 0) })] }
theorem test_device : ((ev .droopTrip (.tile T0) (rdy id)).tile T0).drpStr = 6 ∧ ((ev .droopTrip (.tile T0) (rdy id)).tile T0).drpTrips = 1 ∧
    ((ev .droopSequenceEnd (.tile T0) (WDroop 70)).tile T0).drpFrom = none ∧ idle .droopSequenceEnd (.tile T0) (WDroop 69) = true ∧ (ev .softError (.num 5) (rdy id)).bad 40 = true ∧
    (evT .softError (.threadNum 0 7) (rdy id)).badRegs = 0x80#64 ∧ ((ev .softError (.tileNum T0 0) (WErr 16)).tile T0).fenced = true ∧
    ((ev .softError (.tileNum T0 0) (WErr 15)).tile T0).fenced = false ∧ ((ev .softError (.coreNum ⟨0, 0, 0, 0⟩ 0) (WErr 16)).core ⟨0, 0, 0, 0⟩).available = false ∧
    ((ev .softError (.coreNum ⟨0, 0, 0, 0⟩ 0) (WErr 16)).core ⟨0, 0, 0, 0⟩).extid = 30#5 ∧ ((ev .powerSample (.pkgWords 0 [1, 2, 3, 4, 5, 6, 7, 8, 2400001]) (rdy id)).pkg 0).mgmt.throttle = 1 ∧
    ((ev .powerSample (.pkgWords 0 [1, 2, 3, 4, 5, 6, 7, 8, 2400000]) (rdy id)).pkg 0).mgmt.throttle = 0 ∧ idle .powerSample (.pkgWords 0 [1]) (rdy id) = true ∧
    (ev .deviceReset (.pkg 0) (rdy id)).threads = [] ∧ ((ev .deviceReset (.pkg 0) (rdy id)).pkg 0).ready = false ∧ ((ev .deviceReady (.pkg 0) (rdy id)).pkg 0).ready = true ∧
    idle .deviceReady (.pkg 0) ((rdy id).updPkg 0 (fun x => { x with highestVersion := 9 })) = true := by decide +kernel
theorem test_hyps_device : memWf (WDroop 70).mem = true ∧ ((WDroop 70).tile T0).drpFrom = some 100 ∧ (∀ e ∈ (WDroop 70).cores, e.1.tileRef = T0 → 100 + 70 ≤ e.2.cycle) ∧
    (∃ e ∈ (WDroop 69).cores, e.1.tileRef = T0 ∧ e.2.cycle < 100 + 70) ∧ okS (rdy id) = true ∧
    16 ≤ (((WErr 16).tile T0).errors.filter (fun t => (WErr 16).now 0 < t + 3600000000000)).length ∧
    (((WErr 15).tile T0).errors.filter (fun t => (WErr 15).now 0 < t + 3600000000000)).length < 16 ∧
    16 ≤ (((WErr 16).core ⟨0, 0, 0, 0⟩).errors.filter (fun x => x.1 == 0 && (WErr 16).now 0 < x.2 + 3600000000000)).length ∧
    ((WErr 16).core ⟨0, 0, 0, 0⟩).extid.getLsbD 0 = true ∧ T0 ∈ allTiles 0 ∧ ((rdy id).pkg 0).highestVersion ≤ ((rdy id).pkg 0).blob.version ∧ ((rdy id).pkg 0).blob.signed = true ∧ ((rdy id).pkg 0).blob.deviceGood = true ∧
    parseFrame otherFrame = some ⟨1, none, 8, [1, 2, 3]⟩ ∧
    (((rdy id).updPkg 0 (fun x => { x with highestVersion := 9 })).pkg 0).blob.version < (((rdy id).updPkg 0 (fun x => { x with highestVersion := 9 })).pkg 0).highestVersion := by decide +kernel

/-! ### Management -/

/-- The firmware is at command `code` with the request `req`; partition 0 exists. -/
def WCmd (code : Nat) (req : List Word) (f : State → State) : State :=
  f ((rdy id).updPkg 0 (fun x => { x with mgmt := { x.mgmt with busy := true, cmd := code, len := 8 * req.length, req := req } }))
def pk : Obj := .pkg 0
def result (i : Instr) (s : State) : Nat × List Nat := let m := ((ev i pk s).pkg 0).mgmt; (m.result, (m.rsp.take (m.rlen / 8)).map (·.toNat))
def w' (n : Nat) : Word := BitVec.ofNat 64 n
def noParts (s : State) : State := { s with parts := [], threads := [] }
def bare (s : State) : State := { s with threads := [] }
def ps (item : Nat) (vs : List Word) : State := WCmd 3 (w' (item * 65536) :: vs) id
def pset (item : Nat) (vs : List Word) : Part := (ev .pset pk (ps item vs)).part pr0
def psetR (item : Nat) (vs : List Word) : Nat := (result .pset (ps item vs)).1
def queueOf (s : State) : TaskQueue := (ev .qassign pk s).taskQueue ⟨0, 0, 5⟩
def owned (b : Bool) (s : State) : State := { s with taskQueues := [(⟨0, 0, 5⟩, if b then tq true [aPacket] else ⟨none, false, [], [], []⟩)] }
theorem test_mailbox : ((ev .mgdoor (.reg 0 0 0x0 0x80031) (WCmd 1 [] id)).pkg 0).mgmt.drop = 1 ∧ (ev .mgdoor (.reg 0 0 0x0 0x80031) (rdy id)).agenda = [.event .clkget pk] ∧
    ((ev .mgdoor (.reg 0 0 0x0 0x80099) (rdy id)).pkg 0).mgmt.result = 1 ∧ idle .pcreate pk (rdy id) = true ∧ (result .pcreate (WCmd 1 [] id)).1 = 2 ∧
    (result .pcreate (WCmd 1 [w' 0x10] id)).1 = 2 ∧ ((ev .mgmtCommandDone pk (WCmd 1 [] (fun s => s.updPkg 0 (fun x => { x with mgmt := { x.mgmt with ran := true, intc := 1 } })))).pkg 0).vectors = [0] ∧
    idle .mgmtCommandDone pk (WCmd 1 [] id) = true := by decide +kernel
theorem test_partitions : [w' 14, w' 0, w' 13].map (fun w => (result .pcreate (WCmd 1 [w] id)).1) = [4, 3, 0] ∧ (result .pdestroy (WCmd 2 [w' 0] id)).1 = 3 ∧
    (result .pdestroy (WCmd 2 [w' 0] bare)).1 = 0 ∧ ((ev .pdestroy pk (WCmd 2 [w' 0] bare)).parts.get? pr0) = none ∧ psetR 0 [] = 2 ∧ psetR 16 [] = 2 ∧
    (result .pset (WCmd 3 [w' 0x20000, w' 1] noParts)).1 = 3 ∧ (pset 2 [w' 0x3FFF]).slots = 0x3FFF ∧ psetR 2 [w' 0x4000] = 2 ∧ (pset 4 [w' 31]).pfloor = 31 ∧ psetR 4 [w' 32] = 4 ∧
    (pset 5 [w' 1]).slack = true ∧ (pset 6 [w' 0x18000]).root = 0x18000 ∧ psetR 6 [w' 0x4000] = 4 ∧ psetR 7 [w' 0x104] = 4 ∧ (pset 8 [w' 9]).wdog = 9 ∧ psetR 8 [w' (2 ^ 32)] = 4 ∧
    (pset 12 [w' 15]).ptepol = 15 ∧ psetR 13 [w' (144 * 8)] = 4 ∧ (pset 13 [w' (143 * 8)]).syscore = w' (143 * 8) ∧ (pset 14 [w' 5, w' 6]).injSpan = 6 ∧
    (pset 15 [w' 0x10000, w' 9]).ctxSize = 9 ∧ psetR 15 [w' 0x8000, w' 9] = 4 ∧ (pset 1 (w' 3 :: List.replicate 8 0)).tiles = [0, 1] ∧
    (pset 9 [w' 64, 0, 0, 0, 0, 0, 0, 0]).htabs = [64, 0, 0, 0, 0, 0, 0, 0] ∧ psetR 9 [w' 65, 0, 0, 0, 0, 0, 0, 0] = 4 ∧ (pset 10 [w' 1, w' (3 + 5 * 65536)]).routes = [(3, 5)] ∧
    (pset 11 [w' 0x0101010101010100, w' 0x0F0F0F0F0F0F0F0F]).vstates.getD 8 0 = 15 ∧ psetR 11 [w' 0x0F, w' 0] = 4 ∧ psetR 3 [w' 65089] = 3 ∧ (pset 3 [w' 120]).pool = 7 ∧
    (pset 3 [w' 100]).debt = 13 := by decide +kernel
theorem test_pget_queues : (result .pget (WCmd 4 [w' 0x100000] id)).1 = 2 ∧ (result .pget (WCmd 4 [w' 0x20000] noParts)).1 = 3 ∧ result .pget (WCmd 4 [w' 0x20000] id) = (0, [0x3FFF]) ∧
    result .pget (WCmd 4 [w' 0x30000] id) = (0, [113]) ∧ result .pget (WCmd 4 [w' 0xA0000] id) = (0, [0]) ∧ (result .qassign (WCmd 0x10 [w' 0x8005] (owned true))).1 = 3 ∧
    (queueOf (WCmd 0x10 [w' 0x8005] (owned false))).part = none ∧ (result .qassign (WCmd 0x10 [w' 0xE05] id)).1 = 4 ∧ (result .qassign (WCmd 0x10 [w' 0x105] id)).1 = 3 ∧
    (queueOf (WCmd 0x10 [w' 5] (owned true))).packets = [aPacket] ∧ (queueOf (WCmd 0x10 [w' 5] (owned false))).part = some 0 ∧
    (result .hdmset (WCmd 0x11 [w' 14, 0, 0] id)).1 = 4 ∧ (result .hdmset (WCmd 0x11 [w' 1, 0, 0] id)).1 = 3 ∧ (result .hdmset (WCmd 0x11 [w' 0, w' (2 ^ 62), w' (2 ^ 28)] id)).1 = 4 ∧
    ((ev .hdmset pk (WCmd 0x11 [w' 0x100, w' (2 ^ 28), w' (2 ^ 28)] id)).part pr0).hdm.getD 1 (0, 0) = (2 ^ 28, 2 ^ 28) := by decide +kernel

def portW (x : Ingest) (s : State) : State := (s.updEth P3 (fun y => { y with quanta := 77, streams := [(2, x)] })).updPart pr0 (fun y => { y with hdm := [(0x20000, 0x10000), (0, 0)] })
def sset (act : Nat) (base : Nat) (en : Bool) : State :=
  WCmd 0x20 [w' 0x302, w' base, w' ((if en then 2 ^ 63 else 0) + act * 2 ^ 61 + 2 * 2 ^ 32 + 4), 0, 0] (portW (aStream 0 true [] none))
def plan (lo hi : Nat) : List Word := w' (2 ^ 63 + hi * 2 ^ 32 + lo) :: List.replicate 31 0
def upM (f : Mgmt → Mgmt) (s : State) : State := s.updPkg 0 (fun x => { x with mgmt := f x.mgmt })
def drp (mv t : Nat) : State := WCmd 0x32 [w' (1 + t * 2 ^ 8 + mv * 2 ^ 32)] id
theorem test_reports : [sset 0 0x28000 true, sset 3 0x28000 true, sset 0 0x40000 true, sset 0 0x40000 false].map (fun s => (result .streamset s).1) = [0, 4, 4, 0] ∧
    (st2 (ev .streamset pk (sset 0 0x28000 true))).stopped = false ∧ (result .streamget (WCmd 0x21 [w' 0x302] (portW (aStream 0 true [] none)))).2.length = 7 ∧
    ((ev .portset pk (WCmd 0x22 [w' 0x300, w' 9] id)).ethPort P3).quanta = 9 ∧ (result .portcnt (WCmd 0x23 [w' 0x300] id)).2 = [0, 0, 0, 0, 0, 0, 0, 0] ∧
    (result .clkset (WCmd 0x30 (plan 2800 2805) id)).1 = 3 ∧ ((ev .clkset pk (WCmd 0x30 (plan 2995 3005) id)).pkg 0).clkplan.head? = some (w' (2 ^ 63 + 3005 * 2 ^ 32 + 2995)) ∧
    [drp 19 255, drp 121 255, drp 20 144, drp 120 255].map (fun s => (result .drpset s).1) = [2, 2, 4, 0] ∧ ((ev .drpset pk (drp 120 255)).tile ⟨0, 1, 143⟩).drpTh = 120 ∧
    ((ev .drpset pk (drp 30 7)).tile ⟨0, 1, 7⟩).drpTh = 30 ∧ result .retread (WCmd 0x34 [] id) = (0, []) ∧ result .retread (WCmd 0x34 [] (upM (fun m => { m with retire := [[w' 4, w' 5], []] }))) = (0, [4, 5]) ∧
    (result .telem (WCmd 0x35 [] id)).2.length = 9 ∧ (result .linkcnt (WCmd 0x36 [] id)).2.length = 17 ∧ (ev .dreset pk (WCmd 0x40 [] id)).agenda.contains (.event .deviceReset pk) = true ∧
    (ev .bmcReplanRequest pk (rdy id)).agenda.contains (.event .marginReplan pk) = true := by decide +kernel
theorem test_clock_plan : (List.range 16).filter (fun q => !clockClear (plan 2995 3005) (pointMHz q)) = [1, 2, 6, 11] := by decide +kernel
theorem command_of {s : State} {p code : Nat} {req : List Word} (h : (s.pkg p).mgmt.busy = true ∧ (s.pkg p).mgmt.ran = false ∧ (s.pkg p).mgmt.cmd = code ∧
    (s.pkg p).mgmt.len = 8 * req.length ∧ req.length ≤ 512 ∧ (s.pkg p).mgmt.req.take req.length = req) : Command s p code req := ⟨h.1, h.2.1, h.2.2.1, h.2.2.2.1, h.2.2.2.2.1, h.2.2.2.2.2⟩
theorem test_hyps_commands : ((rdy id).pkg 0).mgmt.busy = false ∧ ((WCmd 1 [] id).pkg 0).mgmt.busy = true ∧ Command (WCmd 1 [] id) 0 1 [] ∧ Command (WCmd 1 [w' 14] id) 0 1 [w' 14] ∧
    Command (WCmd 1 [w' 13] id) 0 1 [w' 13] ∧ (WCmd 1 [w' 13] id).parts.get? ⟨0, 13⟩ = none ∧ (WCmd 1 [w' 0] id).parts.get? pr0 ≠ none ∧ Command (WCmd 2 [w' 0] bare) 0 2 [w' 0] ∧
    Idle (WCmd 2 [w' 0] bare) pr0 ∧ ¬ Idle (WCmd 2 [w' 0] id) pr0 ∧ Command (ps 2 [w' 0x3FFF]) 0 3 [w' 0x20000, w' 0x3FFF] ∧ Command (ps 4 [w' 32]) 0 3 [w' 0x40000, w' 32] ∧
    (4, [2 ^ 64 - 1]) ∈ plainItems ∧ (ps 4 [w' 32]).parts.get? pr0 ≠ none ∧ Command (WCmd 3 [w' 0x20000, w' 1] noParts) 0 3 [w' 0x20000, w' 1] ∧ (WCmd 3 [w' 0x20000, w' 1] noParts).parts.get? pr0 = none ∧
    Command (ps 3 [w' 120]) 0 3 [w' 0x30000, w' 120] ∧ ((ps 3 [w' 120]).part pr0).allot = 113 ∧ 120 - 113 ≤ ((ps 3 [w' 120]).pkg 0).freeShares + 0 ∧ ((ps 3 [w' 100]).part pr0).slackOut = [] ∧
    ((ps 3 [w' 100]).parts.filter (fun e => e.1.pkg == 0 && e.1.part != 0)) = [] ∧ Command (WCmd 4 [w' 0x20000] id) 0 4 [w' 0x20000] ∧ Command (WCmd 0x10 [w' 0x8005] (owned true)) 0 0x10 [w' 0x8005] ∧
    ((WCmd 0x10 [w' 5] (owned true)).taskQueue ⟨0, 0, 5⟩).part = some 0 ∧ ((WCmd 0x10 [w' 5] (owned false)).taskQueue ⟨0, 0, 5⟩).packets = [] ∧
    Command (WCmd 0x11 [w' 0x100, w' (2 ^ 28), w' (2 ^ 28)] id) 0 0x11 [w' 0x100, w' (2 ^ 28), w' (2 ^ 28)] ∧ inDevice (2 ^ 28) (2 ^ 28) = true ∧ inDevice (2 ^ 62) (2 ^ 28) = false ∧
    ((rdy id).part pr0).hdm.length = 2 ∧ (∀ v ∈ ((rdy id).part pr0).vstates, v < 256) := by
  and_intros
  all_goals first
    | decide +kernel
    | exact command_of (by decide +kernel)
    | exact ⟨by decide +kernel, by decide +kernel, by decide +kernel, by decide +kernel⟩
    | exact fun h => absurd h.threads (by decide +kernel)
def okStream (s : State) : Ingest := { s.stream P3 2 with desc := ((s.pkg 0).mgmt.req.drop 1).take 4 }
theorem disables_plan : disables (plan 2800 2805) 400 :=
  ⟨w' (2 ^ 63 + 2805 * 2 ^ 32 + 2800), by decide +kernel, by decide +kernel, 7, by decide +kernel⟩
theorem not_disables_plan : ¬ disables (plan 2995 3005) 400 := by
  rintro ⟨b, hb, hv, k, h1, h7, hlo, hhi⟩
  rcases List.mem_cons.mp hb with rfl | h
  · have e1 : bits (w' (2 ^ 63 + 3005 * 2 ^ 32 + 2995)).toNat 14 0 = 2995 := by decide +kernel
    have e2 : bits (w' (2 ^ 63 + 3005 * 2 ^ 32 + 2995)).toNat 46 32 = 3005 := by decide +kernel
    omega
  · rw [List.eq_of_mem_replicate h] at hv; simp at hv
theorem test_hyps_reports : Command (sset 0 0x28000 true) 0 0x20 (((sset 0 0x28000 true).pkg 0).mgmt.req) ∧ Acceptable (sset 0 0x28000 true) 0 (okStream (sset 0 0x28000 true)) ∧
    ¬ Acceptable (sset 3 0x28000 true) 0 (okStream (sset 3 0x28000 true)) ∧ Command (WCmd 0x22 [w' 0x300, w' 9] id) 0 0x22 [portWord 3 0, w' 9] ∧
    Command (WCmd 0x30 (plan 2800 2805) id) 0 0x30 (plan 2800 2805) ∧ disables (plan 2800 2805) 400 ∧ ¬ disables (plan 2995 3005) 400 ∧ (plan 2995 3005).length = 32 ∧
    Command (WCmd 0x31 [] id) 0 0x31 [] ∧ Command (drp 120 255) 0 0x32 [w' (1 + 255 * 2 ^ 8 + 120 * 2 ^ 32)] ∧ Command (WCmd 0x33 [] id) 0 0x33 [] ∧ Command (WCmd 0x40 [] id) 0 0x40 [] := by
  and_intros
  all_goals first
    | decide +kernel
    | exact command_of (by decide +kernel)
    | exact disables_plan
    | exact not_disables_plan
    | (constructor <;> decide +kernel)
    | exact fun h => absurd h.act (by decide +kernel)
theorem test_attestation : ((ev .getVersion pk (rdy id)).pkg 0).spdm = [0x10, 0x04, 0, 0, 0, 1, 0, 0x13] ∧ ((ev .getCapabilities pk (rdy id)).pkg 0).spdm.take 4 = [0x13, 0x61, 0, 0] ∧
    ((ev .getCertificate (.pkgWords 0 [1, 0, 5]) (rdy id)).pkg 0).spdm = [0x13, 0x7F, 1, 0] ∧ ((ev .getMeasurements (.pkgNum 0 0) (rdy id)).pkg 0).spdm.take 4 = [0x13, 0x60, 5, 0] ∧
    ((ev .getMeasurements (.pkgNum 0 6) (rdy id)).pkg 0).spdm = [0x13, 0x7F, 1, 0] ∧ idle .getVersion pk ((rdy id).updPkg 0 (fun x => { x with ready := false })) = true ∧
    idle .mgdoor (.reg 0 0 0x0 0x80031) ((rdy id).updPkg 0 (fun x => { x with ready := false })) = true := by decide +kernel
theorem test_hyps_ready : ((rdy id).pkg 0).ready = true ∧ ((rdy id).updPkg 0 (fun x => { x with ready := false })).pkg 0 ≠ (rdy id).pkg 0 ∧
    (((rdy id).updPkg 0 (fun x => { x with ready := false })).pkg 0).ready = false := by decide +kernel
def isNext (o : Host.Outcome State Fault Refusal) : Bool := match o with
  | .next _ => true
  | _ => false
theorem next_of {o : Host.Outcome State Fault Refusal} (h : isNext o = true) : ∃ s', o = .next s' := by
  unfold isNext at h; split at h
  · exact ⟨_, rfl⟩
  · cases h
/-- The hypotheses of the invariant, at reset and at the booted machine, with a step that answers. -/
theorem test_hyps_canonical : memWf (rdy id).mem = true ∧ feWf (rdy id).fe = true ∧ isNext (step (rdy id)) = true ∧ isNext (exec .snop (rdy id)) = true := by
  decide +kernel
theorem test_canonical_step : ∃ s', step (rdy id) = .next s' := next_of test_hyps_canonical.2.2.1

/-- A partition is destroyed with shares on their way to its pool and slack lent: they are on their way to Free. -/
def WEmptying : State := WCmd 2 [w' 0] (fun s => ({ s with threads := [], fresh := 7, transits := [(1, ⟨9, .pool pr0, none⟩), (2, ⟨4, .free 0, none⟩)] }).updPart pr0 (fun x =>
  { x with slackOut := [(T0, 3)] }))
theorem test_destroy_shares : coming (ev .pdestroy pk WEmptying) (.free 0) = 4 + (9 + 3) ∧ coming (ev .pdestroy pk WEmptying) (.pool pr0) = 0 := by decide +kernel
theorem test_hyps_destroy_shares : Command WEmptying 0 2 [w' 0] ∧ Idle WEmptying pr0 ∧ WEmptying.parts.get? pr0 ≠ none ∧ coming WEmptying (.pool pr0) = 9 ∧
    coming WEmptying (.free 0) = 4 ∧ (∀ e ∈ WEmptying.transits, e.1 < WEmptying.fresh) := by
  and_intros
  all_goals first
    | exact command_of (by decide +kernel)
    | exact ⟨by decide +kernel, by decide +kernel, by decide +kernel, by decide +kernel⟩
    | decide +kernel

/-! ### COORD and PART: the worked examples of R85 and R87 -/

/-- Level 0 `core, tcm`, level 1 `tile, scratch`, level 2 `die, shared` over 3 rows by 4 columns of tiles of die 0; the thread started on core 5 in
the second column of row `r`. -/
def WCoord (r : Nat) : State :=
  { rdy (fun t => regs [(1, 1000), (2, 0xC9), (3, 0x100C9), (4, 0xC8)] { t with start := ⟨0, 0, 12 * r + 1, 5, 0⟩ }) with
    launches := [(0, { aLaunch with words := [0, 0, BitVec.ofNat 64 (2 * 2 ^ 53 + 10 * 2 ^ 6 + 20 * 2 ^ 12), BitVec.ofNat 64 (1 + 3 * 2 ^ 32 + 4 * 2 ^ 37), 0] })] }
def coordLaunch : Launch := ((WCoord 1).launches.get? 0).getD aLaunch
theorem test_coord_part : gives (WCoord 1) (.coord 7 1) 7 = 0x0003000400010001 ∧ gives (WCoord 1) (.coord 7 0) 7 = 0x0001000800000005 ∧ gives (WCoord 1) (.coord 7 3) 7 = 0 ∧
    [0, 1, 2].map (fun r => gives (WCoord r) (.part 7 1 2) 7) = [0x0000018000000000, 0x0000014000000180, 0x00000128000002C0] ∧
    gives (WCoord 1) (.part 7 1 3) 7 = 2 ^ 64 - 1 := by decide +kernel
theorem test_hyps_constants : Issues WInt 0 (th WInt) [] [3] 1 ∧ Issues WInt 0 (th WInt) [63] [63] 1 ∧ Issues WInt 0 (th WInt) [1, 2] [0] 1 ∧ Issues WInt 0 (th WInt) [3, 1, 2] [3] 1 ∧
    Issues (WCoord 1) 0 (th (WCoord 1)) [] [7] 1 ∧ Issues (WCoord 1) 0 (th (WCoord 1)) [1, 2] [7] 1 ∧ (valueOf (WCoord 1) (th (WCoord 1)) 2).toNat % 8 = 1 ∧
    (WCoord 1).launches.get? (th (WCoord 1)).launch = some coordLaunch ∧ bits (coordLaunch.words.getD 2 0).toNat 55 53 = 2 ∧ coordLaunch.pkgs.length < 2 ^ 16 ∧
    bits (coordLaunch.words.getD 2 0).toNat 2 0 = 0 ∧ bits (coordLaunch.words.getD 2 0).toNat 8 6 = 2 ∧ bits (coordLaunch.words.getD 2 0).toNat 14 12 = 4 ∧
    Started coordLaunch (th (WCoord 1)) ∧ CoordIs coordLaunch (th (WCoord 1)) 1 0x0003000400010001#64 := by
  and_intros
  all_goals first
    | decide +kernel
    | exact issues_of (by decide +kernel)
    | (constructor <;> decide +kernel)
    | exact fun _ => ⟨fun _ _ => by decide +kernel, by decide +kernel, by decide +kernel, by decide +kernel, by decide +kernel⟩

end Sys2Proof.Tests
end

section
/-!
SUPPORT. Integer operations (05 R71 to R76): what a lone instruction of one result does, the words of formats A, I, B and J as sums of their
fields, and the values that the operations of R74 and R76 compute.
-/
namespace Sys2Proof.Slice0
open Sys2Proof Sys2Proof.Machine

/-! ### A lone instruction -/

/-- An instruction that passes its own checks and raises no flag has its effect in the state after issue (R41, R51). -/
theorem issueS_run {s : State} {tid : Nat} {t : Thread} (x : Sem) {ext : Nat} (h : Issues s tid t x.srcs x.wg ext)
    (hx : x.exts (ctxOf s tid t x.srcs) s = ext) (p : Passes s tid t x) (hf : x.flags (ctxOf s tid t x.srcs) = noFlags) :
    issueS x s = .next (x.run (ctxOf s tid t x.srcs) (afterIssue s tid t x.srcs)) := by
  rw [issueS_next h hx p, hf, flagged_none]

/-- An instruction that computes one g register writes it in the state after issue (R71). -/
theorem semReg_next {s : State} {tid : Nat} {t : Thread} {srcs : List (BitVec 6)} {d : BitVec 6} (f : Ctx → Word)
    (h : Issues s tid t srcs [d.toNat] 1) :
    issueS (semReg srcs d f) s = .next (regWrite tid d.toNat (f (ctxOf s tid t srcs)) (afterIssue s tid t srcs)) :=
  issueS_run (semReg srcs d f) h rfl ⟨rfl, rfl, rfl⟩ rfl

/-- A source field of an instruction that issues reads its register (R41). -/
theorem issues_g {s : State} {tid : Nat} {t : Thread} {srcs : List (BitVec 6)} {ds : List Nat} {ext : Nat}
    (h : Issues s tid t srcs ds ext) {r : BitVec 6} (hr : r ∈ srcs) : (ctxOf s tid t srcs).g r = valueOf s t r :=
  ctx_g h.apart h.sources hr

/-! ### Slot words as sums of their fields (R45) -/

/-- The value of a concatenation. -/
theorem toNat_append_eq_add {m n : Nat} (x : BitVec m) (y : BitVec n) : (x ++ y).toNat = x.toNat * 2 ^ n + y.toNat := by
  rw [BitVec.toNat_append, ← Nat.shiftLeft_add_eq_or_of_lt y.isLt, Nat.shiftLeft_eq]

/-- Format A. -/
theorem formatA_eq (f : BitVec 8) (b a d m : BitVec 6) : f ++ b ++ a ++ d ++ m =
    BitVec.ofNat 32 (f.toNat * 2 ^ 24 + b.toNat * 2 ^ 18 + a.toNat * 2 ^ 12 + d.toNat * 2 ^ 6 + m.toNat) := by
  apply BitVec.eq_of_toNat_eq
  simp only [toNat_append_eq_add, BitVec.toNat_ofNat]
  omega

/-- Formats I and B: a field of 14 bits above two register fields. -/
theorem formatI_eq (i : BitVec 14) (a d m : BitVec 6) : i ++ a ++ d ++ m =
    BitVec.ofNat 32 (i.toNat * 2 ^ 18 + a.toNat * 2 ^ 12 + d.toNat * 2 ^ 6 + m.toNat) := by
  apply BitVec.eq_of_toNat_eq
  simp only [toNat_append_eq_add, BitVec.toNat_ofNat]
  omega

/-- Format I with a shift count, which fills the low 6 bits of the field (R75). -/
theorem formatI_count_eq (k a d m : BitVec 6) : 0#8 ++ k ++ a ++ d ++ m =
    BitVec.ofNat 32 (k.toNat * 2 ^ 18 + a.toNat * 2 ^ 12 + d.toNat * 2 ^ 6 + m.toNat) := by
  rw [formatA_eq]
  simp

/-- Format J: a displacement of 26 bits. -/
theorem formatJ_eq (j : BitVec 26) (m : BitVec 6) : j ++ m = BitVec.ofNat 32 (j.toNat * 2 ^ 6 + m.toNat) := by
  apply BitVec.eq_of_toNat_eq
  simp only [toNat_append_eq_add, BitVec.toNat_ofNat]
  omega

/-! ### Shifts and rotations as arithmetic -/

section Values
variable {n : Nat} (x y : BitVec n)

theorem shl_eq_ofInt (k : Nat) : x <<< k = BitVec.ofInt n (x.toNat * 2 ^ k : Nat) := by
  apply BitVec.eq_of_toNat_eq
  rw [BitVec.ofInt_natCast, BitVec.toNat_ofNat, BitVec.toNat_shiftLeft, Nat.shiftLeft_eq]

theorem shr_eq_ofInt (k : Nat) : x >>> k = BitVec.ofInt n (x.toNat / 2 ^ k : Nat) := by
  apply BitVec.eq_of_toNat_eq
  rw [BitVec.ofInt_natCast, BitVec.toNat_ofNat, BitVec.toNat_ushiftRight, Nat.shiftRight_eq_div_pow,
    Nat.mod_eq_of_lt (Nat.lt_of_le_of_lt (Nat.div_le_self ..) x.isLt)]

/-- The floor of a quotient by a power of 2, which the model writes with either division. -/
theorem fdiv_two_pow (A : Int) (k : Nat) : A.fdiv (2 ^ k) = A / ((2 ^ k : Nat) : Int) := by
  rw [Int.natCast_pow]
  exact Int.fdiv_eq_ediv_of_nonneg A (Int.le_of_lt (Int.pow_pos (by decide)))

theorem sshiftRight_eq_ofInt (k : Nat) : x.sshiftRight k = BitVec.ofInt n (x.toInt.fdiv (2 ^ k)) := by
  rw [fdiv_two_pow, ← Int.shiftRight_eq_div_pow, ← BitVec.toInt_sshiftRight, BitVec.ofInt_toInt]

/-- A rotation by less than the width: the part that moves down, beside the part that wraps to the top. -/
theorem rotateRight_eq_ofInt {k : Nat} (hk : k < n) :
    x.rotateRight k = BitVec.ofInt n (x.toNat / 2 ^ k + x.toNat % 2 ^ k * 2 ^ (n - k) : Nat) := by
  have hlow : x.toNat / 2 ^ k < 2 ^ (n - k) := by
    rw [Nat.div_lt_iff_lt_mul (Nat.two_pow_pos k), ← Nat.pow_add, Nat.sub_add_cancel (Nat.le_of_lt hk)]
    exact x.isLt
  have hwrap : x.toNat <<< (n - k) % 2 ^ n = (x.toNat % 2 ^ k) <<< (n - k) := by
    rw [Nat.shiftLeft_eq, Nat.shiftLeft_eq, show 2 ^ n = 2 ^ k * 2 ^ (n - k) by rw [← Nat.pow_add, Nat.add_sub_cancel' (Nat.le_of_lt hk)],
      Nat.mul_mod_mul_right]
  have hv : x.toNat / 2 ^ k + x.toNat % 2 ^ k * 2 ^ (n - k) = (x.rotateRight k).toNat := by
    rw [BitVec.rotateRight_def, Nat.mod_eq_of_lt hk, BitVec.toNat_or, BitVec.toNat_ushiftRight, BitVec.toNat_shiftLeft, hwrap,
      Nat.shiftRight_eq_div_pow, Nat.or_comm, ← Nat.shiftLeft_add_eq_or_of_lt hlow, Nat.shiftLeft_eq, Nat.add_comm]
  rw [hv, BitVec.ofInt_natCast, BitVec.ofNat_toNat, BitVec.setWidth_eq]

/-! ### The operations of R74 -/

/-- The model's operation of each mnemonic of R74. -/
def IOp.run (op : IOp) : BitVec n → BitVec n → BitVec n :=
  match op with
  | .add => iAdd | .sub => iSub | .mul => iMul | .mulh => iMulh | .mulhu => iMulhu | .div => iDiv | .divu => iDivu | .rem => iRem
  | .remu => iRemu | .and => iAnd | .or => iOr | .xor => iXor | .andn => iAndn | .orn => iOrn | .shl => iShl | .shr => iShr | .sar => iSar
  | .ror => iRor | .min => iMin | .max => iMax | .minu => iMinu | .maxu => iMaxu | .slt => iSlt | .sltu => iSltu | .seq => iSeq
  | .sne => iSne

theorem ofInt_neg_one : BitVec.ofInt n (-1) = BitVec.allOnes n := by
  rw [← BitVec.neg_one_eq_allOnes, BitVec.ofInt_neg]
  simp

theorem ofInt_two_pow : BitVec.ofInt n (2 ^ n) = 0#n := by
  apply BitVec.eq_of_toNat_eq
  simp

/-- The most negative value over -1: the quotient does not fit, and wraps to the dividend (R74). -/
theorem ofInt_tdiv_overflow (hn : 0 < n) {A B : Int} (hA : A = -2 ^ (n - 1)) (hB : B = -1) :
    BitVec.ofInt n (A.tdiv B) = BitVec.ofInt n (-2 ^ (n - 1)) := by
  have hquot : A.tdiv B = -2 ^ (n - 1) + 2 ^ n := by
    have hdouble : (2 : Int) ^ n = 2 ^ (n - 1) * 2 := by
      rw [← Int.pow_succ, show (n - 1).succ = n by omega]
    rw [hA, hB, Int.tdiv_neg, Int.tdiv_one, hdouble]
    omega
  rw [hquot, BitVec.ofInt_add, ofInt_two_pow, BitVec.add_zero]

/-- An operand read signed is 0 exactly when it is the word 0. -/
theorem toInt_eq_zero_iff : y.toInt = 0 ↔ y = 0 := by
  rw [← BitVec.toInt_inj]
  simp

/-- An operand read unsigned is 0 exactly when it is the word 0. -/
theorem toNat_eq_zero_iff : y.toNat = 0 ↔ y = 0 := by
  rw [← BitVec.toNat_inj]
  simp

theorem ofInt_value_div (hn : 0 < n) : BitVec.ofInt n (IOp.div.value x y) = iDiv x y := by
  simp only [IOp.value, iDiv, toInt_eq_zero_iff, apply_ite (BitVec.ofInt n), ofInt_neg_one]
  by_cases hy : y = 0
  · rw [if_pos hy, if_pos hy]
  · rw [if_neg hy, if_neg hy]
    split
    case isTrue h => exact (ofInt_tdiv_overflow hn h.1 h.2).symm
    case isFalse => rfl

theorem ofInt_value_rem : BitVec.ofInt n (IOp.rem.value x y) = iRem x y := by
  simp only [IOp.value, iRem, toInt_eq_zero_iff, apply_ite (BitVec.ofInt n), BitVec.ofInt_toInt]
  by_cases hy : y = 0
  · rw [if_pos hy, if_pos hy]
  · rw [if_neg hy, if_neg hy]
    split
    case isTrue h => rw [h.2, Int.tmod_neg, Int.tmod_one]
    case isFalse => rfl

theorem ofInt_value_divu : BitVec.ofInt n (IOp.divu.value x y) = iDivu x y := by
  have hquot : BitVec.ofInt n (x.toNat / y.toNat : Nat) = x / y := by
    rw [← BitVec.toNat_udiv, BitVec.ofInt_natCast, BitVec.ofNat_toNat, BitVec.setWidth_eq]
  have hones : BitVec.ofInt n (2 ^ n - 1) = BitVec.allOnes n := by
    rw [Int.sub_eq_add_neg, BitVec.ofInt_add, ofInt_two_pow, BitVec.zero_add, ofInt_neg_one]
  simp only [IOp.value, iDivu, toNat_eq_zero_iff, apply_ite (BitVec.ofInt n), hquot, hones]

theorem ofInt_value_remu : BitVec.ofInt n (IOp.remu.value x y) = iRemu x y := by
  have hrem : BitVec.ofInt n (x.toNat % y.toNat : Nat) = x % y := by
    rw [← BitVec.toNat_umod, BitVec.ofInt_natCast, BitVec.ofNat_toNat, BitVec.setWidth_eq]
  simp only [IOp.value, iRemu, toNat_eq_zero_iff, apply_ite (BitVec.ofInt n), hrem]
  simp

/-- The model's operation computes the value of R74, modulo 2ⁿ (R72, R74). -/
theorem IOp.ofInt_value (hn : 0 < n) (op : IOp) : BitVec.ofInt n (op.value x y) = op.run x y := by
  cases op with
  | add => simp [IOp.value, IOp.run, iAdd, BitVec.ofInt_add]
  | sub => simp [IOp.value, IOp.run, iSub, Int.sub_eq_add_neg, BitVec.ofInt_add, BitVec.ofInt_neg, BitVec.sub_eq_add_neg]
  | mul => simp [IOp.value, IOp.run, iMul, BitVec.ofInt_mul]
  | mulh => exact congrArg (BitVec.ofInt n) (fdiv_two_pow _ n)
  | mulhu => exact BitVec.ofInt_natCast n _
  | div => exact ofInt_value_div x y hn
  | divu => exact ofInt_value_divu x y
  | rem => exact ofInt_value_rem x y
  | remu => exact ofInt_value_remu x y
  | and => simp [IOp.value, IOp.run, iAnd]
  | or => simp [IOp.value, IOp.run, iOr]
  | xor => simp [IOp.value, IOp.run, iXor]
  | andn => simp [IOp.value, IOp.run, iAndn, ← BitVec.toNat_not]
  | orn => simp [IOp.value, IOp.run, iOrn, ← BitVec.toNat_not]
  | shl => exact (shl_eq_ofInt x _).symm
  | shr => exact (shr_eq_ofInt x _).symm
  | sar => exact (sshiftRight_eq_ofInt x _).symm
  | ror => exact (rotateRight_eq_ofInt x (Nat.mod_lt _ hn)).symm
  | min => simp [IOp.value, IOp.run, iMin, BitVec.sle_iff_toInt_le, apply_ite (BitVec.ofInt n)]
  | max => simp [IOp.value, IOp.run, iMax, BitVec.sle_iff_toInt_le, apply_ite (BitVec.ofInt n)]
  | minu => simp [IOp.value, IOp.run, iMinu, BitVec.le_def, apply_ite (BitVec.ofInt n)]
  | maxu => simp [IOp.value, IOp.run, iMaxu, BitVec.le_def, apply_ite (BitVec.ofInt n)]
  | slt => simp [IOp.value, IOp.run, iSlt, BitVec.slt_iff_toInt_lt, apply_ite (BitVec.ofInt n)]
  | sltu => simp [IOp.value, IOp.run, iSltu, BitVec.lt_def, apply_ite (BitVec.ofInt n)]
  | seq => simp [IOp.value, IOp.run, iSeq, BitVec.toNat_inj, apply_ite (BitVec.ofInt n)]
  | sne => simp [IOp.value, IOp.run, iSne, BitVec.toNat_inj, apply_ite (BitVec.ofInt n)]

end Values

/-! ### Integer operations (R72 to R76) -/

/-- Every operation of R74 is issued as a register-register operation of its width: a walk through the rows of the table, which no other
instruction has a row of. -/
theorem exec_of_r74 {i : Instr} {op : IOp} {w : Bool} {d a b : BitVec 6} (h : r74 i = some (op, w, d, a, b)) (s : State) :
    exec i s = issueS (if w then semBinW d a b op.run else semBin d a b op.run) s := by
  cases i <;> cases h <;> rfl

/-- Its word in format A. -/
theorem encode_of_r74 {i : Instr} {op : IOp} {w : Bool} {d a b : BitVec 6} (h : r74 i = some (op, w, d, a, b)) :
    encode i = some (BitVec.ofNat 8 op.func ++ b ++ a ++ d ++ if w then 0x02#6 else 0x01#6) := by
  cases i <;> cases h <;> rfl

theorem IOp.func_lt (op : IOp) : op.func < 2 ^ 8 := by
  cases op <;> decide

/-- The result of R72 is the model's operation at the width of the form. -/
theorem IOp.result_eq (op : IOp) (w : Bool) (x y : Word) :
    op.result w x y = if w then (op.run (x.setWidth 32) (y.setWidth 32)).signExtend 64 else op.run x y := by
  simp only [IOp.result, IOp.ofInt_value _ _ (show 0 < 32 by decide), IOp.ofInt_value _ _ (show 0 < 64 by decide)]

/-- The model's value of an immediate operation (R76). -/
def immValue : Instr → Word → Word
  | .addi _ _ i => fun x => iAdd x (i.signExtend 64)
  | .andi _ _ i => fun x => iAnd x (i.signExtend 64)
  | .ori _ _ i => fun x => iOr x (i.signExtend 64)
  | .xori _ _ i => fun x => iXor x (i.signExtend 64)
  | .shli _ _ k => fun x => x <<< k.toNat
  | .shri _ _ k => fun x => x >>> k.toNat
  | .sari _ _ k => fun x => x.sshiftRight k.toNat
  | .rori _ _ k => fun x => x.rotateRight k.toNat
  | .slti _ _ i => fun x => iSlt x (i.signExtend 64)
  | .sltui _ _ i => fun x => iSltu x (i.signExtend 64)
  | .muli _ _ i => fun x => iMul x (i.signExtend 64)
  | _ => id

/-- Every immediate operation is issued as an operation of one source. -/
theorem exec_of_oneSource {i : Instr} {d a : BitVec 6} {f : Word → Word} (h : oneSource i = some (d, a, f)) (s : State) :
    exec i s = issueS (semReg [a] d (fun c => immValue i (c.g a))) s := by
  cases i <;> cases h <;> rfl

theorem ofInt_toInt_eq_signExtend {m : Nat} (i : BitVec m) : BitVec.ofInt 64 i.toInt = i.signExtend 64 := rfl

/-- The value of R76 is the model's. -/
theorem immValue_eq {i : Instr} {d a : BitVec 6} {f : Word → Word} (h : oneSource i = some (d, a, f)) (x : Word) :
    immValue i x = f x := by
  cases i <;> cases h
  case addi i =>
    change iAdd x (i.signExtend 64) = BitVec.ofInt 64 (x.toInt + i.toInt)
    rw [iAdd, BitVec.ofInt_add, BitVec.ofInt_toInt, ofInt_toInt_eq_signExtend]
  case andi => rfl
  case ori => rfl
  case xori => rfl
  case shli k => exact (shl_eq_ofInt x k.toNat).trans (BitVec.ofInt_natCast ..)
  case shri k => exact (shr_eq_ofInt x k.toNat).trans (BitVec.ofInt_natCast ..)
  case sari k => exact sshiftRight_eq_ofInt x k.toNat
  case rori k => exact (rotateRight_eq_ofInt x k.isLt).trans (BitVec.ofInt_natCast ..)
  case slti i => simp [immValue, iSlt, BitVec.slt_iff_toInt_lt, BitVec.toInt_signExtend_of_le]
  case sltui => rfl
  case muli i =>
    change iMul x (i.signExtend 64) = BitVec.ofInt 64 (x.toInt * i.toInt)
    rw [iMul, BitVec.ofInt_mul, BitVec.ofInt_toInt, ofInt_toInt_eq_signExtend]

/-- The word of an immediate operation in format I. -/
theorem encode_of_oneSource {i : Instr} {d a : BitVec 6} {f : Word → Word} (h : oneSource i = some (d, a, f)) :
    encode i = some (BitVec.ofNat 32 ((r76 i).2 * 2 ^ 18 + a.toNat * 2 ^ 12 + d.toNat * 2 ^ 6 + (r76 i).1)) := by
  cases i <;> cases h
  case shli | shri | sari | rori => exact congrArg some (formatI_count_eq ..)
  all_goals exact congrArg some (formatI_eq ..)

/-- Settles O6, by the tables of the instructions' meanings and words, and by the arithmetic value of each of the model's operations. -/
theorem integerOperationsWriteTheirTableValue : Obligations.IntegerOperationsWriteTheirTableValue := by
  unfold Obligations.IntegerOperationsWriteTheirTableValue
  refine ⟨fun i op w d a b h => ?_, fun s tid t i op w d a b h hi => ?_, fun _ _ _ _ => encode_of_oneSource, fun s tid t i d a f h hi => ?_⟩
  · rw [encode_of_r74 h, formatA_eq, BitVec.toNat_ofNat, Nat.mod_eq_of_lt op.func_lt]
    cases w <;> rfl
  · rw [exec_of_r74 h, IOp.result_eq, ← issues_g hi (r := a) (by simp), ← issues_g hi (r := b) (by simp)]
    cases w with
    | false => exact semReg_next _ hi
    | true => exact semReg_next _ hi
  · rw [exec_of_oneSource h, semReg_next _ hi, issues_g hi (by simp), immValue_eq h]

end Sys2Proof.Slice0
end

section
/-! SUPPORT. Branches, LOOP, jumps, the empty slots and PFX (05 R88 to R92, 03 R47, R49, R53, 06 R113). -/
namespace Sys2Proof.Slice0
open Sys2Proof Sys2Proof.Machine

/-! ### Faults of a lone instruction -/

/-- A decode check of the entry takes ILLOP with the bundle in EVAL (R51 step 4). -/
theorem issueS_illop {s : State} {tid : Nat} {t : Thread} (x : Sem) {srcs : List (BitVec 6)} {ds : List Nat} {ext : Nat}
    (h : Issues s tid t srcs ds ext) (hx : x.illop t = true) :
    issueS x s = .next (takeTrap tid cILLOP 0 s.bundle t.pc s) := by
  rw [issueS, issue_turn h]
  simp [issueThread, hx]

/-- A fault that the entry finds is taken, and the instruction has no effect (R41, R142). -/
theorem issueS_fault {s : State} {tid : Nat} {t : Thread} (x : Sem) {ext rank cause info : Nat} {eval : Word}
    (h : Issues s tid t x.srcs x.wg ext) (hx : x.exts (ctxOf s tid t x.srcs) s = ext) (hop : x.illop t = false)
    (hreg : x.illreg (ctxOf s tid t x.srcs) s = none) (hc : x.check (ctxOf s tid t x.srcs) s = .fault rank cause info eval)
    (hr : rank ≤ 101) (hl : cause ≠ cRLOST) (hb : cause ≠ cBRK) :
    issueS x s = .next (takeTrap tid cause info eval t.pc s) := by
  have hsrcs : x.srcs ++ semNop.srcs = x.srcs := List.append_nil _
  have hexts : (x.exts (ctxOf s tid t x.srcs) s ||| semNop.exts (ctxOf s tid t x.srcs) s) = ext := by
    rw [hx]; exact Nat.or_zero _
  have hclass : (illregOf x (ctxOf s tid t x.srcs) s).or (illregOf semNop (ctxOf s tid t x.srcs) s) = none := by
    have hnop : illregOf semNop (ctxOf s tid t x.srcs) s = none := rfl
    rw [hnop, Option.or_none, illregOf, hreg]
    simp only [ctxOf, h.mayWrite, h.bound, Option.map_none]
  have hworst : worst (worst (x.check (ctxOf s tid t x.srcs) s) (semNop.check (ctxOf s tid t x.srcs) s)) (regEcc t x.srcs) =
      .fault rank cause info eval := by
    have hnop : semNop.check (ctxOf s tid t x.srcs) s = .ok := rfl
    simp [hc, hnop, h.regEcc, worst, Verdict.rank, Nat.not_lt.mpr hr]
  unfold ctxOf at hexts hclass hworst
  rw [issueS, issue_turn h]
  simp only [issueThread, hsrcs, hop, conflict_nop_right, show semNop.illop t = false from rfl, Bool.or_false, Bool.false_eq_true,
    if_false, h.notEmpty, hexts, h.extensions, ne_eq, not_true_eq_false, hclass, hworst, hl, hb]

/-! ### Targets -/

/-- The target of a displacement in bundles (R89 to R91). -/
theorem branchTarget_eq_ofInt {m : Nat} (pc : Word) (k : BitVec m) :
    branchTarget pc (k.signExtend 64) = BitVec.ofInt 64 (pc.toInt + k.toInt * 8) := by
  rw [branchTarget, BitVec.ofInt_add, BitVec.ofInt_mul, BitVec.ofInt_toInt, ofInt_toInt_eq_signExtend]
  rfl

theorem setPc_branchTarget {m : Nat} (tid : Nat) (pc : Word) (k : BitVec m) (s : State) :
    setPc tid (branchTarget pc (k.signExtend 64)) s = goesTo tid (pc.toInt + k.toInt * 8) s := by
  rw [branchTarget_eq_ofInt]
  rfl

theorem setPc_eq_goesTo (tid : Nat) (v : Word) (s : State) : setPc tid v s = goesTo tid v.toInt s := by
  rw [goesTo, BitVec.ofInt_toInt]
  rfl

/-! ### Conditional branches (R89) -/

/-- Every branch of R89 is issued with a test of its condition. -/
theorem exec_of_r89 {i : Instr} {a b : BitVec 6} {k : BitVec 14} {c : Word → Word → Prop} (h : r89 i = some (a, b, k, c)) :
    ∃ taken : Word → Word → Bool, (∀ x y, taken x y = true ↔ c x y) ∧ ∀ s, exec i s = issueS (semBranch a b k taken) s := by
  cases i <;> cases h
  case beq => exact ⟨_, fun x y => beq_iff_eq, fun _ => rfl⟩
  case bne => exact ⟨_, fun x y => bne_iff_ne, fun _ => rfl⟩
  case blt => exact ⟨_, fun x y => BitVec.slt_iff_toInt_lt, fun _ => rfl⟩
  case bge => exact ⟨fun x y => !x.slt y, fun x y => by simp [BitVec.slt], fun _ => rfl⟩
  case bltu => exact ⟨_, fun x y => BitVec.ult_iff_lt, fun _ => rfl⟩
  case bgeu => exact ⟨fun x y => !x.ult y, fun x y => by simp [BitVec.ult], fun _ => rfl⟩

/-- Its word in format B. -/
theorem encode_of_r89 {i : Instr} {a b : BitVec 6} {k : BitVec 14} {c : Word → Word → Prop} (h : r89 i = some (a, b, k, c)) :
    encode i = some (BitVec.ofNat 32 (k.toNat * 2 ^ 18 + b.toNat * 2 ^ 12 + a.toNat * 2 ^ 6 + r89major i)) := by
  cases i <;> cases h <;> exact congrArg some (formatI_eq ..)

/-- A branch changes the pc where its test holds, and nothing else (R88, R89). -/
theorem semBranch_next {s : State} {tid : Nat} {t : Thread} {a b : BitVec 6} (k : BitVec 14) (taken : Word → Word → Bool)
    (h : Issues s tid t [a, b] [] 1) :
    issueS (semBranch a b k taken) s = .next (if taken (valueOf s t a) (valueOf s t b)
      then goesTo tid (t.pc.toInt + k.toInt * 8) (afterIssue s tid t [a, b]) else afterIssue s tid t [a, b]) := by
  rw [issueS_run (semBranch a b k taken) h rfl ⟨rfl, rfl, rfl⟩ rfl, ← issues_g h (r := a) (by simp), ← issues_g h (r := b) (by simp),
    ← setPc_branchTarget]
  rfl

/-! ### LOOP and jumps (R90 to R92) -/

/-- LOOP goes on while the count that it writes is not 0 (R90). -/
theorem semLoop_next {s : State} {tid : Nat} {t : Thread} {a : BitVec 6} (k : BitVec 14) (h : Issues s tid t [a] [a.toNat] 1) :
    issueS (semLoop a k) s = .next (if valueOf s t a - 1 ≠ 0
      then goesTo tid (t.pc.toInt + k.toInt * 8) (regWrite tid a.toNat (valueOf s t a - 1) (afterIssue s tid t [a]))
      else regWrite tid a.toNat (valueOf s t a - 1) (afterIssue s tid t [a])) := by
  rw [issueS_run (semLoop a k) h rfl ⟨rfl, rfl, rfl⟩ rfl, ← issues_g h (r := a) (by simp), ← setPc_branchTarget]
  rfl

/-- The count of LOOP reaches 0 from 1 alone. -/
theorem toNat_eq_one_iff (v : Word) : v.toNat = 1 ↔ v - 1 = 0 := by
  bv_omega

/-- JR with an aligned target links and jumps (R92). -/
theorem semJr_next {s : State} {tid : Nat} {t : Thread} {d a : BitVec 6} (h : Issues s tid t [a] [d.toNat] 1)
    (ha : (valueOf s t a).toNat % 8 = 0) :
    issueS (semJr d a) s = .next (goesTo tid (valueOf s t a).toInt (regWrite tid d.toNat (t.pc + 8) (afterIssue s tid t [a]))) := by
  have hg := issues_g h (r := a) (by simp)
  have hc : (semJr d a).check (ctxOf s tid t [a]) s = .ok := by
    simp only [semJr, hg, ha, ne_eq, not_true_eq_false, if_false]
  rw [issueS_run (semJr d a) h rfl ⟨rfl, rfl, hc⟩ rfl, ← setPc_eq_goesTo, ← hg]
  rfl

/-- JR with a misaligned target faults and writes nothing (R92). -/
theorem semJr_align {s : State} {tid : Nat} {t : Thread} {d a : BitVec 6} (h : Issues s tid t [a] [d.toNat] 1)
    (ha : (valueOf s t a).toNat % 8 ≠ 0) :
    issueS (semJr d a) s = .next (takeTrap tid cALIGN 2 (valueOf s t a) t.pc s) := by
  have hc : (semJr d a).check (ctxOf s tid t [a]) s = .fault 6 cALIGN 2 (valueOf s t a) := by
    simp only [semJr, issues_g h (r := a) (by simp), ne_eq, ha, not_false_eq_true, if_true]
  exact issueS_fault (semJr d a) h rfl rfl rfl hc (by decide) (by decide) (by decide)

/-! ### PFX (R53, R113) -/

/-- The pending flags of PFX: bit 4 says that there are some. -/
theorem pfx_flags_eq_ofNat (f : BitVec 4) : 16#5 ||| f.setWidth 5 = BitVec.ofNat 5 (16 + f.toNat) := by
  revert f
  decide

/-- Settles O13, by what each instruction does where it issues, and by the two faults of JR and PFX. -/
theorem controlFlowAndPrefix : Obligations.ControlFlowAndPrefix := by
  unfold Obligations.ControlFlowAndPrefix
  refine ⟨⟨fun s tid t i a b k c h => ⟨encode_of_r89 h, fun hi => ?_⟩, fun s tid t d a k j => ⟨?_, ?_, ?_, ?_, ?_, ?_⟩⟩,
    fun s tid t f => ⟨fun hi => ?_, fun hi => ?_⟩⟩
  · obtain ⟨taken, htaken, hexec⟩ := exec_of_r89 h
    rw [hexec, semBranch_next k taken hi]
    exact ⟨fun hc => by rw [if_pos ((htaken _ _).mpr hc)], fun hc => by rw [if_neg (fun e => hc ((htaken _ _).mp e))]⟩
  · exact congrArg some (formatJ_eq ..)
  · exact congrArg some (formatJ_eq ..)
  · intro hi
    rw [show exec (.loop a k) s = issueS (semLoop a k) s from rfl, semLoop_next k hi]
    simp only [toNat_eq_one_iff, ne_eq, ite_not]
    split
    case isTrue h0 => rw [h0]
    case isFalse => rfl
  · intro hi
    rw [← setPc_branchTarget]
    exact issueS_run (semJmp j) hi rfl ⟨rfl, rfl, rfl⟩ rfl
  · intro hi
    rw [← setPc_branchTarget]
    exact issueS_run (semJal j) hi rfl ⟨rfl, rfl, rfl⟩ rfl
  · exact fun hi => ⟨semJr_next hi, semJr_align hi⟩
  · exact ⟨issueS_run semSnop hi rfl ⟨rfl, rfl, rfl⟩ rfl,
      (issueV_next (x := semVnop) hi rfl ⟨rfl, rfl, rfl⟩).trans (congrArg _ (flagged_none ..))⟩
  · refine ⟨fun hp => ?_, fun hp => issueS_illop (semPfx f) hi hp⟩
    rw [← pfx_flags_eq_ofNat]
    exact issueS_run (semPfx f) hi rfl ⟨hp, rfl, rfl⟩ rfl

end Sys2Proof.Slice0
end

section
/-! SUPPORT. The bit and bit-field instructions, bit by bit (05 R78 to R80). -/
namespace Sys2Proof.Slice0
open Sys2Proof Sys2Proof.Machine

/-! ### Bits of words -/

/-- A bit of a word that is made of a number. -/
theorem bit_word {m j : Nat} (hj : j < 64) : bit (word m) j = m.testBit j := by
  rw [bit, word, BitVec.getLsbD_ofNat, decide_eq_true hj, Bool.true_and]

/-- A small number is the value of its word. -/
theorem toNat_word {m : Nat} (hm : m ≤ 64) : (word m).toNat = m := by
  rw [word, BitVec.toNat_ofNat, Nat.mod_eq_of_lt (by omega)]

theorem toNat_ne_zero {x : Word} (hx : x ≠ 0) : x.toNat ≠ 0 := fun h => hx ((toNat_eq_zero_iff x).mp h)

/-! ### CLZ, CTZ and POPC -/

theorem bitlen_of_ne_zero {m : Nat} (hm : m ≠ 0) : bitlen m = Nat.log2 m + 1 := if_neg hm

/-- The bit length of a word is at most its width. -/
theorem bitlen_toNat_le (x : Word) : bitlen x.toNat ≤ 64 := by
  by_cases h : x.toNat = 0
  · rw [h]; decide
  · rw [bitlen_of_ne_zero h]
    exact (Nat.log2_lt h).mpr x.isLt

theorem lt_two_pow_bitlen (m : Nat) : m < 2 ^ bitlen m := by
  by_cases h : m = 0
  · rw [h]; decide
  · rw [bitlen_of_ne_zero h]
    exact Nat.lt_log2_self

/-- CLZ counts the zeros above the highest 1 bit, the one at the bit length less 1. -/
theorem bitRule_clz (d a : BitVec 6) (x y : Word) : bitRule (.clz d a) x y (clz64 x) := by
  have hle := bitlen_toNat_le x
  have hv : (clz64 x).toNat = 64 - bitlen x.toNat := toNat_word (by omega)
  refine ⟨by omega, fun j hj => ?_, fun hx => ?_, fun hx => by rw [hx]; rfl⟩
  · exact Nat.testBit_lt_two_pow (Nat.lt_of_lt_of_le (lt_two_pow_bitlen _) (Nat.pow_le_pow_right (by decide) (by omega)))
  · have h0 := toNat_ne_zero hx
    have htop : 63 - (clz64 x).toNat = Nat.log2 x.toNat := by
      rw [bitlen_of_ne_zero h0] at hv hle
      omega
    rw [htop]
    exact Nat.testBit_log2 h0

/-- At or below every 1 bit there is the lowest one. -/
theorem exists_lowest_bit_of_bit {x : Word} {k : Nat} (hk : bit x k = true) : ∃ m, bit x m = true ∧ ∀ j < m, bit x j = false := by
  induction k using Nat.strongRecOn with
  | ind k ih =>
    by_cases hbelow : ∃ j, j < k ∧ bit x j = true
    · obtain ⟨j, hj, hbit⟩ := hbelow
      exact ih j hj hbit
    · exact ⟨k, hk, fun j hj => Bool.eq_false_iff.mpr fun hbit => hbelow ⟨j, hj, hbit⟩⟩

/-- A word other than 0 has a lowest 1 bit. -/
theorem exists_lowest_bit {x : Word} (hx : x ≠ 0) : ∃ k, k < 64 ∧ bit x k = true ∧ ∀ j < k, bit x j = false := by
  have hsome : ∃ k, bit x k = true := Classical.byContradiction fun hnone =>
    hx (BitVec.eq_of_getLsbD_eq fun j _ => by
      rw [show (0 : Word).getLsbD j = false from BitVec.getLsbD_zero]
      exact Bool.eq_false_iff.mpr fun hbit => hnone ⟨j, hbit⟩)
  obtain ⟨k, hk⟩ := hsome
  obtain ⟨m, hm, hlow⟩ := exists_lowest_bit_of_bit hk
  exact ⟨m, BitVec.lt_of_getLsbD hm, hm, hlow⟩

/-- A word and its negative share the lowest 1 bit, and no other. -/
theorem and_neg_eq_twoPow {x : Word} {k : Nat} (hk : bit x k = true) (hlow : ∀ j < k, bit x j = false) :
    x &&& -x = BitVec.twoPow 64 k := by
  apply BitVec.eq_of_getLsbD_eq
  intro j hj
  rw [BitVec.getLsbD_and, BitVec.getLsbD_neg, BitVec.getLsbD_twoPow]
  rcases Nat.lt_trichotomy j k with h | rfl | h
  · rw [show x.getLsbD j = false from hlow j h, decide_eq_false (Nat.ne_of_gt h), Bool.false_and, Bool.and_false]
  · have hnone : ¬∃ i, i < j ∧ x.getLsbD i = true := fun ⟨i, hi, h⟩ => Bool.false_ne_true ((hlow i hi).symm.trans h)
    rw [show x.getLsbD j = true from hk, decide_eq_false hnone, decide_eq_true hj, decide_eq_true rfl]
    rfl
  · have hsome : ∃ i, i < j ∧ x.getLsbD i = true := ⟨k, h, hk⟩
    rw [decide_eq_true hsome, decide_eq_true hj, decide_eq_false (Nat.ne_of_lt h), Bool.and_false]
    cases x.getLsbD j <;> rfl

/-- CTZ counts the zeros below the lowest 1 bit. -/
theorem bitRule_ctz (d a : BitVec 6) (x y : Word) : bitRule (.ctz d a) x y (ctz64 x) := by
  by_cases hx : x = 0
  · subst hx
    exact ⟨by decide, fun j _ => BitVec.getLsbD_zero, fun h => absurd rfl h, fun _ => rfl⟩
  · obtain ⟨k, hk64, hk, hlow⟩ := exists_lowest_bit hx
    have hv : (ctz64 x).toNat = k := by
      rw [ctz64, if_neg hx, and_neg_eq_twoPow hk hlow, BitVec.toNat_twoPow, Nat.mod_eq_of_lt (Nat.pow_lt_pow_right (by decide) hk64),
        Nat.log2_two_pow, toNat_word (Nat.le_of_lt hk64)]
    rw [bitRule, hv]
    exact ⟨Nat.le_of_lt hk64, hlow, fun _ => hk, fun h => absurd h hx⟩

theorem bitRule_popc (d a : BitVec 6) (x y : Word) : bitRule (.popc d a) x y (popc64 x) := by
  rw [bitRule, popc64, List.countP_eq_length_filter]
  exact toNat_word (Nat.le_trans (List.length_filter_le ..) (Nat.le_of_eq List.length_range))

/-! ### BREV and BSWAP -/

theorem bitRule_brev (d a : BitVec 6) (x y : Word) : bitRule (.brev d a) x y (brev64 x) := by
  intro j hj
  rw [bit, brev64, BitVec.getLsbD_reverse, BitVec.getMsbD_eq_getLsbD, decide_eq_true hj, Bool.true_and]

/-- A bit of a number made of bytes lies in the byte of its place. -/
theorem testBit_leNat (l : List Byte) (j : Nat) : (leNat l).testBit j = (l.getD (j / 8) 0).getLsbD (j % 8) := by
  induction l generalizing j with
  | nil => simp [leNat]
  | cons b bs ih =>
    rw [leNat, Nat.add_comm, show 256 = 2 ^ 8 from rfl, Nat.testBit_two_pow_mul_add _ b.isLt]
    split
    case isTrue h => rw [Nat.div_eq_of_lt h, Nat.mod_eq_of_lt h, List.getD_cons_zero, BitVec.testBit_toNat]
    case isFalse h =>
      rw [ih, show j / 8 = (j - 8) / 8 + 1 by omega, show j % 8 = (j - 8) % 8 by omega, List.getD_cons_succ]

/-- A byte of a number. -/
theorem getD_leBytes {n i : Nat} (m : Nat) (hi : i < n) : (leBytes n m).getD i 0 = BitVec.ofNat 8 (m / 256 ^ i) := by
  induction n generalizing m i with
  | zero => omega
  | succ n ih =>
    cases i with
    | zero => simp [leBytes]
    | succ i => rw [leBytes, List.getD_cons_succ, ih _ (by omega), Nat.div_div_eq_div_mul, Nat.pow_succ']

theorem length_leBytes (n m : Nat) : (leBytes n m).length = n := by
  induction n generalizing m with
  | zero => rfl
  | succ n ih => rw [leBytes, List.length_cons, ih]

/-- The bytes in reverse order. -/
theorem getD_reverse {l : List Byte} {i : Nat} (hi : i < l.length) : l.reverse.getD i 0 = l.getD (l.length - 1 - i) 0 := by
  rw [List.getD_eq_getElem?_getD, List.getElem?_reverse hi, ← List.getD_eq_getElem?_getD]

theorem bitRule_bswap (d a : BitVec 6) (x y : Word) : bitRule (.bswap d a) x y (bswap64 x) := by
  intro j hj
  have hlen := length_leBytes 8 x.toNat
  rw [bswap64, bit_word hj, testBit_leNat, getD_reverse (by omega), hlen, getD_leBytes _ (by omega), BitVec.getLsbD_ofNat,
    show 256 = 2 ^ 8 from rfl, ← Nat.pow_mul, Nat.testBit_div_two_pow, BitVec.testBit_toNat, decide_eq_true (Nat.mod_lt j (by decide)),
    Bool.true_and, show j % 8 + 8 * (8 - 1 - j / 8) = 8 * (7 - j / 8) + j % 8 by omega]

/-! ### BSET and BCLR -/

/-- The bits of 1 << k. -/
theorem getLsbD_one_shl {k j : Nat} (hk : k < 64) : (1#64 <<< k).getLsbD j = decide (j = k) := by
  rw [show 1#64 <<< k = BitVec.twoPow 64 k from rfl, BitVec.getLsbD_twoPow, decide_eq_true hk, Bool.true_and]
  exact decide_eq_decide.mpr eq_comm

theorem bitRule_bset (d a b : BitVec 6) (x y : Word) : bitRule (.bset d a b) x y (bset64 x y) := by
  intro j hj
  unfold bset64
  split
  case isTrue h => rw [bit, BitVec.getLsbD_or, getLsbD_one_shl h]
  case isFalse h => rw [decide_eq_false (by omega), Bool.or_false]

theorem bitRule_bclr (d a b : BitVec 6) (x y : Word) : bitRule (.bclr d a b) x y (bclr64 x y) := by
  intro j hj
  unfold bclr64
  split
  case isTrue h => rw [bit, BitVec.getLsbD_and, BitVec.getLsbD_not, getLsbD_one_shl h, decide_eq_true hj, Bool.true_and, decide_not]
  case isFalse h => rw [decide_eq_true (by omega), Bool.and_true]

/-! ### Bit fields (R80) -/

/-- A bit of the field of `n` bits from bit `o`. -/
theorem testBit_field (x : Word) (o n j : Nat) : (x.toNat / 2 ^ o % 2 ^ n).testBit j = (decide (j < n) && bit x (o + j)) := by
  rw [Nat.testBit_mod_two_pow, Nat.testBit_div_two_pow, BitVec.testBit_toNat, Nat.add_comm]

/-- `sgn` reads the low bits of a number as a signed word of that width (R36). -/
theorem sgn_eq_toInt (n m : Nat) : sgn n m = (BitVec.ofNat n m).toInt := by
  have hmsb : bitAt (m % 2 ^ n) (n - 1) = (BitVec.ofNat n m).msb := by
    rw [BitVec.msb_eq_getLsbD_last, ← BitVec.testBit_toNat, BitVec.toNat_ofNat, Nat.testBit_eq_decide_div_mod_eq]
    rfl
  rw [sgn, hmsb, BitVec.toInt_eq_msb_cond, BitVec.toNat_ofNat]

/-- The bits of a sign-extended number: its own, and above them copies of the highest (R36). -/
theorem bit_sext {n j : Nat} (hn : 0 < n) (hj : j < 64) (m : Nat) :
    bit (sext m n) j = if j < n then m.testBit j else m.testBit (n - 1) := by
  rw [sext, sgn_eq_toInt, ofInt_toInt_eq_signExtend, bit, BitVec.getLsbD_signExtend, decide_eq_true hj, Bool.true_and,
    BitVec.msb_eq_getLsbD_last, BitVec.getLsbD_ofNat, BitVec.getLsbD_ofNat]
  split
  case isTrue h => rw [decide_eq_true h, Bool.true_and]
  case isFalse h => rw [decide_eq_true (show n - 1 < n by omega), Bool.true_and]

theorem bitRule_bext (d a o w : BitVec 6) (x y : Word) : bitRule (.bext d a o w) x y (bext64 x o w) := by
  intro j hj
  change bit (bext64 x o w) j = if fieldWidth o w = 0 then false
    else if j < fieldWidth o w then bit x (o.toNat + j) else bit x (o.toNat + fieldWidth o w - 1)
  unfold bext64
  split
  case isTrue h => exact BitVec.getLsbD_zero
  case isFalse h =>
    rw [bit_sext (by omega) hj, testBit_field, testBit_field, decide_eq_true (show fieldWidth o w - 1 < fieldWidth o w by omega),
      Bool.true_and, ← Nat.add_sub_assoc (by omega)]
    split
    case isTrue hlt => rw [decide_eq_true hlt, Bool.true_and]
    case isFalse => rfl

theorem bitRule_bextu (d a o w : BitVec 6) (x y : Word) : bitRule (.bextu d a o w) x y (bextu64 x o w) := by
  intro j hj
  rw [bextu64, bit_word hj, testBit_field]
  rfl

/-- The bits of the mask of BINS: the field's. -/
theorem getLsbD_mask {n o j : Nat} (hj : j < 64) : (word ((2 ^ n - 1) * 2 ^ o)).getLsbD j = decide (o ≤ j ∧ j < o + n) := by
  rw [← bit, bit_word hj, Nat.testBit_mul_two_pow, Nat.testBit_two_pow_sub_one, ← Bool.decide_and]
  exact decide_eq_decide.mpr (by omega)

theorem bitRule_bins (d a o w : BitVec 6) (x y : Word) : bitRule (.bins d a o w) x y (bins64 x y o w) := by
  intro j hj
  change bit (bins64 x y o w) j =
    if o.toNat ≤ j ∧ j < o.toNat + fieldWidth o w then bit y (j - o.toNat) else bit x j
  rw [bins64, bit, BitVec.getLsbD_or, BitVec.getLsbD_and, BitVec.getLsbD_and, BitVec.getLsbD_not, getLsbD_mask hj, BitVec.getLsbD_shiftLeft]
  split
  case isTrue h => simp [h, hj]
  case isFalse h => simp [h, hj]

/-! ### Issue and words -/

/-- The model's value of a bit or bit-field instruction, from its sources in field order. -/
def bitValue : Instr → Word → Word → Word
  | .clz _ _ => fun x _ => clz64 x
  | .ctz _ _ => fun x _ => ctz64 x
  | .popc _ _ => fun x _ => popc64 x
  | .brev _ _ => fun x _ => brev64 x
  | .bswap _ _ => fun x _ => bswap64 x
  | .bset _ _ _ => bset64
  | .bclr _ _ _ => bclr64
  | .bext _ _ o w => fun x _ => bext64 x o w
  | .bextu _ _ o w => fun x _ => bextu64 x o w
  | .bins _ _ o w => fun x y => bins64 x y o w
  | _ => fun x _ => x

/-- The value that the model computes is as the rule says (R78, R80). -/
theorem bitRule_bitValue {i : Instr} {d x y : BitVec 6} {srcs : List (BitVec 6)} (h : bitOperands i = some (d, srcs, x, y))
    (p q : Word) : bitRule i p q (bitValue i p q) := by
  cases i <;> cases h
  case clz => exact bitRule_clz _ _ p q
  case ctz => exact bitRule_ctz _ _ p q
  case popc => exact bitRule_popc _ _ p q
  case brev => exact bitRule_brev _ _ p q
  case bswap => exact bitRule_bswap _ _ p q
  case bset => exact bitRule_bset _ _ _ p q
  case bclr => exact bitRule_bclr _ _ _ p q
  case bext => exact bitRule_bext _ _ _ _ p q
  case bextu => exact bitRule_bextu _ _ _ _ p q
  case bins => exact bitRule_bins _ _ _ _ p q

/-- Every bit and bit-field instruction is issued as an operation on its sources. -/
theorem exec_of_bitOperands {i : Instr} {d x y : BitVec 6} {srcs : List (BitVec 6)} (h : bitOperands i = some (d, srcs, x, y))
    (s : State) : exec i s = issueS (semReg srcs d (fun c => bitValue i (c.g x) (c.g y))) s := by
  cases i <;> cases h <;> rfl

/-- The operands of a rule are among the sources. -/
theorem bitOperands_mem {i : Instr} {d x y : BitVec 6} {srcs : List (BitVec 6)} (h : bitOperands i = some (d, srcs, x, y)) :
    x ∈ srcs ∧ y ∈ srcs := by
  cases i <;> cases h <;> simp

/-- The word of an instruction of R78 in format A; the unary ones have gb 0. -/
theorem encode_of_r78 {i : Instr} {f : Nat} {d a b : BitVec 6} (h : r78 i = some (f, d, a, b)) :
    encode i = some (BitVec.ofNat 8 f ++ b ++ a ++ d ++ 0x11#6) := by
  cases i <;> cases h <;> rfl

theorem r78_func_lt {i : Instr} {f : Nat} {d a b : BitVec 6} (h : r78 i = some (f, d, a, b)) : f < 2 ^ 8 := by
  cases i <;> cases h <;> decide

/-- The word in numbers. -/
theorem encode_of_r78_eq_ofNat {i : Instr} {f : Nat} {d a b : BitVec 6} (h : r78 i = some (f, d, a, b)) :
    encode i = some (BitVec.ofNat 32 (f * 2 ^ 24 + b.toNat * 2 ^ 18 + a.toNat * 2 ^ 12 + d.toNat * 2 ^ 6 + 0x11)) := by
  rw [encode_of_r78 h, formatA_eq, BitVec.toNat_ofNat, Nat.mod_eq_of_lt (r78_func_lt h)]
  rfl

/-! ### Words of major 0x11 that are no instruction (R51 step 2, R78) -/

/-- A field of a slot word as a number. -/
theorem toNat_fld (w : BitVec 32) (lo n : Nat) : (fld w lo n).toNat = w.toNat / 2 ^ lo % 2 ^ n := by
  rw [BitVec.extractLsb'_toNat, Nat.shiftRight_eq_div_pow]

/-- A word of major 0x11 names its candidate by func. -/
theorem candS_of_bitu {w : BitVec 32} (h : w.toNat % 64 = 0x11) : candS w = candBitu w := by
  have hmajor : (fld w 0 6).toNat = 0x11 := by
    rw [toNat_fld]
    omega
  simp only [candS, hmajor]

/-- A func above 6 names none. -/
theorem candBitu_of_func_ge {w : BitVec 32} (h : 7 ≤ w.toNat / 2 ^ 24) : candBitu w = none := by
  have hfunc : 7 ≤ (fld w 24 8).toNat := by
    rw [toNat_fld]
    omega
  unfold candBitu
  split
  case h_8 => rfl
  all_goals omega

/-- A func up to 4 names a unary instruction. -/
theorem candBitu_of_func_le {w : BitVec 32} (h : w.toNat / 2 ^ 24 ≤ 4) :
    ∃ i f d a, candBitu w = some i ∧ r78 i = some (f, d, a, 0) := by
  have hfunc : (fld w 24 8).toNat ≤ 4 := by
    rw [toNat_fld]
    omega
  unfold candBitu
  generalize (fld w 24 8).toNat = func at hfunc ⊢
  rcases (show func = 0 ∨ func = 1 ∨ func = 2 ∨ func = 3 ∨ func = 4 by omega) with rfl | rfl | rfl | rfl | rfl
  all_goals exact ⟨_, _, _, _, rfl, by rfl⟩

/-- The word of an instruction with gb 0 has no bit in the gb field. -/
theorem gb_field_eq_zero {i : Instr} {f : Nat} {d a : BitVec 6} {w : BitVec 32} (h : r78 i = some (f, d, a, 0)) (he : encode i = some w) :
    w.toNat / 2 ^ 18 % 64 = 0 := by
  have hf := r78_func_lt h
  have hw := Option.some.inj ((encode_of_r78_eq_ofNat h).symm.trans he)
  rw [← hw, BitVec.toNat_ofNat, show (0 : BitVec 6).toNat = 0 from rfl]
  omega

/-- A word whose candidate does not encode back to it is no instruction (R51 step 2). -/
theorem decodeS_eq_none {w : BitVec 32} {i : Instr} (hc : candS w = some i) (he : encode i ≠ some w) : decodeS w = none := by
  simp [decodeS, checked, hc, he]

/-- Settles O8, by the rule of each instruction bit by bit, and by the candidate that a word of major 0x11 names. -/
theorem bitInstructionsWriteTheirBits : Obligations.BitInstructionsWriteTheirBits := by
  unfold Obligations.BitInstructionsWriteTheirBits
  refine ⟨fun s tid t i d x y srcs h hi => ?_, fun _ _ _ _ _ => encode_of_r78_eq_ofNat, fun w hmajor hbad => ?_⟩
  · obtain ⟨hx, hy⟩ := bitOperands_mem h
    refine ⟨_, bitRule_bitValue h _ _, ?_⟩
    rw [exec_of_bitOperands h, semReg_next _ hi, issues_g hi hx, issues_g hi hy]
  · rcases hbad with hfunc | ⟨hfunc, hgb⟩
    · rw [decodeS, candS_of_bitu hmajor, candBitu_of_func_ge hfunc, checked]
    · obtain ⟨i, f, d, a, hcand, h⟩ := candBitu_of_func_le hfunc
      exact decodeS_eq_none ((candS_of_bitu hmajor).trans hcand) (fun he => hgb (gb_field_eq_zero h he))

end Sys2Proof.Slice0
end

section
/-! SUPPORT. Taking a synchronous fault: the bits of ESTAT and TSTAT that it leaves, and the privilege that it enters (08 R143). -/
namespace Sys2Proof.Slice0
open Sys2Proof Sys2Proof.Machine

/-! ### A field of a word that is replaced -/

/-- Replacing `n` bits from bit `l` keeps the parts above and below them. -/
theorem replace_field_eq (x l n v : Nat) :
    x - x / 2 ^ l % 2 ^ n * 2 ^ l + v % 2 ^ n * 2 ^ l = 2 ^ l * (2 ^ n * (x / 2 ^ l / 2 ^ n) + v % 2 ^ n) + x % 2 ^ l := by
  have hlow : 2 ^ l * (x / 2 ^ l) + x % 2 ^ l = x := Nat.div_add_mod x (2 ^ l)
  have hfield : 2 ^ n * (x / 2 ^ l / 2 ^ n) + x / 2 ^ l % 2 ^ n = x / 2 ^ l := Nat.div_add_mod (x / 2 ^ l) (2 ^ n)
  have hx : 2 ^ l * (2 ^ n * (x / 2 ^ l / 2 ^ n)) + 2 ^ l * (x / 2 ^ l % 2 ^ n) + x % 2 ^ l = x := by
    rw [← Nat.mul_add, hfield, hlow]
  rw [Nat.mul_add, Nat.mul_comm _ (2 ^ l), Nat.mul_comm _ (2 ^ l)]
  omega

/-- The bits of a word after a field of it is replaced: inside the field the new value's, outside it the word's own. -/
theorem getLsbD_putBits (w : Word) (h l v : Nat) {j : Nat} (hj : j < 64) :
    (putBits w h l v).getLsbD j = if l ≤ j ∧ j ≤ h then v.testBit (j - l) else w.getLsbD j := by
  rw [putBits, bits, replace_field_eq, BitVec.getLsbD_ofNat, decide_eq_true hj, Bool.true_and,
    Nat.testBit_two_pow_mul_add _ (Nat.mod_lt _ (Nat.two_pow_pos l)), ← BitVec.testBit_toNat]
  split
  case isTrue hbelow => rw [if_neg (by omega), Nat.testBit_mod_two_pow, decide_eq_true hbelow, Bool.true_and]
  case isFalse habove =>
    rw [Nat.testBit_two_pow_mul_add _ (Nat.mod_lt _ (Nat.two_pow_pos _))]
    split
    case isTrue hin => rw [if_pos (by omega), Nat.testBit_mod_two_pow, decide_eq_true hin, Bool.true_and]
    case isFalse hout =>
      rw [if_neg (by omega), Nat.testBit_div_two_pow, Nat.testBit_div_two_pow, show j - l - (h + 1 - l) + (h + 1 - l) + l = j by omega]

/-! ### The words that a fault writes -/

section Trap
variable (t : Thread) (handler firmware : Word) (cause info : Nat) (eval epc : Word)

/-- Step 1 of R143: ESTAT is TSTAT with the pending prefix in PFXV and PFXF. -/
theorem trap_estat_bit {j : Nat} (hj : j < 64) : (t.trap handler firmware cause info eval epc).estat.getLsbD j =
    if j = 4 then t.pfx.getLsbD 4
    else if 6 ≤ j ∧ j ≤ 9 then t.pfx.getLsbD 4 && t.pfx.getLsbD (j - 6) else t.tstat.getLsbD j := by
  rw [Thread.trap, getLsbD_putBits _ _ _ _ hj, getLsbD_putBits _ _ _ _ hj]
  by_cases hpfxv : j = 4
  · subst hpfxv
    cases t.pfx.getLsbD 4 <;> rfl
  · rw [if_neg hpfxv]
    split
    case isTrue hpfxf =>
      cases t.pfx.getLsbD 4 with
      | false => rw [if_neg Bool.false_ne_true, Nat.zero_testBit, Bool.false_and]
      | true =>
        rw [if_pos rfl, show 16 = 2 ^ 4 from rfl, Nat.testBit_mod_two_pow, BitVec.testBit_toNat,
          decide_eq_true (show j - 6 < 4 by omega)]
    case isFalse => rw [if_neg (by omega)]

/-- Steps 4 and 5 of R143: TSTAT takes the privilege, and PFXV, PFXF and TENT are cleared. -/
theorem trap_tstat_bit {j : Nat} (hj : j < 64) : (t.trap handler firmware cause info eval epc).tstat.getLsbD j =
    if j ≤ 1 then (if t.priv = 0 then 1 else 2 : Nat).testBit j
    else if j = 4 ∨ (6 ≤ j ∧ j ≤ 9) ∨ j = 13 then false else t.tstat.getLsbD j := by
  simp only [Thread.trap, getLsbD_putBits _ _ _ _ hj, Nat.zero_testBit]
  by_cases hpriv : j ≤ 1
  · rw [if_pos hpriv, if_neg (by omega), if_neg (by omega), if_neg (by omega), if_pos (by omega), Nat.sub_zero]
  · rw [if_neg hpriv, if_neg (show ¬(0 ≤ j ∧ j ≤ 1) by omega)]
    by_cases hclear : j = 4 ∨ (6 ≤ j ∧ j ≤ 9) ∨ j = 13
    · rw [if_pos hclear]
      obtain rfl | hpfxf | rfl := hclear
      · rfl
      · rw [if_neg (by omega), if_pos hpfxf]
      · rfl
    · rw [if_neg (by omega), if_neg (by omega), if_neg (by omega), if_neg hclear]

/-- A fault at U enters S, one at S or H enters H. -/
theorem trap_priv : (t.trap handler firmware cause info eval epc).priv = if t.priv = 0 then 1 else 2 := by
  apply Nat.eq_of_testBit_eq
  intro j
  rw [Thread.priv, bits, testBit_field, Nat.zero_add, bit]
  by_cases hj : j < 2
  · rw [trap_tstat_bit _ _ _ _ _ _ _ (by omega), if_pos (by omega), decide_eq_true hj, Bool.true_and]
  · have hlt : (if t.priv = 0 then 1 else 2 : Nat) < 2 ^ j :=
      Nat.lt_of_lt_of_le (by split <;> decide) (Nat.pow_le_pow_right (by decide) (Nat.le_of_not_lt hj))
    rw [decide_eq_false hj, Bool.false_and, Nat.testBit_lt_two_pow hlt]

/-- Step 6 of R143: the pc is the partition's handler at U, and the firmware entry else. -/
theorem trap_pc_eq : (t.trap handler firmware cause info eval epc).pc = if t.priv = 0 then handler else firmware := by
  rw [Thread.trap_pc]
  split <;> rfl

/-- A fault writes no general register and no FE bit of one. -/
theorem trap_sameG : SameG t (t.trap handler firmware cause info eval epc) [] := fun _ _ => ⟨rfl, rfl⟩

/-- A fault writes no vector state and gives up no lanes. -/
theorem trap_sameVector : SameVector t (t.trap handler firmware cause info eval epc) := ⟨rfl, rfl, rfl, rfl⟩

end Trap

/-- Settles O15: the thread after the fault is `Thread.trap` of it, whose words are known bit by bit; memory and the other threads are
left alone. -/
theorem takingAFault : Obligations.TakingAFault := by
  unfold Obligations.TakingAFault
  intro s tid t cause info eval epc ht
  refine ⟨_, takeTrap_thread cause info eval epc ht, Thread.trap_epc _, Thread.trap_eval _, Thread.trap_ecause _,
    fun j hj => trap_estat_bit _ _ _ _ _ _ _ hj, trap_priv .., fun j hlow hj => ?_, trap_pc_eq .., Thread.trap_status _,
    Thread.trap_pfx _, trap_sameG _ _ _ _ _ _ _, trap_sameVector .., Thread.trap_h _, Thread.trap_fctl _, Thread.trap_fmt _,
    Thread.trap_mstat _, Thread.trap_tlog _, Thread.trap_htab _, Thread.trap_relaxed _, Thread.trap_claim _, (takeTrap_memKept ..).same,
    takeTrap_agenda cause info eval epc ht, fun k hk => takeTrap_other cause info eval epc hk.symm⟩
  rw [trap_tstat_bit _ _ _ _ _ _ _ hj, if_neg (by omega)]

end Sys2Proof.Slice0
end
